-- ==== Sys2Proof/Word.lean ====
section
/-! DEFINITION. The words of the machine (R6): bytes, 16-, 32-, 64- and 128-bit values. -/

namespace Sys2Proof

abbrev Byte := BitVec 8
abbrev W16 := BitVec 16
abbrev W32 := BitVec 32
abbrev W64 := BitVec 64
abbrev W128 := BitVec 128

end Sys2Proof
end

