-- ==== Sys2Proof/Config.lean ====
section
/-! DEFINITION. What the spec leaves to the part: free values, which nothing in Lean can evaluate. Each stands in a
row of the assumption log. -/

namespace Sys2Proof

/-- The bits that an approximation unit returns (R202): operation, format code and operand bits. A result outside
the bound of R202 is not used. -/
opaque Config.approx : Nat → Nat → Nat → Nat

/-- A byte of the operand buffer that nothing has written (R259), by place. -/
opaque Config.obByte : Nat → Byte

/-- A byte of a poisoned line as an engine or the sequencer reads it (R389), by place. -/
opaque Config.poisonByte : Nat → Byte

/-- A byte read through a frame that two leaves share and one may write (R53, R386), by the model's counter of free values. -/
opaque Config.sharedByte : Nat → Byte

/-- A word that the spec leaves unspecified, by the model's counter of free values. -/
opaque Config.freeWord : Nat → W32

/-- What a failing sub-array computed (R267), by place in the tile. -/
opaque Config.failWord : Nat → W32

/-- Whether a signature over a message verifies under a public key (FIPS 205, R392). -/
opaque Config.slhVerify : List Byte → List Byte → List Byte → Bool

/-- A signature over a message by the alias key that indices 1 to 5 give the part (FIPS 205, R395). -/
opaque Config.slhSign : List (List Byte) → List Byte → List Byte

/-- SHAKE256 of a message, 64 bytes (FIPS 202, R392). -/
opaque Config.shake256 : List Byte → List Byte

/-- The boot ROM's own digest, fixed at manufacture (R394). -/
opaque Config.romDigest : List Byte

/-- The digest of the fuse state: revocations, security minimums (R394). -/
opaque Config.fuseDigest : List Bool → List (Nat × Nat) → List Byte

/-- How many of a queue's completion entries the host has taken since the queue was enabled, by queue and clock (R351). -/
opaque Config.cplTaken : Nat → Nat → Nat

/-- The permutation that a tenant's plug-in gives in a pass, and whether it is ended there, by tenant, partition and
clock (R359). -/
opaque Config.pluginOrder : Nat → Nat → Nat → List Nat
opaque Config.pluginEnds : Nat → Nat → Nat → Bool

/-- What a DMTF standard gives a reply where spec/ states nothing of it, by message type and command (R425). -/
opaque Config.dmtfReply : Nat → Nat → List Byte

/-- SHA3-384 of a message (FIPS 202, R394). -/
opaque Config.sha3 : List Byte → List Byte

/-- The chain that ends in the certificate for the alias key of indices 1 to 5 (R395, R396). -/
opaque Config.certificate : List (List Byte) → List Byte

end Sys2Proof
end

