-- ==== Sys2Proof/Machine/Bits.lean ====
section
/-! DEFINITION. Bit fields, byte order (R6) and the sparse maps with rising keys that State is made of. -/

namespace Sys2Proof.Machine

/-- Bits `lo .. lo+w-1` of a number. -/
def field (x lo w : Nat) : Nat := x / 2 ^ lo % 2 ^ w

/-- Bit `i` of a number. -/
def bit (x i : Nat) : Bool := x / 2 ^ i % 2 == 1

/-- The signed value of the low `w` bits of `x`. -/
def sval (w x : Nat) : Int :=
  let y := x % 2 ^ w
  if y < 2 ^ (w - 1) then (y : Int) else (y : Int) - (2 ^ w : Nat)

/-- An exact integer modulo 2^w (R177). -/
def wrap (w : Nat) (x : Int) : Nat := (x % ((2 ^ w : Nat) : Int)).toNat

/-- The `n` bytes of a number, lowest first (R6). -/
def toBytes : Nat → Nat → List Byte
  | 0, _ => []
  | n + 1, x => BitVec.ofNat 8 x :: toBytes n (x / 256)

/-- The number that little-endian bytes hold (R6). -/
def ofBytes : List Byte → Nat
  | [] => 0
  | b :: bs => b.toNat + 256 * ofBytes bs

/-- The set lanes of a 32-bit mask, lowest first. -/
def lanesOf (m : Nat) : List Nat := (List.range 32).filter (bit m)

/-- The mask of a list of lanes. -/
def maskOf : List Nat → Nat
  | [] => 0
  | l :: ls => if bit (maskOf ls) l then maskOf ls else maskOf ls + 2 ^ l

/-- The number rounded up to a multiple of `n`. -/
def roundUp (x n : Nat) : Nat := (x + n - 1) / n * n

/-- A power of two. -/
def isPow2 (x : Nat) : Bool := x ≠ 0 && 2 ^ Nat.log2 x = x

/-- Population count of the low `n` bits. -/
def popCount : Nat → Nat → Nat
  | 0, _ => 0
  | n + 1, x => x % 2 + popCount n (x / 2)

/-- Entry of a map kept with rising keys. -/
def mget {α : Type} : List (Nat × α) → Nat → Option α
  | [], _ => none
  | (k, v) :: m, i => if k = i then some v else if i < k then none else mget m i

/-- Sets an entry, keeping the keys rising. -/
def mset {α : Type} : List (Nat × α) → Nat → α → List (Nat × α)
  | [], i, x => [(i, x)]
  | (k, v) :: m, i, x =>
    if k = i then (i, x) :: m else if i < k then (i, x) :: (k, v) :: m else (k, v) :: mset m i x

/-- Removes an entry. -/
def mdel {α : Type} : List (Nat × α) → Nat → List (Nat × α)
  | [], _ => []
  | (k, v) :: m, i => if k = i then m else if i < k then (k, v) :: m else (k, v) :: mdel m i

/-- Changes an entry that exists. -/
def mmod {α : Type} (m : List (Nat × α)) (i : Nat) (f : α → α) : List (Nat × α) :=
  match mget m i with
  | some x => mset m i (f x)
  | none => m

/-- The keys of a map. -/
def mkeys {α : Type} (m : List (Nat × α)) : List Nat := m.map Prod.fst

/-- The least number from `i` on, below `i + fuel`, that has no entry. -/
def mfree {α : Type} (m : List (Nat × α)) : Nat → Nat → Option Nat
  | 0, _ => none
  | fuel + 1, i => match mget m i with
    | none => some i
    | some _ => mfree m fuel (i + 1)

/-- Reads a byte of a sparse memory; an unlisted place reads `d`. -/
def cget (d : Byte) (m : List (Nat × Byte)) (a : Nat) : Byte := (mget m a).getD d

/-- Writes a byte of a sparse memory whose unlisted places read `d`: writing `d` removes the entry. -/
def cset (d : Byte) (m : List (Nat × Byte)) (a : Nat) (b : Byte) : List (Nat × Byte) :=
  if b = d then mdel m a else mset m a b

/-- Keeps the entries whose key satisfies `p`. -/
def mfilter {α : Type} (p : Nat → Bool) (m : List (Nat × α)) : List (Nat × α) := m.filter fun e => p e.1

/-- The keys of a map rise strictly. -/
def rising {α : Type} : List (Nat × α) → Bool
  | [] => true
  | [_] => true
  | (k, _) :: (k', v') :: m => decide (k < k') && rising ((k', v') :: m)

/-- Replaces element `i` of a list. -/
def lset {α : Type} (l : List α) (i : Nat) (x : α) : List α := l.set i x

/-- A list of `n` copies. -/
def copies {α : Type} (n : Nat) (x : α) : List α := List.replicate n x

end Sys2Proof.Machine
end

