-- ==== Sys2Proof/Machine/Flags.lean ====
section
/-! DEFINITION. The exception flags of R86 as bits of FPSTAT, and rounding (R83, R85): from an exact value to the
bits of a format with the flags it raises. -/

namespace Sys2Proof.Machine

def flagNX : Nat := 1
def flagUF : Nat := 2
def flagOF : Nat := 4
def flagDZ : Nat := 8
def flagNV : Nat := 16

/-- The floating formats of R80. -/
inductive Fmt where
  | f64 | f32 | f16 | bf16 | e4m3 | e5m2
  deriving DecidableEq, Repr

def fmtBits : Fmt → Nat
  | .f64 => 64 | .f32 => 32 | .f16 => 16 | .bf16 => 16 | .e4m3 => 8 | .e5m2 => 8
/-- fraction bits -/
def fmtFrac : Fmt → Nat
  | .f64 => 52 | .f32 => 23 | .f16 => 10 | .bf16 => 7 | .e4m3 => 3 | .e5m2 => 2
def fmtBias : Fmt → Nat
  | .f64 => 1023 | .f32 => 127 | .f16 => 15 | .bf16 => 127 | .e4m3 => 7 | .e5m2 => 15
/-- exponent field of all ones -/
def fmtTop (f : Fmt) : Nat := 2 ^ (fmtBits f - 1 - fmtFrac f) - 1
/-- exponent of the smallest normal -/
def fmtEmin (f : Fmt) : Int := 1 - (fmtBias f : Int)
/-- exponent of the largest finite value; E4M3 uses its top exponent field for numbers (R80) -/
def fmtEmax (f : Fmt) : Int :=
  match f with
  | .e4m3 => 8
  | f => (fmtTop f : Int) - 1 - fmtBias f
/-- significand of the largest finite value, with fmtFrac fraction bits -/
def fmtMaxSig (f : Fmt) : Nat :=
  match f with
  | .e4m3 => 14
  | f => 2 ^ (fmtFrac f + 1) - 1
def fmtIsFp8 : Fmt → Bool
  | .e4m3 | .e5m2 => true
  | _ => false

/-- The canonical quiet NaN (R80). -/
def canonNaN : Fmt → Nat
  | .f64 => 0x7FF8000000000000 | .f32 => 0x7FC00000 | .f16 => 0x7E00 | .bf16 => 0x7FC0 | .e4m3 => 0x7F | .e5m2 => 0x7E

def signBit (f : Fmt) (neg : Bool) : Nat := if neg then 2 ^ (fmtBits f - 1) else 0
def infBits (f : Fmt) (neg : Bool) : Nat := signBit f neg + fmtTop f * 2 ^ fmtFrac f
/-- The largest finite value. -/
def maxBits (f : Fmt) (neg : Bool) : Nat :=
  signBit f neg + (match f with | .e4m3 => 0x7E | f => fmtTop f * 2 ^ fmtFrac f - 1)

/-- A decoded operand: `fin` is ± m × 2^e. -/
inductive FV where
  | nan (signalling : Bool)
  | inf (neg : Bool)
  | fin (neg : Bool) (m : Nat) (e : Int)
  deriving DecidableEq, Repr

/-- The value of a pattern (R80, R81). -/
def fpDecode (f : Fmt) (x : Nat) : FV :=
  let p := fmtFrac f
  let fr := x % 2 ^ p
  let ex := x / 2 ^ p % (fmtTop f + 1)
  let neg := bit x (fmtBits f - 1)
  if f = .e4m3 then
    if ex = 15 && fr = 7 then .nan false
    else if ex = 0 then .fin neg fr (fmtEmin f - p)
    else .fin neg (2 ^ p + fr) ((ex : Int) - fmtBias f - p)
  else if ex = fmtTop f then
    if fr = 0 then .inf neg else .nan (!bit fr (p - 1))
  else if ex = 0 then .fin neg fr (fmtEmin f - p)
  else .fin neg (2 ^ p + fr) ((ex : Int) - fmtBias f - p)

/-- A nonzero pattern below the smallest normal. -/
def isSubnormal (f : Fmt) (x : Nat) : Bool :=
  x / 2 ^ fmtFrac f % (fmtTop f + 1) = 0 && x % 2 ^ fmtFrac f ≠ 0

/-- Under `.ftz` a subnormal operand is read as a zero of its sign (R85). -/
def flushIn (ftz : Bool) (f : Fmt) (x : Nat) : Nat :=
  if ftz && isSubnormal f x then signBit f (bit x (fmtBits f - 1)) else x

/-- The rounding modes of R83. -/
inductive Rnd where
  | rne | rz | ru | rd
  deriving DecidableEq, Repr

def rndOf (c : BitVec 2) : Rnd :=
  match c.toNat with
  | 0 => .rne | 1 => .rz | 2 => .ru | _ => .rd

/-- The integer nearest n / d in the mode, for a magnitude of the given sign. -/
def roundQuot (r : Rnd) (neg : Bool) (n d : Nat) : Nat :=
  let q := n / d
  let m := n % d
  match r with
  | .rne => if 2 * m > d || (2 * m = d && q % 2 = 1) then q + 1 else q
  | .rz => q
  | .ru => if m ≠ 0 && !neg then q + 1 else q
  | .rd => if m ≠ 0 && neg then q + 1 else q

/-- n × 2^e / d as a quotient of naturals. -/
def scaleQuot (n d : Nat) (e : Int) : Nat × Nat :=
  if e ≥ 0 then (n * 2 ^ e.toNat, d) else (n, d * 2 ^ (-e).toNat)

/-- floor(log2 (n / d)) for n, d > 0. -/
def ilogb (n d : Nat) : Int :=
  let k : Int := (Nat.log2 n : Int) - (Nat.log2 d : Int)
  let (a, b) := scaleQuot n d (-k)
  if a < b then k - 1 else k

/-- An exact result: NaN, infinity, or ± n / d × 2^e (n may be 0). -/
inductive Ex where
  | nan
  | inf (neg : Bool)
  | num (neg : Bool) (n d : Nat) (e : Int)
  deriving DecidableEq, Repr

/-- The overflow result of R83, or the saturation of R89. -/
def overflowBits (f : Fmt) (r : Rnd) (neg : Bool) : Nat :=
  if fmtIsFp8 f then maxBits f neg
  else match r with
    | .rne => infBits f neg
    | .rz => maxBits f neg
    | .ru => if neg then maxBits f neg else infBits f neg
    | .rd => if neg then infBits f neg else maxBits f neg

/-- Rounds an exact value once to a format: bits and flags (R83 to R86). -/
def roundEx (f : Fmt) (r : Rnd) (ftz : Bool) (x : Ex) : Nat × Nat :=
  match x with
  | .nan => (canonNaN f, 0)
  | .inf neg => if f = .e4m3 then (maxBits f neg, flagOF ||| flagNX) else (infBits f neg, 0)
  | .num neg n d e =>
    if n = 0 then (signBit f neg, 0)
    else
      let p := fmtFrac f
      let k := ilogb n d + e
      -- with an unbounded exponent
      let (un, ud) := scaleQuot n d (e - (k - p))
      let uq := roundQuot r neg un ud
      let uk := if uq = 2 ^ (p + 1) then k + 1 else k
      let usig := if uq = 2 ^ (p + 1) then 2 ^ p else uq
      if uk > fmtEmax f || (uk = fmtEmax f && usig > fmtMaxSig f) then
        (overflowBits f r neg, flagOF ||| flagNX)
      else
        let tiny := uk < fmtEmin f
        if tiny && ftz then (signBit f neg, flagUF ||| flagNX)
        else
          let t := max (k - p) (fmtEmin f - p)
          let (tn, td) := scaleQuot n d (e - t)
          let q := roundQuot r neg tn td
          let inexact := tn % td ≠ 0
          let bits :=
            if q < 2 ^ p then q
            else if q = 2 ^ (p + 1) then ((t + 1 + p + fmtBias f).toNat) * 2 ^ p
            else ((t + p + fmtBias f).toNat) * 2 ^ p + (q - 2 ^ p)
          (signBit f neg + bits, (if inexact then flagNX else 0) ||| (if tiny && inexact then flagUF else 0))

end Sys2Proof.Machine
end

