-- ==== Sys2Proof/Syntax.lean ====
section
/-! DEFINITION. The instructions: one constructor per row of spec/opcode_table.json. The 153 encoded
instructions carry the fields that R151 and R157 give their word, the event rows carry what the agent
of the event supplies. -/

namespace Sys2Proof

/-- The control part (R151) and the guard (R153) of an instruction word. -/
structure Ctl where
  stall : BitVec 4
  pd : BitVec 3
  alloc : BitVec 3
  wait : BitVec 6
  gneg : Bool
  gpred : BitVec 3
  deriving DecidableEq, Repr

/-- Format G (R157). -/
structure GF where
  dst : BitVec 8
  a : BitVec 8
  b : BitVec 8
  c : BitVec 8
  rnd : BitVec 2
  ftz : Bool
  sat : Bool
  dtype : BitVec 4
  stype : BitVec 4
  sub : BitVec 6
  deriving DecidableEq, Repr

/-- Format GI (R157, R159). -/
structure GIF where
  dst : BitVec 8
  a : BitVec 8
  imm : BitVec 32
  isel : BitVec 2
  deriving DecidableEq, Repr

/-- Format P (R157, R160). -/
structure PF where
  pdst : BitVec 3
  pdst2 : BitVec 3
  comb : BitVec 2
  a : BitVec 8
  b : BitVec 8
  c : BitVec 8
  pcomb : BitVec 3
  ncomb : Bool
  type : BitVec 4
  cond : BitVec 4
  sub : BitVec 6
  deriving DecidableEq, Repr

/-- Format M (R157, R161). -/
structure MF where
  dst : BitVec 8
  base : BitVec 8
  data : BitVec 8
  disp : BitVec 16
  size : BitVec 3
  scope : BitVec 3
  order : BitVec 2
  sub : BitVec 2
  deriving DecidableEq, Repr

/-- Format MX (R157, R161); in `pcall` bits 17:10 hold the routine index, so `aop` and `rsv` together are it. -/
structure MXF where
  dst : BitVec 8
  base : BitVec 8
  data : BitVec 8
  second : BitVec 8
  aop : BitVec 6
  rsv : BitVec 2
  size : BitVec 3
  scope : BitVec 3
  order : BitVec 2
  sub : BitVec 2
  deriving DecidableEq, Repr

/-- Format B (R157, R162). -/
structure BF where
  dst : BitVec 8
  a : BitVec 8
  b : BitVec 8
  disp : BitVec 24
  sub : BitVec 2
  deriving DecidableEq, Repr

/-- Format T (R157, R163). -/
structure TF where
  zd : BitVec 4
  zs : BitVec 4
  a : BitVec 8
  b : BitVec 8
  c : BitVec 8
  obA : BitVec 3
  obB : BitVec 3
  fmtA : BitVec 4
  fmtB : BitVec 4
  sub : BitVec 4
  deriving DecidableEq, Repr

/-- Format X (R157, R163). -/
structure XF where
  dst : BitVec 8
  a : BitVec 8
  b : BitVec 8
  c : BitVec 8
  xa : BitVec 2
  pc : BitVec 3
  ps : BitVec 3
  pf : BitVec 3
  type : BitVec 4
  sub : BitVec 3
  deriving DecidableEq, Repr

/-- The fields of a page command (R382) below its op. -/
structure PageCmd where
  rsv1 : Byte
  ctx : W16
  count : W32
  ia : W64
  leaf : W64
  rsv18 : W64
  deriving DecidableEq, Repr

/-- A signed image (R392): its header, body and signature. -/
structure Image where
  magic : W32
  version : W16
  kind : W16
  security : W32
  bodyLen : W32
  load : W64
  signer : List Byte
  rsv : List Byte
  body : List Byte
  signature : List Byte
  deriving DecidableEq, Repr

/-- Where an uncorrectable error lies (R389), or the sub-array of a core's matrix array that fails from now on (R267). -/
inductive ErrorSite where
  | line (place : Nat)
  | control
  | subArray (core i : Nat)
  deriving DecidableEq, Repr

/-- The two paths to the SPDM responder (R396). -/
inductive SpdmPath where
  | doe
  | mctp
  deriving DecidableEq, Repr

/-- What a NEGOTIATE_ALGORITHMS request offers (R396). -/
structure SpdmAlgs where
  slhDsaShake256s : Bool
  sha3_384 : Bool
  deriving DecidableEq, Repr

/-- The sensors of PLDM Type 2 (R426). -/
inductive Sensor where
  | clusterTemp (cluster : Nat)
  | railPower
  | duty (stage : Nat)
  | readiness (bit : Nat)
  deriving DecidableEq, Repr

/-- What an access from outside the compute dies does (R51, R77). -/
inductive OutsideKind where
  | load
  | store
  | atomic (aop : BitVec 6)
  | cas
  deriving DecidableEq, Repr

/-- An access that arrives with an intermediate address: from another package or the processor chiplet. -/
structure OutsideAccess where
  kind : OutsideKind
  ctx : Nat
  ia : Nat
  size : Nat
  data : W128
  cmp : W128
  deriving DecidableEq, Repr

/-- The register that a REGISTER_WRITE names: a BAR0 offset of a function (R342), a host window or an
aperture entry (R343, R344, whose offsets the spec does not give), or a word of a supervisor core's map (R360). -/
inductive RegTarget where
  | bar0 (fn offset : Nat)
  | window (fn i : Nat) (base limit : W64)
  | aperture (fn i : Nat) (entry : List Byte)
  | supervisor (core addr : Nat)
  | bar4 (fn offset : Nat)
  deriving DecidableEq, Repr

/-- What a placement pass takes from outside the scheduler: the permutation that a tenant's plug-in gives of its heads,
the end of a tenant's plug-in (R359), or a task queue that this partition serves from now on (R357). -/
inductive PassInput where
  | order (tenant : Nat) (perm : List Nat)
  | ends (tenant : Nat)
  | serve (district queue : Nat)
  deriving DecidableEq, Repr

/-- A section of a code object (R330): ELF type (1 PROGBITS, 8 NOBITS), flags (bit 0 WRITE, 1 ALLOC, 2 EXECINSTR),
alignment, address before the load address is added, size, and the bytes that the file holds. -/
structure Section where
  name : String
  type : Nat
  flags : Nat
  align : Nat
  addr : Nat
  size : Nat
  bytes : List Byte
  deriving DecidableEq, Repr

/-- An atomic routine of a code object (R336, R337): its index, its table entry of 16 bytes and its code. -/
structure Routine where
  index : Nat
  entry : List Byte
  code : List W32
  deriving DecidableEq, Repr

/-- A relocation of a code object (R331): the place it writes, its type word, symbol value and addend. -/
structure Reloc where
  offset : Nat
  type : W32
  symbol : W64
  addend : W64
  deriving DecidableEq, Repr

/-- A code object as the loader reads it (R329 to R332, R336 to R338), and whether it is loaded or unloaded. -/
structure CodeObject where
  unload : Bool
  district : Nat
  base : Nat
  elfClass : Byte
  elfData : Byte
  osabi : Byte
  etype : W16
  machine : W16
  flags : W32
  sections : List Section
  relocs : List Reloc
  taskTypes : List (Nat × List Byte)
  tableaux : List Nat
  routines : List Routine
  deriving DecidableEq, Repr

/-- One constructor per row of spec/opcode_table.json. -/
inductive Instr where
  /-- NOP (R173), opcode 0x000, format G. -/
  | nop (h : Ctl) (f : GF)
  /-- MOV (R174), opcode 0x001, format G. -/
  | mov (h : Ctl) (f : GF)
  /-- MOV_IMM (R174), opcode 0x002, format GI. -/
  | movImm (h : Ctl) (f : GIF)
  /-- SEL (R184), opcode 0x003, format G. -/
  | sel (h : Ctl) (f : GF)
  /-- ADD (R177), opcode 0x004, format G. -/
  | add (h : Ctl) (f : GF)
  /-- ADD_IMM (R177), opcode 0x005, format GI. -/
  | addImm (h : Ctl) (f : GIF)
  /-- SUB (R177), opcode 0x006, format G. -/
  | sub (h : Ctl) (f : GF)
  /-- MUL (R177), opcode 0x007, format G. -/
  | mul (h : Ctl) (f : GF)
  /-- MUL_IMM (R177), opcode 0x008, format GI. -/
  | mulImm (h : Ctl) (f : GIF)
  /-- MULHI (R177), opcode 0x009, format G. -/
  | mulhi (h : Ctl) (f : GF)
  /-- MAD (R177), opcode 0x00A, format G. -/
  | mad (h : Ctl) (f : GF)
  /-- FMA (R200), opcode 0x00B, format G. -/
  | fma (h : Ctl) (f : GF)
  /-- MIN (R201), opcode 0x00C, format G. -/
  | min (h : Ctl) (f : GF)
  /-- MAX (R201), opcode 0x00D, format G. -/
  | max (h : Ctl) (f : GF)
  /-- ABS (R177), opcode 0x00E, format G. -/
  | abs (h : Ctl) (f : GF)
  /-- NEG (R177), opcode 0x00F, format G. -/
  | neg (h : Ctl) (f : GF)
  /-- AND (R179), opcode 0x010, format G. -/
  | and (h : Ctl) (f : GF)
  /-- AND_IMM (R179), opcode 0x011, format GI. -/
  | andImm (h : Ctl) (f : GIF)
  /-- OR (R179), opcode 0x012, format G. -/
  | or (h : Ctl) (f : GF)
  /-- OR_IMM (R179), opcode 0x013, format GI. -/
  | orImm (h : Ctl) (f : GIF)
  /-- XOR (R179), opcode 0x014, format G. -/
  | xor (h : Ctl) (f : GF)
  /-- XOR_IMM (R179), opcode 0x015, format GI. -/
  | xorImm (h : Ctl) (f : GIF)
  /-- NOT (R179), opcode 0x016, format G. -/
  | not (h : Ctl) (f : GF)
  /-- SHL (R179), opcode 0x017, format G. -/
  | shl (h : Ctl) (f : GF)
  /-- SHL_IMM (R179), opcode 0x018, format GI. -/
  | shlImm (h : Ctl) (f : GIF)
  /-- SHR (R179), opcode 0x019, format G. -/
  | shr (h : Ctl) (f : GF)
  /-- SHR_IMM (R179), opcode 0x01A, format GI. -/
  | shrImm (h : Ctl) (f : GIF)
  /-- SRA (R179), opcode 0x01B, format G. -/
  | sra (h : Ctl) (f : GF)
  /-- SRA_IMM (R179), opcode 0x01C, format GI. -/
  | sraImm (h : Ctl) (f : GIF)
  /-- ROT (R179), opcode 0x01D, format G. -/
  | rot (h : Ctl) (f : GF)
  /-- POPC (R179), opcode 0x01E, format G. -/
  | popc (h : Ctl) (f : GF)
  /-- CLZ (R179), opcode 0x01F, format G. -/
  | clz (h : Ctl) (f : GF)
  /-- CTZ (R179), opcode 0x020, format G. -/
  | ctz (h : Ctl) (f : GF)
  /-- BREV (R179), opcode 0x021, format G. -/
  | brev (h : Ctl) (f : GF)
  /-- BFE (R180), opcode 0x022, format G. -/
  | bfe (h : Ctl) (f : GF)
  /-- BFI (R180), opcode 0x023, format G. -/
  | bfi (h : Ctl) (f : GF)
  /-- LEA (R178), opcode 0x024, format G. -/
  | lea (h : Ctl) (f : GF)
  /-- DIV (R177), opcode 0x025, format G. -/
  | div (h : Ctl) (f : GF)
  /-- REM (R177), opcode 0x026, format G. -/
  | rem (h : Ctl) (f : GF)
  /-- CMP (R181), opcode 0x027, format P. -/
  | cmp (h : Ctl) (f : PF)
  /-- PLOP (R182), opcode 0x028, format P. -/
  | plop (h : Ctl) (f : PF)
  /-- PMOV (R183), opcode 0x029, format G. -/
  | pmov (h : Ctl) (f : GF)
  /-- CPSGN (R204), opcode 0x02A, format G. -/
  | cpsgn (h : Ctl) (f : GF)
  /-- CLASS (R205), opcode 0x02B, format P. -/
  | classify (h : Ctl) (f : PF)
  /-- SCALE (R206), opcode 0x02C, format G. -/
  | scale (h : Ctl) (f : GF)
  /-- FRND (R207), opcode 0x02D, format G. -/
  | frnd (h : Ctl) (f : GF)
  /-- CVT (R209), opcode 0x02E, format G. -/
  | cvt (h : Ctl) (f : GF)
  /-- RCP (R203), opcode 0x030, format G. -/
  | rcp (h : Ctl) (f : GF)
  /-- RSQ (R203), opcode 0x031, format G. -/
  | rsq (h : Ctl) (f : GF)
  /-- SQRT (R203), opcode 0x032, format G. -/
  | sqrt (h : Ctl) (f : GF)
  /-- EX2 (R203), opcode 0x033, format G. -/
  | ex2 (h : Ctl) (f : GF)
  /-- LG2 (R203), opcode 0x034, format G. -/
  | lg2 (h : Ctl) (f : GF)
  /-- SIN (R203), opcode 0x035, format G. -/
  | sin (h : Ctl) (f : GF)
  /-- COS (R203), opcode 0x036, format G. -/
  | cos (h : Ctl) (f : GF)
  /-- TANH (R203), opcode 0x037, format G. -/
  | tanh (h : Ctl) (f : GF)
  /-- DOT2 (R208), opcode 0x038, format G. -/
  | dot2 (h : Ctl) (f : GF)
  /-- QBLK (R212), opcode 0x039, format G. -/
  | qblk (h : Ctl) (f : GF)
  /-- DQN4 (R214), opcode 0x03A, format G. -/
  | dqn4 (h : Ctl) (f : GF)
  /-- SHFL (R185), opcode 0x040, format G. -/
  | shfl (h : Ctl) (f : GF)
  /-- SHFL_IMM (R185), opcode 0x041, format GI. -/
  | shflImm (h : Ctl) (f : GIF)
  /-- BCAST (R186), opcode 0x042, format G. -/
  | bcast (h : Ctl) (f : GF)
  /-- VOTE (R187), opcode 0x043, format P. -/
  | vote (h : Ctl) (f : PF)
  /-- BALLOT (R187), opcode 0x044, format G. -/
  | ballot (h : Ctl) (f : GF)
  /-- WRED (R188), opcode 0x045, format G. -/
  | wred (h : Ctl) (f : GF)
  /-- WSCAN (R188), opcode 0x046, format G. -/
  | wscan (h : Ctl) (f : GF)
  /-- KMOV (R189), opcode 0x050, format G. -/
  | kmov (h : Ctl) (f : GF)
  /-- KMOV_IMM (R189), opcode 0x051, format GI. -/
  | kmovImm (h : Ctl) (f : GIF)
  /-- KAND (R189), opcode 0x052, format G. -/
  | kand (h : Ctl) (f : GF)
  /-- KOR (R189), opcode 0x053, format G. -/
  | kor (h : Ctl) (f : GF)
  /-- KXOR (R189), opcode 0x054, format G. -/
  | kxor (h : Ctl) (f : GF)
  /-- KNOT (R189), opcode 0x055, format G. -/
  | knot (h : Ctl) (f : GF)
  /-- KACT (R189), opcode 0x056, format G. -/
  | kact (h : Ctl) (f : GF)
  /-- KPOP (R189), opcode 0x057, format G. -/
  | kpop (h : Ctl) (f : GF)
  /-- KTEST (R190), opcode 0x058, format P. -/
  | ktest (h : Ctl) (f : PF)
  /-- KFIRST (R189), opcode 0x059, format G. -/
  | kfirst (h : Ctl) (f : GF)
  /-- XAINIT (R216), opcode 0x060, format X. -/
  | xainit (h : Ctl) (f : XF)
  /-- XAPUSH (R217), opcode 0x061, format X. -/
  | xapush (h : Ctl) (f : XF)
  /-- XALIM (R218), opcode 0x062, format X. -/
  | xalim (h : Ctl) (f : XF)
  /-- XASTAT (R219), opcode 0x063, format X. -/
  | xastat (h : Ctl) (f : XF)
  /-- XACLR (R220), opcode 0x064, format X. -/
  | xaclr (h : Ctl) (f : XF)
  /-- LD (R228), opcode 0x080, format M. -/
  | ld (h : Ctl) (f : MF)
  /-- ST (R228), opcode 0x081, format M. -/
  | st (h : Ctl) (f : MF)
  /-- LDS (R228), opcode 0x082, format M. -/
  | lds (h : Ctl) (f : MF)
  /-- STS (R228), opcode 0x083, format M. -/
  | sts (h : Ctl) (f : MF)
  /-- STP (R228), opcode 0x084, format M. -/
  | stp (h : Ctl) (f : MF)
  /-- LDL (R175), opcode 0x085, format GI. -/
  | ldl (h : Ctl) (f : GIF)
  /-- STM (R229), opcode 0x086, format M. -/
  | stm (h : Ctl) (f : MF)
  /-- REPLSYNC (R230), opcode 0x087, format M. -/
  | replsync (h : Ctl) (f : MF)
  /-- FENCE (R231), opcode 0x088, format M. -/
  | fence (h : Ctl) (f : MF)
  /-- STP_SCALAR_RANK (R228), opcode 0x089, format MX. -/
  | stpScalarRank (h : Ctl) (f : MXF)
  /-- ATOM (R233), opcode 0x090, format MX. -/
  | atom (h : Ctl) (f : MXF)
  /-- ATOMS (R233), opcode 0x091, format MX. -/
  | atoms (h : Ctl) (f : MXF)
  /-- RED (R233), opcode 0x092, format MX. -/
  | red (h : Ctl) (f : MXF)
  /-- REDS (R233), opcode 0x093, format MX. -/
  | reds (h : Ctl) (f : MXF)
  /-- CAS (R234), opcode 0x094, format MX. -/
  | cas (h : Ctl) (f : MXF)
  /-- CASGT (R234), opcode 0x095, format MX. -/
  | casgt (h : Ctl) (f : MXF)
  /-- CASVER (R234), opcode 0x096, format MX. -/
  | casver (h : Ctl) (f : MXF)
  /-- CASPTR (R234), opcode 0x097, format MX. -/
  | casptr (h : Ctl) (f : MXF)
  /-- PCALL (R236), opcode 0x098, format MX. -/
  | pcall (h : Ctl) (f : MXF)
  /-- TXBEGIN (R240), opcode 0x0A0, format B. -/
  | txbegin (h : Ctl) (f : BF)
  /-- TXEND (R241), opcode 0x0A1, format G. -/
  | txend (h : Ctl) (f : GF)
  /-- TXABORT (R242), opcode 0x0A2, format G. -/
  | txabort (h : Ctl) (f : GF)
  /-- OBRES (R257), opcode 0x100, format G. -/
  | obres (h : Ctl) (f : GF)
  /-- OBREL (R257), opcode 0x101, format G. -/
  | obrel (h : Ctl) (f : GF)
  /-- MMA (R262), opcode 0x102, format T. -/
  | mma (h : Ctl) (f : TF)
  /-- MMAM (R263), opcode 0x103, format T. -/
  | mmam (h : Ctl) (f : TF)
  /-- MZERO (R264), opcode 0x104, format T. -/
  | mzero (h : Ctl) (f : TF)
  /-- MMOV (R264), opcode 0x105, format T. -/
  | mmov (h : Ctl) (f : TF)
  /-- MLD (R265), opcode 0x106, format T. -/
  | mld (h : Ctl) (f : TF)
  /-- MFLUSH (R266), opcode 0x107, format T. -/
  | mflush (h : Ctl) (f : TF)
  /-- MSTEST (R267), opcode 0x108, format T. -/
  | mstest (h : Ctl) (f : TF)
  /-- CPY (R268), opcode 0x110, format G. -/
  | cpy (h : Ctl) (f : GF)
  /-- CPYT (R270), opcode 0x111, format G. -/
  | cpyt (h : Ctl) (f : GF)
  /-- RCFENCE (R271), opcode 0x112, format G. -/
  | rcfence (h : Ctl) (f : GF)
  /-- BRA (R192), opcode 0x180, format B. -/
  | bra (h : Ctl) (f : BF)
  /-- JMP (R192), opcode 0x181, format G. -/
  | jmp (h : Ctl) (f : GF)
  /-- CALL (R193), opcode 0x182, format B. -/
  | call (h : Ctl) (f : BF)
  /-- CALLR (R193), opcode 0x183, format G. -/
  | callr (h : Ctl) (f : GF)
  /-- RET (R193), opcode 0x184, format G. -/
  | ret (h : Ctl) (f : GF)
  /-- LOOP (R194), opcode 0x185, format B. -/
  | loop (h : Ctl) (f : BF)
  /-- FORK (R195), opcode 0x186, format B. -/
  | fork (h : Ctl) (f : BF)
  /-- QUIT (R196), opcode 0x187, format G. -/
  | quit (h : Ctl) (f : GF)
  /-- JOIN (R20), opcode 0x188, format G. -/
  | join (h : Ctl) (f : GF)
  /-- LEAVE (R21), opcode 0x189, format G. -/
  | leave (h : Ctl) (f : GF)
  /-- WAITM (R22), opcode 0x18A, format G. -/
  | waitm (h : Ctl) (f : GF)
  /-- BINIT (R244), opcode 0x190, format G. -/
  | binit (h : Ctl) (f : GF)
  /-- BARR (R245), opcode 0x191, format G. -/
  | barr (h : Ctl) (f : GF)
  /-- BWAIT (R246), opcode 0x192, format G. -/
  | bwait (h : Ctl) (f : GF)
  /-- BFARR (R247), opcode 0x193, format G. -/
  | bfarr (h : Ctl) (f : GF)
  /-- BFWAIT (R247), opcode 0x194, format G. -/
  | bfwait (h : Ctl) (f : GF)
  /-- QPUT (R248), opcode 0x195, format G. -/
  | qput (h : Ctl) (f : GF)
  /-- QGET (R248), opcode 0x196, format G. -/
  | qget (h : Ctl) (f : GF)
  /-- SVC (R249), opcode 0x197, format G. -/
  | svc (h : Ctl) (f : GF)
  /-- MFSR (R298), opcode 0x200, format GI. -/
  | mfsr (h : Ctl) (f : GIF)
  /-- MTSR (R298), opcode 0x201, format GI. -/
  | mtsr (h : Ctl) (f : GIF)
  /-- SPAWN (R286), opcode 0x202, format G. -/
  | spawn (h : Ctl) (f : GF)
  /-- YIELDPT (R287), opcode 0x203, format G. -/
  | yieldpt (h : Ctl) (f : GF)
  /-- PPT (R288), opcode 0x204, format G. -/
  | ppt (h : Ctl) (f : GF)
  /-- SPANIN (R289), opcode 0x205, format GI. -/
  | spanin (h : Ctl) (f : GIF)
  /-- SPANOUT (R289), opcode 0x206, format GI. -/
  | spanout (h : Ctl) (f : GIF)
  /-- BRK (R290), opcode 0x207, format G. -/
  | brk (h : Ctl) (f : GF)
  /-- TRAP (R291), opcode 0x208, format GI. -/
  | trap (h : Ctl) (f : GIF)
  /-- SRET (R292), opcode 0x209, format G. -/
  | sret (h : Ctl) (f : GF)
  /-- RDCYC (R300), opcode 0x20A, format G. -/
  | rdcyc (h : Ctl) (f : GF)
  /-- TBLOAD (R277), opcode 0x210, format G. -/
  | tbload (h : Ctl) (f : GF)
  /-- ODEINIT (R278), opcode 0x211, format G. -/
  | odeinit (h : Ctl) (f : GF)
  /-- ODERUN (R279), opcode 0x212, format G. -/
  | oderun (h : Ctl) (f : GF)
  /-- ODESTEP (R280), opcode 0x213, format G. -/
  | odestep (h : Ctl) (f : GF)
  /-- ODEQ (R281), opcode 0x214, format G. -/
  | odeq (h : Ctl) (f : GF)
  /-- ODESTAT (R282), opcode 0x215, format G. -/
  | odestat (h : Ctl) (f : GF)
  /-- STGGET (R283), opcode 0x216, format G. -/
  | stgget (h : Ctl) (f : GF)
  /-- STGPUT (R284), opcode 0x217, format G. -/
  | stgput (h : Ctl) (f : GF)
  /-- EVARM (R285), opcode 0x218, format G. -/
  | evarm (h : Ctl) (f : GF)
  /-- UNASSIGNED_OPCODE (R168): a word whose opcode the map does not assign. -/
  | unassignedOpcode (w : BitVec 80)
  /-- WAVE_SELECTION (R17): The wave scheduler groups ready fibres by PC and issues the oldest group as a convoy. -/
  | waveSelection (core slot : Nat)
  /-- VARIABLE_LATENCY_COMPLETION (R310): A variable-latency instruction completes, writes its results and decrements its tag. -/
  | variableLatencyCompletion (flight : Nat)
  /-- MASK_WRITE_ARRIVAL (R191): A mask write reaches the mask two clocks after issue and waiting JOINs re-evaluate. -/
  | maskWriteArrival (core slot : Nat)
  /-- JOIN_RELEASE (R20): Lanes waiting at a JOIN are released together once its condition holds. -/
  | joinRelease (core slot : Nat)
  /-- WAITM_RELEASE (R22): Lanes waiting at WAITM whose snapshot condition holds are released together. -/
  | waitmRelease (core slot : Nat)
  /-- BWAIT_RELEASE (R246): Lanes waiting at BWAIT are released when the phase changes. -/
  | bwaitRelease (core slot : Nat)
  /-- BELFRY_PHASE_VISIBLE (R247): A completed belfry phase becomes visible on a die 40 or 96 clocks after the arrival, releasing waiters. -/
  | belfryPhaseVisible (tag die : Nat)
  /-- QUEUE_WINDOW_WAIT_END (R25): A stalled QPUT or waiting QGET proceeds when a slot frees, fills, or the paired wave ends. -/
  | queueWindowWaitEnd (core slot : Nat)
  /-- SERIAL_TOKEN_GRANT (R240): The district's serial token is granted to the longest-waiting lane. -/
  | serialTokenGrant (district : Nat)
  /-- REMOTE_REPLY (R35): The reply to a remote load arrives and wakes its waiter. -/
  | remoteReply (flight : Nat)
  /-- REMOTE_WRITE_ACK (R434): The home package acknowledges a remote write, letting covering releases proceed. -/
  | remoteWriteAck (write : Nat)
  /-- ROUTE_DOWN_TIMEOUT (R435): 100 ms after all ports of a route go down, held loads fault and held writes are discarded. -/
  | routeDownTimeout (node : Nat)
  /-- DIRECTORY_RECALL (R69): A fibre access to an engine-owned line waits until the engine has written that line. -/
  | directoryRecall (flight : Nat)
  /-- NEAR_CACHE_PARTIAL (R98): A partial reaches a home slice adder and is added, held early, or refused. -/
  | nearCachePartial (part : Nat)
  /-- ENGINE_OPERATION_COMPLETE (R252): A class-2 operation completes, writes its status word and signals its barrier or record. -/
  | engineOperationComplete (op : Nat)
  /-- MMA_CONSUMED_SIGNAL (R260): An early-signal MMA signals once its and earlier readers' reservation reads are done. -/
  | mmaConsumedSignal (op : Nat)
  /-- CREW_END (R16): A crew's deferred last QUIT completes after its operations finish and the crew ends. -/
  | crewEnd (crew : Nat)
  /-- COMPLETION_RECORD_POST (R45): A completion record is posted to the district event queue when it has room. -/
  | completionRecordPost (district : Nat)
  /-- NOTIFICATION_POST (R361): A notification is written to the supervisor ring and the tail advances when there is room. -/
  | notificationPost (core : Nat)
  /-- DEPENDANT_RELEASE (R44): The supervisor core acts on a posted record, releasing dependants and counting it consumed. -/
  | dependantRelease (core : Nat)
  /-- NOTIFICATION_RING_HEAD_WRITE (R361): The supervisor core advances the notification ring head, freeing room. -/
  | notificationRingHeadWrite (core : Nat) (value : W64)
  /-- RESUME_AT_TRAPPC (R362): Command action 1 resumes parked lanes at TRAPPC. -/
  | resumeAtTrappc (core : Nat) (cmd : W64)
  /-- RESUME_AT_RESUME_PC (R362): Command action 2 resumes parked lanes at their resume PC. -/
  | resumeAtResumePc (core : Nat) (cmd : W64)
  /-- END_FIBRE (R362): Command action 3 ends the named parked fibres as QUIT does. -/
  | endFibre (core : Nat) (cmd : W64)
  /-- PASS_TO_FAULT_DOMAIN (R34): Command action 4 passes a sub-wave to the fault domain, which ends the crew and gang. -/
  | passToFaultDomain (core : Nat) (cmd : W64)
  /-- POST_SERVICE_REPLY (R362): Command action 5 posts a lane's service reply and completes its SVC. -/
  | postServiceReply (core : Nat) (cmd : W64)
  /-- FAULT_DOMAIN_END_CREW (R34): The firmware ends a crew on its own decision, posting a kind-2 record. -/
  | faultDomainEndCrew (crew : Nat)
  /-- SVC_ECHO (R363): Service 0 replies with its argument. -/
  | svcEcho (core slot lane : Nat)
  /-- ALLOCATE_BELFRY_TAG (R364): Service 1 allocates the lowest free belfry tag with a count. -/
  | allocateBelfryTag (core slot lane : Nat)
  /-- FREE_BELFRY_TAG (R363): Service 2 frees a belfry tag of the district. -/
  | freeBelfryTag (core slot lane : Nat)
  /-- PLUGIN_SERVICE (R363): Services 256-65,535 are passed to the tenant's plug-in for a reply. -/
  | pluginService (core slot lane : Nat) (reply : W64)
  /-- RESERVED_SERVICE (R363): A reserved or out-of-range service number is answered with all ones. -/
  | reservedService (core slot lane : Nat)
  /-- PLACEMENT_PASS (R366): The partition scheduler runs a pass placing restores, the promoted head and queue heads. -/
  | placementPass (part : Nat) (ins : List PassInput)
  /-- CREW_EVICTION (R36): The context-save engine saves a crew or gang at the first clock eviction is allowed. -/
  | crewEviction (crew : Nat)
  /-- WAVE_EVICTION (R373): A wave waiting on a service reply is saved alone and its slot freed. -/
  | waveEviction (core slot : Nat)
  /-- CREW_RESTORE (R37): An evicted crew whose wake condition holds is restored and re-evaluates its waits. -/
  | crewRestore (crew : Nat)
  /-- THERMAL_MIGRATION (R371): A crew on a hot cluster resident for 2 ms is chosen and sent a yield request. -/
  | thermalMigration (crew : Nat)
  /-- PARTITION_SWAP (R375): A halted partition exchanges its live state with its vault shadow. -/
  | partitionSwap (part : Nat)
  /-- CLUSTER_GATE (R77): A cluster's caches write back and invalidate, then the cluster is power-gated. -/
  | clusterGate (cluster : Nat)
  /-- CLUSTER_UNGATE (R77): A cluster ungates with empty caches. -/
  | clusterUngate (cluster : Nat)
  /-- STAGE_TASK_APPEND (R114): The sequencer appends stage, solve or event tasks to the stage queue as room allows. -/
  | stageTaskAppend (ctx : Nat)
  /-- EVALUATION_COMPLETE (R114): All tasks of an evaluation end and the sequencer continues the loop, accepting, rejecting or ending. -/
  | evaluationComplete (ctx : Nat)
  /-- FRAME_CHUNK_RELEASE (R131): The produced count reaches the chunk plus look-ahead and a recurrent ODESTEP returns. -/
  | frameChunkRelease (ctx : Nat)
  /-- PC_SAMPLE (R411): Every P clocks a core samples one district wave and writes a PC-sample record. -/
  | pcSample (core district : Nat)
  /-- REPLAY_LOG_STALL_RELEASE (R421): Agents stalled on a full recording ring proceed when the tail advances. -/
  | replayLogStallRelease (district : Nat)
  /-- REPLAY_EVENT_RESOLVE (R422): In replay a waiting event resolves when the record at tail names it, and tail advances. -/
  | replayEventResolve (district : Nat)
  /-- PAGE_FAULT_RECORD (R383): A home slice posts one page-fault record per context and page when an access finds no page. -/
  | pageFaultRecord (part : Nat)
  /-- PAGE_FAULT_RING_HEAD_WRITE (R383): The handler advances the page-fault ring head, freeing room. -/
  | pageFaultRingHeadWrite (core : Nat) (value : W64)
  /-- FIRMWARE_PAGE_FAULT_SERVICE (R383): Under route 0 the firmware maps a zeroed frame from the quota or issues NOFRAME. -/
  | firmwarePageFaultService (part : Nat) (frame : Nat)
  /-- MAP (R382): Writes leaves, copies replicas, then retries held accesses and side-log entries. -/
  | map (handler : Option Nat) (part : Nat) (cmd : PageCmd)
  /-- UNMAP (R382): Unmaps pages after writing back and invalidating caches and translations. -/
  | unmap (handler : Option Nat) (part : Nat) (cmd : PageCmd)
  /-- INVAL (R382): Drops cached translations of a range. -/
  | inval (handler : Option Nat) (part : Nat) (cmd : PageCmd)
  /-- RETRY (R382): Makes held accesses and side-log entries of a range walk again. -/
  | retry (handler : Option Nat) (part : Nat) (cmd : PageCmd)
  /-- NOFRAME (R382): Posts district code 50 to each district with held accesses in the range. -/
  | noframe (handler : Option Nat) (part : Nat) (cmd : PageCmd)
  /-- QTAILDB_WRITE (R347): A tail doorbell write raises the tail, is ignored, or sets overrun. -/
  | qtaildbWrite (fn q : Nat) (offset size : Nat) (value : W64)
  /-- QSTAT_READ (R346): Reading QSTAT returns status and clears the sticky bits. -/
  | qstatRead (fn q : Nat)
  /-- QUEUE_ENABLE (R346): Setting QCTL enable starts the queue, zeroing tail and head unless imported. -/
  | queueEnable (fn q : Nat)
  /-- QUEUE_DISABLE (R346): Clearing QCTL enable disables the queue. -/
  | queueDisable (fn q : Nat)
  /-- QUEUE_STOP (R353): Setting QCTL stop halts consumption after the entry in progress. -/
  | queueStop (fn q : Nat)
  /-- QUEUE_RESUME (R353): Clearing QCTL stop resumes consumption at QHEAD. -/
  | queueResume (fn q : Nat)
  /-- QUEUE_STOPPED (R353): Once consumed entries have completed, QSTAT stopped sets and vector 0 fires. -/
  | queueStopped (fn q : Nat)
  /-- ENTRY_NOP (R350): A nop submission entry completes at once. -/
  | entryNop (fn q : Nat)
  /-- LAUNCH (R350): A launch entry appends task records to a district task queue. -/
  | launch (fn q : Nat)
  /-- LAUNCH_APPEND_ON_ROOM (R439): A launch waiting on a full task queue appends further records as room frees. -/
  | launchAppendOnRoom (fn q : Nat)
  /-- SIGNAL (R350): A signal entry writes its value as a system release after earlier launches complete. -/
  | signal (fn q : Nat)
  /-- RELOAD (R335): A reload entry re-copies the district's control block and tables at a change point. -/
  | reload (fn q : Nat)
  /-- FLIP (R356): A flip entry changes page ownership between device and host. -/
  | flip (fn q : Nat)
  /-- CREATE_DISTRICT (R341): Creates a district under a parent and assigns it a handle. -/
  | createDistrict (fn q : Nat)
  /-- DESTROY_DISTRICT (R341): Destroys a district and frees its handle and resources. -/
  | destroyDistrict (fn q : Nat)
  /-- COMPLETION_ENTRY_WRITE (R351): A completed entry's completion entry is written when the ring has room, then its MSI-X message. -/
  | completionEntryWrite (fn q : Nat)
  /-- FIRMWARE_RESTART_BEGIN (R352): A partition's firmware restart begins; QSTAT restarting sets and vector 0 fires. -/
  | firmwareRestartBegin (part : Nat) (image : Option Image)
  /-- FIRMWARE_RESTART_END (R352): The restarted firmware resumes at the persisted head, skipping already-applied entries. -/
  | firmwareRestartEnd (part : Nat)
  /-- QUEUE_STATE_EXPORT (R354): MIGCMD 1 exports a stopped queue's state to a buffer. -/
  | queueStateExport (value : W32)
  /-- QUEUE_STATE_IMPORT (R354): MIGCMD 2 imports a queue's state into a disabled queue. -/
  | queueStateImport (value : W32)
  /-- DIRTY_TRACKING_ENABLE (R355): Setting DIRTYCTL enable starts marking device writes in the bitmap. -/
  | dirtyTrackingEnable (fn : Nat) (value : W32)
  /-- DIRTY_TRACKING_DISABLE (R355): Clearing DIRTYCTL enable stops tracking and clears swap done. -/
  | dirtyTrackingDisable (fn : Nat) (value : W32)
  /-- DIRTY_BITMAP_SWAP (R355): Writing DIRTYADDR while enabled swaps bitmaps and clears swap done. -/
  | dirtyBitmapSwap (fn : Nat) (addr : W64)
  /-- DIRTY_SWAP_DONE (R355): Swap done sets once earlier writes are marked in the old bitmap. -/
  | dirtySwapDone (fn : Nat)
  /-- APERTURE_READ (R344): A host read through BAR2 is translated through an aperture entry and served. -/
  | apertureRead (fn : Nat) (offset size : Nat)
  /-- APERTURE_WRITE (R344): A host write through BAR2 is translated and performed, or discarded. -/
  | apertureWrite (fn : Nat) (offset : Nat) (data : List Byte)
  /-- PWRLIMIT_WRITE (R400): A write to PWRLIMIT sets the power limit. -/
  | pwrlimitWrite (value : W32)
  /-- LIMITER_STEP (R401): Every 10 µs the limiter moves one throttling stage duty by one sixteenth. -/
  | limiterStep (milliwatts : Nat)
  /-- CLUSTER_THERMAL_LIMIT (R403): A cluster sensor crossing a threshold applies or lifts its issue duty limit. -/
  | clusterThermalLimit (cluster : Nat) (eighths : Int)
  /-- PACKAGE_TRIP (R403): A sensor at 110 °C trips the package and holds all partitions in reset. -/
  | packageTrip (cluster : Nat) (eighths : Int)
  /-- PACKAGE_RESET (R392): The package resets and boots, verifying and measuring each image. -/
  | packageReset (boot : List Image)
  /-- FUNCTION_READY (R399): A function finishes initialisation and sets its readiness bit as a system release. -/
  | functionReady (bit : Nat)
  /-- PLUGIN_LOAD (R359): Function 0 loads a signed tenant plug-in, verified and measured. -/
  | pluginLoad (fn : Nat) (core : Nat) (image : Image)
  /-- CORRECTABLE_ERROR (R389): A correctable soft error is corrected and counted. -/
  | correctableError (part : Nat)
  /-- UNCORRECTABLE_ERROR (R389): An uncorrectable error poisons data or resets the partition. -/
  | uncorrectableError (part : Nat) (site : ErrorSite)
  /-- PARTITION_RESET (R390): A partition resets, ending its crews and poisoning lost lines. -/
  | partitionReset (part : Nat)
  /-- TELEMETRY_REFRESH (R430): Every 1 ms the telemetry snapshot is refreshed as one set. -/
  | telemetryRefresh
  /-- FLIT_RETRY (R431): A flit failing its check is resent and the retry counted. -/
  | flitRetry (port : Nat)
  /-- PORT_LINK_CHANGE (R435): An Arcade port goes down or comes up, holding or releasing routed requests. -/
  | portLinkChange (port : Nat) (up : Bool) (peer : Nat)
  /-- SET_ENDPOINT_ID (R425): MCTP control Set Endpoint ID. -/
  | setEndpointId (eid : Byte)
  /-- GET_ENDPOINT_ID (R425): MCTP control Get Endpoint ID. -/
  | getEndpointId
  /-- GET_MCTP_VERSION_SUPPORT (R425): MCTP control Get MCTP Version Support. -/
  | getMctpVersionSupport (type : Byte)
  /-- GET_MESSAGE_TYPE_SUPPORT (R425): MCTP control Get Message Type Support. -/
  | getMessageTypeSupport
  /-- MCTP_UNSUPPORTED_MESSAGE (R425): An MCTP message of another type is dropped and counted. -/
  | mctpUnsupportedMessage (type : Byte)
  /-- PLDM_SENSOR_READ (R426): A PLDM Type 2 sensor read returns a value from the latest snapshot. -/
  | pldmSensorRead (sensor : Sensor)
  /-- PLDM_TRANSFER_COMPLETE (R427): On TransferComplete the controller verifies the transferred image. -/
  | pldmTransferComplete (component : Nat)
  /-- PLDM_ACTIVATE_FIRMWARE (R427): ActivateFirmware starts the firmware restart that applies an update. -/
  | pldmActivateFirmware (part : Nat)
  /-- READ_TELEMETRY (R428): Vendor command 0x01 returns bytes of the telemetry snapshot. -/
  | readTelemetry (offset : BitVec 16) (len : Byte)
  /-- READ_READINESS (R428): Vendor command 0x02 returns the readiness word. -/
  | readReadiness
  /-- WRITE_POWER_LIMIT (R428): Vendor command 0x03 writes PWRLIMIT. -/
  | writePowerLimit (value : W32)
  /-- SET_MIGRATION_THRESHOLD (R428): Vendor command 0x04 sets the migration threshold. -/
  | setMigrationThreshold (celsius : Byte)
  /-- SET_NODE_NUMBER (R432): Vendor command 0x05 sets the package node number once per reset. -/
  | setNodeNumber (node : BitVec 16)
  /-- WRITE_ROUTE (R433): Vendor command 0x06 writes a route table entry. -/
  | writeRoute (node : BitVec 16) (mask : W32)
  /-- RESET_PARTITION (R428): Vendor command 0x07 resets a partition. -/
  | resetPartition (part : Byte)
  /-- CLEAR_TRIP (R428): Vendor command 0x08 clears a trip by a package reset. -/
  | clearTrip
  /-- COMMIT_IMAGE (R393): Vendor command 0x09 raises a kind's fused minimum security version. -/
  | commitImage (kind : Byte)
  /-- GET_VERSION (R396): SPDM GET_VERSION request. -/
  | getVersion (path : SpdmPath)
  /-- GET_CAPABILITIES (R396): SPDM GET_CAPABILITIES request. -/
  | getCapabilities (path : SpdmPath)
  /-- NEGOTIATE_ALGORITHMS (R396): SPDM NEGOTIATE_ALGORITHMS request. -/
  | negotiateAlgorithms (path : SpdmPath) (algs : SpdmAlgs)
  /-- GET_DIGESTS (R396): SPDM GET_DIGESTS request. -/
  | getDigests (path : SpdmPath)
  /-- GET_CERTIFICATE (R396): SPDM GET_CERTIFICATE request for slot 0. -/
  | getCertificate (path : SpdmPath) (slot : Byte)
  /-- CHALLENGE (R396): SPDM CHALLENGE request signed by the alias key. -/
  | challenge (path : SpdmPath) (nonce : List Byte)
  /-- GET_MEASUREMENTS (R396): SPDM GET_MEASUREMENTS returning the measurement indices. -/
  | getMeasurements (path : SpdmPath) (index : Byte) (nonce : List Byte)
  /-- SPDM_UNSUPPORTED_REQUEST (R396): An unsupported SPDM request receives ERROR, UnsupportedRequest. -/
  | spdmUnsupportedRequest (path : SpdmPath) (code : Byte)
  /-- LOAD_DESCRIPTOR (R406): Debug command 1 loads the trace, span, monitor and experiment descriptor. -/
  | loadDescriptor (fn : Nat)
  /-- READ_COUNTERS (R415): Debug command 2 writes the counters as one set to the buffer. -/
  | readCounters (fn : Nat)
  /-- START_CAPTURE (R413): Debug command 3 starts capture unless frozen. -/
  | startCapture (fn : Nat)
  /-- STOP_CAPTURE (R413): Debug command 4 stops capture. -/
  | stopCapture (fn : Nat)
  /-- UNFREEZE (R413): Debug command 5 clears the freeze, leaving capture stopped. -/
  | unfreeze (fn : Nat)
  /-- REGISTER_WRITE (R342): A write to a register with no behaviour of its own stores its value or is discarded. -/
  | registerWrite (target : RegTarget) (size : Nat) (value : W64)
  /-- ARRIVING_REMOTE_ACCESS (R51): A load, store or atomic from another package arrives over an Arcade port and is served at this package's home slice at .system. -/
  | arrivingRemoteAccess (access : OutsideAccess)
  /-- CHIP_SERVICE_REPLY (R249): The processor chiplet posts the reply to an svc.chip request, completing the waiting lane's service-reply wait. -/
  | chipServiceReply (core slot lane : Nat) (reply : W64)
  /-- PROCESSOR_CHIPLET_ACCESS (R77): An application core of the processor chiplet accesses memory at .system on the shared directory, snooping first-level caches. -/
  | processorChipletAccess (app : Nat) (access : OutsideAccess)
  /-- TENANT_ENABLE (R340): Function 0 enables a tenant, and the firmware creates its root district with handle 0. -/
  | tenantEnable (fn : Nat) (block : List Byte)
  /-- CODE_OBJECT_LOAD (R339): The firmware loads or unloads a code object, checking it and invalidating the instruction cache for it. -/
  | codeObjectLoad (object : CodeObject)
  /-- PLDM_BASE_COMMAND (R425): A PLDM Type 0 base request arrives on the management port and is answered. -/
  | pldmBaseCommand (command : Byte)
  /-- PLDM_FIRMWARE_UPDATE_TRANSFER (R427): A PLDM Type 5 firmware update message delivers or requests image data for a component before TransferComplete. -/
  | pldmFirmwareUpdateTransfer (component : Nat) (offset : Nat) (data : List Byte)
  /-- HOST_LINK_CHANGE (R429): The PCIe link to the host goes down or comes up. -/
  | hostLinkChange (up : Bool)
  deriving DecidableEq, Repr

end Sys2Proof
end

