-- ==== Sys2Proof/Machine/Shape.lean ====
section
/-! DEFINITION. The shape of every encoded instruction: its opcode and class (R167), its latency (R152, R306),
whether it ends a clause, its register operands with the classes and widths the entry admits (R154, R156), and
the decode checks of reasons 5 and 6 (R156, R158, R161, R164). -/

namespace Sys2Proof.Machine

/-- The type codes of R158. -/
inductive Ty where
  | s8 | u8 | s32 | u32 | s64 | u64 | b32 | b64 | f16 | bf16 | f32 | f64 | e4m3 | e5m2 | f16x2 | bf16x2
  deriving DecidableEq, Repr

/-- The type that a code of R158 names. -/
def tyOf (c : BitVec 4) : Ty :=
  match c.toNat with
  | 0 => .s8 | 1 => .u8 | 2 => .s32 | 3 => .u32 | 4 => .s64 | 5 => .u64 | 6 => .b32 | 7 => .b64
  | 8 => .f16 | 9 => .bf16 | 10 => .f32 | 11 => .f64 | 12 => .e4m3 | 13 => .e5m2 | 14 => .f16x2 | _ => .bf16x2

/-- Registers that an operand of the type takes. -/
def tyRegs : Ty → Nat
  | .s64 | .u64 | .b64 | .f64 => 2
  | _ => 1

/-- Width in bits of an integer or bit operand. -/
def tyBits (t : Ty) : Nat := 32 * tyRegs t

/-- "All integer" of R169. -/
def tyInt : Ty → Bool
  | .s32 | .u32 | .s64 | .u64 => true
  | _ => false

/-- Signed integer types. -/
def tySigned : Ty → Bool
  | .s8 | .s32 | .s64 => true
  | _ => false

/-- Untyped bits. -/
def tyBit : Ty → Bool
  | .b32 | .b64 => true
  | _ => false

/-- The scalar floating types f16, bf16, f32, f64. -/
def tyFp : Ty → Bool
  | .f16 | .bf16 | .f32 | .f64 => true
  | _ => false

/-- The packed types. -/
def tyPacked : Ty → Bool
  | .f16x2 | .bf16x2 => true
  | _ => false

/-- The FP8 types. -/
def tyFp8 : Ty → Bool
  | .e4m3 | .e5m2 => true
  | _ => false

/-- The six floating types of `add` (R200). -/
def tyFp6 (t : Ty) : Bool := tyFp t || tyPacked t

/-- The class of a register operand encoding (R154). -/
inductive RegClass where
  | vec | scalar | mask | special | reserved | zero
  deriving DecidableEq, Repr

/-- R154. -/
def regClass (e : BitVec 8) : RegClass :=
  let n := e.toNat
  if n < 0xC0 then .vec else if n < 0xE0 then .scalar else if n < 0xEC then .mask
  else if n < 0xFE then .special else if n = 0xFE then .reserved else .zero

/-- The register classes an operand admits. -/
structure Classes where
  v : Bool := true
  s : Bool := true
  k : Bool := false
  sp : Bool := false
  z : Bool := true
  deriving DecidableEq, Repr

def Classes.any : Classes := ⟨true, true, true, true, true⟩
def Classes.vs : Classes := ⟨true, true, false, false, true⟩
def Classes.mask : Classes := ⟨false, false, true, false, false⟩
def Classes.maskSrc : Classes := ⟨false, true, true, false, true⟩
def Classes.vsk : Classes := ⟨true, true, true, false, true⟩
def Classes.sz : Classes := ⟨false, true, false, false, true⟩
def Classes.lane : Classes := ⟨false, true, false, true, true⟩
def Classes.vec : Classes := ⟨true, false, false, false, true⟩
def Classes.counter : Classes := ⟨true, true, false, false, false⟩
def Classes.scalar : Classes := ⟨false, true, false, false, false⟩

/-- How an instruction uses a register field. -/
inductive Use where
  | unused
  | raw
  | src (regs : Nat) (cls : Classes)
  | dst (regs : Nat) (cls : Classes)
  | upd (regs : Nat) (cls : Classes)
  deriving DecidableEq, Repr

/-- A register field and its use. -/
structure Opd where
  enc : BitVec 8
  use : Use
  deriving DecidableEq, Repr

/-- The first two rules of R156 and the admitted classes. -/
def classOk (e : BitVec 8) (regs : Nat) (c : Classes) : Bool :=
  match regClass e with
  | .vec => c.v && e.toNat % regs == 0
  | .scalar => c.s && regs ≤ 2 && e.toNat % regs == 0
  | .mask => c.k && regs == 1
  | .special => c.sp && regs == 1
  | .reserved => false
  | .zero => c.z

/-- Reason 6 of one operand. -/
def opdOk6 (o : Opd) : Bool :=
  match o.use with
  | .unused | .raw => true
  | .src r c => classOk o.enc r c
  | .dst r c => classOk o.enc r c
  | .upd r c => classOk o.enc r c

/-- Reason 5 of one operand: an unused field holds 0xFF (R156). -/
def opdOk5 (o : Opd) : Bool :=
  match o.use with
  | .unused => o.enc == 0xFF
  | _ => true

/-- Everything decode and the hazard check ask of an encoded instruction. -/
structure Shape where
  opcode : Nat
  ctl : Ctl
  /-- the latency L of R306, or none for a variable-latency instruction -/
  lat : Option Nat
  ends : Bool
  opds : List Opd
  /-- predicates read (guard apart), with 8 for the whole predicate word -/
  psrc : List Nat
  /-- predicates written -/
  pdst : List Nat
  ok5 : Bool
  ok6 : Bool
  deriving DecidableEq, Repr

def fullySrc (r : Nat) : Use := .src r (if r == 1 then .any else .vs)
def s1 : Use := .src 1 .any
def s2 : Use := .src 2 .vs
def s4 : Use := .src 4 .vec
def d1 : Use := .dst 1 .vs
def d2 : Use := .dst 2 .vs
def d4 : Use := .dst 4 .vec
def dW (r : Nat) : Use := if r == 4 then d4 else .dst r .vs
/-- a floating source (R198) -/
def fsrc (r : Nat) : Use := .src r .vs
/-- a data operand of a memory instruction, by size code (R222) -/
def dataSrc (size : BitVec 3) : Use :=
  match size.toNat with
  | 0 | 1 | 2 => s1
  | 3 => s2
  | _ => s4
/-- a load destination, by size code (R227) -/
def dataDst (size : BitVec 3) : Use :=
  match size.toNat with
  | 0 | 1 | 2 => d1
  | 3 => d2
  | _ => d4

/-- Format G with the modifier fields an entry admits. -/
structure GAdm where
  rnd : Bool := false
  ftz : Bool := false
  sat : Bool := false
  dtype : Bool := false
  stype : Bool := false
  /-- the sub field holds an admitted value (reason 5 otherwise) -/
  sub : Bool
  /-- types and the entry's other reason-6 conditions -/
  ok6 : Bool := true
  deriving DecidableEq, Repr

def gShape (op : Nat) (h : Ctl) (lat : Option Nat) (ends : Bool) (f : GF) (d a b c : Use) (m : GAdm)
    (psrc pdst : List Nat := []) : Shape :=
  let os := [⟨f.dst, d⟩, ⟨f.a, a⟩, ⟨f.b, b⟩, ⟨f.c, c⟩]
  { opcode := op, ctl := h, lat := lat, ends := ends, opds := os, psrc := psrc, pdst := pdst,
    ok5 := os.all opdOk5 && (m.rnd || f.rnd == 0) && (m.ftz || !f.ftz) && (m.sat || !f.sat) &&
      (m.dtype || f.dtype == 0) && (m.stype || f.stype == 0) && m.sub,
    ok6 := os.all opdOk6 && m.ok6 }

def giShape (op : Nat) (h : Ctl) (lat : Option Nat) (f : GIF) (d a : Use) (ok5 ok6 : Bool) : Shape :=
  let os := [⟨f.dst, d⟩, ⟨f.a, a⟩]
  { opcode := op, ctl := h, lat := lat, ends := false, opds := os, psrc := [], pdst := [],
    ok5 := os.all opdOk5 && ok5, ok6 := os.all opdOk6 && ok6 }

/-- R160, R181: pcomb and ncomb are 0 with comb 0, and the destinations differ. -/
def pShape (op : Nat) (h : Ctl) (f : PF) (a b c : Use) (ok5 ok6 : Bool) (psrc : List Nat := []) : Shape :=
  let os := [⟨f.a, a⟩, ⟨f.b, b⟩, ⟨f.c, c⟩]
  { opcode := op, ctl := h, lat := some 2, ends := false, opds := os,
    psrc := (if f.comb == 0 then [] else [f.pcomb.toNat]) ++ psrc,
    pdst := [f.pdst.toNat, f.pdst2.toNat].filter (· < 7),
    ok5 := os.all opdOk5 && (f.comb != 0 || (f.pcomb == 0 && !f.ncomb)) && ok5,
    ok6 := os.all opdOk6 && (f.pdst == 7 || f.pdst != f.pdst2) && ok6 }

/-- R161: reserved sizes and scopes, and an order without a scope. -/
def memOk5 (size scope : BitVec 3) (order : BitVec 2) : Bool :=
  size.toNat ≤ 4 && scope.toNat ≤ 5 && (order == 0 || scope != 0)

/-- The order and scope of a plain access, or of `ord` at a scope of lo..hi. -/
def ordIs (ord : Nat) (lo hi : Nat) (order : BitVec 2) (scope : BitVec 3) : Bool :=
  (order == 0 && scope == 0) || (order.toNat == ord && lo ≤ scope.toNat && scope.toNat ≤ hi)

def mShape (op : Nat) (h : Ctl) (f : MF) (d b a : Use) (ok5 ok6 : Bool) : Shape :=
  let os := [⟨f.dst, d⟩, ⟨f.base, b⟩, ⟨f.data, a⟩]
  { opcode := op, ctl := h, lat := none, ends := false, opds := os, psrc := [], pdst := [],
    ok5 := os.all opdOk5 && memOk5 f.size f.scope f.order && ok5, ok6 := os.all opdOk6 && ok6 }

def mxShape (op : Nat) (h : Ctl) (f : MXF) (d b a s : Use) (ok5 ok6 : Bool) : Shape :=
  let os := [⟨f.dst, d⟩, ⟨f.base, b⟩, ⟨f.data, a⟩, ⟨f.second, s⟩]
  { opcode := op, ctl := h, lat := none, ends := false, opds := os, psrc := [], pdst := [],
    ok5 := os.all opdOk5 && memOk5 f.size f.scope f.order && ok5, ok6 := os.all opdOk6 && ok6 }

def bShape (op : Nat) (h : Ctl) (lat : Option Nat) (ends : Bool) (f : BF) (d a b : Use) (ok5 : Bool) : Shape :=
  let os := [⟨f.dst, d⟩, ⟨f.a, a⟩, ⟨f.b, b⟩]
  { opcode := op, ctl := h, lat := lat, ends := ends, opds := os, psrc := [], pdst := [],
    ok5 := os.all opdOk5 && ok5, ok6 := os.all opdOk6 }

def tShape (op : Nat) (h : Ctl) (f : TF) (a b c : Use) (ok5 ok6 : Bool) : Shape :=
  let os := [⟨f.a, a⟩, ⟨f.b, b⟩, ⟨f.c, c⟩]
  { opcode := op, ctl := h, lat := none, ends := false, opds := os, psrc := [], pdst := [],
    ok5 := os.all opdOk5 && ok5, ok6 := os.all opdOk6 && ok6 }

/-- `pOut` says that pc, ps and pf name predicates; otherwise they are 7. `ty` says that the type is used. -/
def xShape (op : Nat) (h : Ctl) (lat : Option Nat) (f : XF) (d a b c : Use) (pOut ty : Bool) (ok5 ok6 : Bool) : Shape :=
  let os := [⟨f.dst, d⟩, ⟨f.a, a⟩, ⟨f.b, b⟩, ⟨f.c, c⟩]
  { opcode := op, ctl := h, lat := lat, ends := false, opds := os, psrc := [],
    pdst := if pOut then [f.pc.toNat, f.ps.toNat, f.pf.toNat].filter (· < 7) else [],
    ok5 := os.all opdOk5 && (pOut || (f.pc == 7 && f.ps == 7 && f.pf == 7)) && (ty || f.type == 0) && ok5,
    ok6 := os.all opdOk6 && ok6 }

/-- Integer or floating source of the width of the type (R176, R198). -/
def arith (t : Ty) : Use := if tyFp6 t then fsrc (tyRegs t) else fullySrc (tyRegs t)

/-- The latency of simple integer, multiply and floating arithmetic (R306). -/
def latSimple (t : Ty) : Nat := if t == .f64 then 6 else if tyFp6 t then 4 else 2
def latMul (t : Ty) : Nat := if t == .f64 then 6 else if tyFp6 t then 4 else if tyRegs t == 2 then 6 else 4

/-- `add`, `sub`, `mul` and their kin: integer with `.sat` or floating with rounding and flush. -/
def arithShape (op : Nat) (h : Ctl) (lat : Option Nat) (f : GF) (b c : Bool) (satInt rndFp : Bool) (tys : Ty → Bool) : Shape :=
  let t := tyOf f.dtype
  let u := arith t
  gShape op h lat false f (dW (tyRegs t)) u (if b then u else .unused) (if c then u else .unused)
    { rnd := rndFp && 8 ≤ f.dtype.toNat, ftz := rndFp && 8 ≤ f.dtype.toNat, sat := satInt && tyInt t, dtype := true, sub := f.sub == 0,
      ok6 := tys t }

/-- logic on b32 and b64 -/
def logicShape (op : Nat) (h : Ctl) (f : GF) (b : Use) : Shape :=
  let t := tyOf f.dtype
  gShape op h (some 2) false f (dW (tyRegs t)) (fullySrc (tyRegs t)) b .unused
    { dtype := true, sub := f.sub == 0, ok6 := tyBit t }

/-- counts: a 32-bit result of a b32 or b64 source (R179) -/
def countShape (op : Nat) (h : Ctl) (f : GF) : Shape :=
  let t := tyOf f.dtype
  gShape op h (some 2) false f d1 (fullySrc (tyRegs t)) .unused .unused
    { dtype := true, sub := f.sub == 0, ok6 := tyBit t }

/-- immediate logic and shifts: isel 2 and 3 raise reason 6 (R179) -/
def logicImmShape (op : Nat) (h : Ctl) (f : GIF) : Shape :=
  let r := if f.isel == 1 then 2 else 1
  giShape op h (some 2) f (dW r) (fullySrc r) true (f.isel.toNat < 2)

/-- one-source floating instructions (R203) -/
def fnShape (op : Nat) (h : Ctl) (f : GF) (rnd f64 : Bool) : Shape :=
  let t := tyOf f.dtype
  gShape op h none false f (dW (tyRegs t)) (fsrc (tyRegs t)) .unused .unused
    { rnd := rnd, ftz := true, dtype := true, sub := f.sub == 0, ok6 := tyFp t && (f64 || t != .f64) }

/-- G format with no modifier but an admitted sub -/
def plainG (op : Nat) (h : Ctl) (lat : Option Nat) (ends : Bool) (f : GF) (d a b c : Use) (sub : Bool) : Shape :=
  gShape op h lat ends f d a b c { sub := sub }

/-- The predicate that the low bits of a register field name, as `plop` uses it (R182). -/
def predOk (e : BitVec 8) : Bool := e.toNat < 16

/-- The types `cvt` pairs (R209): the row of the table, if any. -/
def cvtRow (d s : Ty) : Option Nat :=
  let fl := fun t => tyFp t || tyFp8 t
  let i8 := fun t => tyInt t || t == .s8 || t == .u8
  if fl d && fl s && d != s then some 0
  else if tyInt d && tyFp s then some 1
  else if tyFp d && tyInt s then some 2
  else if i8 d && i8 s && d != s then some 3
  else if tyPacked d && s == .f32 then some 4
  else if d == .f32 && tyPacked s then some 5
  else none

def cvtShape (h : Ctl) (f : GF) : Shape :=
  let d := tyOf f.dtype
  let s := tyOf f.stype
  let row := cvtRow d s
  let wide := tyRegs d == 2 || tyRegs s == 2
  let srcU := if tyFp s || tyFp8 s || tyPacked s then fsrc (tyRegs s) else fullySrc (tyRegs s)
  let sub := f.sub.toNat
  let subOk := if row == some 5 then sub < 2
    else if tyFp8 d && tyFp8 s then sub < 16
    else if tyFp8 d || tyFp8 s then sub < 4 else sub == 0
  gShape 0x02E h (some (if wide then 6 else 4)) false f
    (if tyFp8 d then .upd 1 .vs else dW (tyRegs d)) srcU
    (if tyPacked d then fsrc 1 else .unused) .unused
    { rnd := row != some 3 && row != some 5, ftz := row != some 2 && row != some 3,
      sat := row == some 3, dtype := true, stype := true, sub := subOk, ok6 := row.isSome }

/-- `wred` and `wscan` (R188). -/
def waveRedShape (op : Nat) (h : Ctl) (f : GF) (excl : Bool) : Shape :=
  let t := tyOf f.dtype
  let o := f.sub.toNat % 8
  gShape op h (some 6) false f (dW (tyRegs t)) (fullySrc (tyRegs t)) .unused .unused
    { sat := o == 0, dtype := true, sub := o < 6 && (f.sub.toNat < 8 || (excl && f.sub.toNat < 16)),
      ok6 := if o < 3 then tyInt t else tyBit t }

/-- atomics: size and operation pairs of R161 -/
def aopOk (aop : BitVec 6) (size : BitVec 3) : Bool :=
  size == 2 || size == 3 || (size == 4 && aop == 8)

def atomShape (op : Nat) (h : Ctl) (f : MXF) (red sp : Bool) : Shape :=
  let fl := 9 ≤ f.aop.toNat && f.aop.toNat ≤ 11
  let s := mxShape op h f (if red then .raw else dataDst f.size) (if sp then s1 else s2) (dataSrc f.size)
    (if fl && !red then .dst 1 .vec else .raw)
    (f.sub == 0 && f.rsv == 0 && f.aop.toNat < 12)
    (aopOk f.aop f.size && f.scope != 0 && (!red || (f.dst == 0xFF && f.order.toNat % 2 == 0)) &&
      ((fl && !red) || f.second == 0xFF))
  s

def casShape (op : Nat) (h : Ctl) (f : MXF) (second : Use) (sizes : List Nat) (sub : Bool) : Shape :=
  mxShape op h f (dataDst f.size) s2 (dataSrc f.size) second
    (f.aop == 0 && f.rsv == 0 && sub) (sizes.contains f.size.toNat && f.scope != 0)

/-- The width of a matrix product's row formats, with N and K (R261). -/
structure Pair where
  n : Nat
  k : Nat
  deriving DecidableEq, Repr

/-- The admitted format pairs (R261, R163). -/
def mmaPair (a b : BitVec 4) (mem : Bool) : Option Pair :=
  let fp8 := fun (c : BitVec 4) => c == 4 || c == 5
  let i8 := fun (c : BitVec 4) => c == 6 || c == 7
  if fp8 a && fp8 b then some ⟨64, 256⟩
  else if i8 a && i8 b then some ⟨64, 256⟩
  else if fp8 a && b == 8 then (if mem then none else some ⟨64, 512⟩)
  else if a == 2 && b == 2 then some ⟨64, 128⟩
  else if a == 3 && b == 3 then some ⟨64, 128⟩
  else if a == 1 && b == 1 then some ⟨64, 64⟩
  else if a == 0 && b == 0 then some ⟨32, 32⟩
  else none

/-- The type code of the `.add` forms of `mmov` and `mflush` (R264). -/
def addFmt (c : BitVec 4) : Bool := c == 0 || c == 1 || c == 6

/-- Width of the system registers of R297: none where reserved. -/
def srWidth (n : Nat) : Option Nat :=
  if n ≤ 0x00B then some 1
  else if n == 0x010 || n == 0x011 || n == 0x012 || n == 0x015 || n == 0x016 || n == 0x018 || n == 0x021 ||
    n == 0x030 || n == 0x031 then some 1
  else if n == 0x013 || n == 0x014 || n == 0x020 then some 2
  else none

/-- The system registers MTSR may write (R297). -/
def srWritable (n : Nat) : Bool := (0x010 ≤ n && n ≤ 0x016) || n == 0x030

end Sys2Proof.Machine
end

