-- ==== Sys2Proof/Machine/Float.lean ====
section
/-! DEFINITION. Exact floating arithmetic on patterns: every operation computes an exact value and rounds once
(R83 to R89, R200, R201, R206 to R208). A result is its bits and the flags it raises. -/

namespace Sys2Proof.Machine

def fvNeg : FV → FV
  | .nan s => .nan s
  | .inf n => .inf (!n)
  | .fin n m e => .fin (!n) m e

def isSig : FV → Bool
  | .nan true => true
  | _ => false
def isNaN : FV → Bool
  | .nan _ => true
  | _ => false

/-- NV of a signalling operand (R86). -/
def nvSig (xs : List FV) : Nat := if xs.any isSig then flagNV else 0

/-- A signed magnitude from an integer. -/
def exInt (i : Int) (e : Int) : Ex := .num (decide (i < 0)) i.natAbs 1 e

/-- The exact value of ± m × 2^e as an integer multiple of 2^t, for t ≤ e. -/
def alignTo (t : Int) (neg : Bool) (m : Nat) (e : Int) : Int :=
  let a : Int := ((m * 2 ^ (e - t).toNat : Nat) : Int)
  if neg then -a else a

/-- The zero rule of R84 for an exact zero sum. -/
def zeroSum (r : Rnd) (allNeg allPos : Bool) : Ex :=
  .num (if allNeg then true else if allPos then false else decide (r = .rd)) 0 1 0

/-- The exact sum of a list of values, with NV for opposite infinities (R84, R86). -/
def sumEx (r : Rnd) (xs : List FV) : Ex × Nat :=
  if xs.any isNaN then (.nan, nvSig xs)
  else
    let pinf := xs.any fun x => x = .inf false
    let ninf := xs.any fun x => x = .inf true
    if pinf && ninf then (.nan, flagNV)
    else if pinf then (.inf false, 0)
    else if ninf then (.inf true, 0)
    else
      let t := xs.foldl (fun t x => match x with | .fin _ _ e => min t e | _ => t) 0
      let s := xs.foldl (fun s x => match x with | .fin n m e => s + alignTo t n m e | _ => s) (0 : Int)
      if s = 0 then
        (zeroSum r (xs.all fun x => match x with | .fin n m _ => n && m = 0 | _ => false)
          (xs.all fun x => match x with | .fin n m _ => !n && m = 0 | _ => false), 0)
      else (exInt s t, 0)

/-- The exact product, NaN for 0 × ∞ with NV (R86). -/
def mulFV (a b : FV) : FV × Nat :=
  match a, b with
  | .nan s, .nan t => (.nan false, if s || t then flagNV else 0)
  | .nan s, _ => (.nan false, if s then flagNV else 0)
  | _, .nan t => (.nan false, if t then flagNV else 0)
  | .inf x, .inf y => (.inf (x != y), 0)
  | .inf x, .fin y m _ => if m = 0 then (.nan false, flagNV) else (.inf (x != y), 0)
  | .fin x m _, .inf y => if m = 0 then (.nan false, flagNV) else (.inf (x != y), 0)
  | .fin x m e, .fin y n k => (.fin (x != y) (m * n) (e + k), 0)

def fvEx : FV → Ex
  | .nan _ => .nan
  | .inf n => .inf n
  | .fin n m e => .num n m 1 e

/-- The exact quotient with its flags: 0/0 and ∞/∞ invalid, x/0 divides by zero (R86, R200). -/
def divEx (a b : FV) : Ex × Nat :=
  match a, b with
  | .nan _, _ => (.nan, nvSig [a, b])
  | _, .nan _ => (.nan, nvSig [a, b])
  | .inf _, .inf _ => (.nan, flagNV)
  | .inf x, .fin y _ _ => (.inf (x != y), 0)
  | .fin x _ _, .inf y => (.num (x != y) 0 1 0, 0)
  | .fin x m e, .fin y n k =>
    if n = 0 then (if m = 0 then (.nan, flagNV) else (.inf (x != y), flagDZ))
    else (.num (x != y) m n (e - k), 0)

/-- Integer square root of `x`, from bit `n` down. -/
def isqrtFrom : Nat → Nat → Nat → Nat
  | 0, _, r => r
  | n + 1, x, r =>
    let c := r + 2 ^ n
    isqrtFrom n x (if c * c ≤ x then c else r)
def isqrt (x : Nat) : Nat := isqrtFrom (Nat.log2 x / 2 + 1) x 0

/-- The square root of n / d × 2^e as a value that rounds as the exact one does: its floor to many bits with a
sticky half below them. -/
def sqrtEx (n d : Nat) (e : Int) : Ex :=
  -- scale so that the radicand is an integer of at least 140 bits with an even exponent
  let sh0 : Int := 140 + Nat.log2 d + 1
  let sh : Int := if (e - sh0) % 2 = 0 then sh0 else sh0 + 1
  let x := n * 2 ^ sh.toNat / d
  let exact0 := n * 2 ^ sh.toNat % d = 0
  let q := isqrt x
  let half := (e - sh) / 2
  if q * q = x && exact0 then .num false q 1 half else .num false (2 * q + 1) 1 (half - 1)

/-- Rounds with flags joined. -/
def finish (f : Fmt) (r : Rnd) (ftz : Bool) (x : Ex × Nat) : Nat × Nat :=
  let y := roundEx f r ftz x.1
  (y.1, y.2 ||| x.2)

def fpAdd (f : Fmt) (r : Rnd) (ftz : Bool) (a b : Nat) : Nat × Nat :=
  finish f r ftz (sumEx r [fpDecode f (flushIn ftz f a), fpDecode f (flushIn ftz f b)])
def fpSub (f : Fmt) (r : Rnd) (ftz : Bool) (a b : Nat) : Nat × Nat :=
  finish f r ftz (sumEx r [fpDecode f (flushIn ftz f a), fvNeg (fpDecode f (flushIn ftz f b))])
def fpMul (f : Fmt) (r : Rnd) (ftz : Bool) (a b : Nat) : Nat × Nat :=
  let (x, fl) := mulFV (fpDecode f (flushIn ftz f a)) (fpDecode f (flushIn ftz f b))
  finish f r ftz (fvEx x, fl)
/-- One rounding of the exact product and sum (R200). -/
def fpFma (f : Fmt) (r : Rnd) (ftz : Bool) (a b c : Nat) : Nat × Nat :=
  let (x, fl) := mulFV (fpDecode f (flushIn ftz f a)) (fpDecode f (flushIn ftz f b))
  let (y, fl2) := sumEx r [x, fpDecode f (flushIn ftz f c)]
  finish f r ftz (y, fl ||| fl2)
def fpDiv (f : Fmt) (r : Rnd) (ftz : Bool) (a b : Nat) : Nat × Nat :=
  finish f r ftz (divEx (fpDecode f (flushIn ftz f a)) (fpDecode f (flushIn ftz f b)))
def fpRcp (f : Fmt) (r : Rnd) (ftz : Bool) (a : Nat) : Nat × Nat :=
  finish f r ftz (divEx (.fin false 1 0) (fpDecode f (flushIn ftz f a)))
def fpSqrt (f : Fmt) (r : Rnd) (ftz : Bool) (a : Nat) : Nat × Nat :=
  finish f r ftz (match fpDecode f (flushIn ftz f a) with
    | .nan s => (.nan, if s then flagNV else 0)
    | .inf n => if n then (.nan, flagNV) else (.inf false, 0)
    | .fin n m e => if m = 0 then (.num n 0 1 0, 0) else if n then (.nan, flagNV) else (sqrtEx m 1 e, 0))

/-- The order of two numbers with −0 below +0: a < b. -/
def numLt (a b : FV) : Bool :=
  match a, b with
  | .inf n, .inf m => n && !m
  | .inf n, _ => n
  | _, .inf m => !m
  | .fin n m e, .fin n' m' e' =>
    let t := min e e'
    let x := alignTo t n m e
    let y := alignTo t n' m' e'
    decide (x < y) || (decide (x = y) && n && !n')
  | _, _ => false
/-- Equality of values, with −0 = +0 (R181). -/
def numEq (a b : FV) : Bool :=
  match a, b with
  | .inf n, .inf m => n == m
  | .fin n m e, .fin n' m' e' =>
    let t := min e e'
    alignTo t n m e == alignTo t n' m' e'
  | _, _ => false
/-- a < b as real values. -/
def valLt (a b : FV) : Bool := numLt a b && !numEq a b

/-- minimumNumber and maximumNumber (R201). -/
def fpMinMax (f : Fmt) (isMax : Bool) (a b : Nat) : Nat × Nat :=
  let x := fpDecode f a
  let y := fpDecode f b
  let fl := nvSig [x, y]
  if isNaN x && isNaN y then (canonNaN f, fl)
  else if isNaN x then (b % 2 ^ fmtBits f, fl)
  else if isNaN y then (a % 2 ^ fmtBits f, fl)
  else if isMax then ((if numLt x y then b else a) % 2 ^ fmtBits f, fl)
  else ((if numLt y x then b else a) % 2 ^ fmtBits f, fl)

def fpAbs (f : Fmt) (a : Nat) : Nat := a % 2 ^ (fmtBits f - 1)
def fpNeg (f : Fmt) (a : Nat) : Nat := (a % 2 ^ fmtBits f) ^^^ 2 ^ (fmtBits f - 1)

/-- The floating conditions of R160, quiet (R181): result and NV. -/
def fpCond (f : Fmt) (c a b : Nat) : Bool × Nat :=
  let x := fpDecode f a
  let y := fpDecode f b
  let un := isNaN x || isNaN y
  (match c with
    | 0 => !un && numEq x y
    | 1 => un || !numEq x y
    | 2 => !un && valLt x y
    | 3 => !un && !valLt y x
    | 4 => !un && valLt y x
    | 5 => !un && !valLt x y
    | 6 => !un
    | _ => un, nvSig [x, y])

/-- R204: variant 0 sign of b, 1 its inverse, 2 the XOR. -/
def fpCpsgn (f : Fmt) (variant a b : Nat) : Nat :=
  let sa := bit a (fmtBits f - 1)
  let sb := bit b (fmtBits f - 1)
  let s := match variant with
    | 0 => sb
    | 1 => !sb
    | _ => sa != sb
  a % 2 ^ (fmtBits f - 1) + signBit f s

/-- The class bit of R205. -/
def fpClass (f : Fmt) (x : Nat) : Nat :=
  match fpDecode f x with
  | .nan s => if s then 0 else 1
  | .inf n => if n then 2 else 9
  | .fin n m _ =>
    if m = 0 then (if n then 5 else 6)
    else if isSubnormal f x then (if n then 4 else 7)
    else (if n then 3 else 8)

/-- va × 2^n rounded once (R206). -/
def fpScale (f : Fmt) (r : Rnd) (ftz : Bool) (a : Nat) (n : Int) : Nat × Nat :=
  match fpDecode f (flushIn ftz f a) with
  | .nan s => (canonNaN f, if s then flagNV else 0)
  | .inf s => (infBits f s, 0)
  | .fin s m e => roundEx f r ftz (.num s m 1 (e + n))

/-- Rounding to an integral value (R207); `x` asks for NX. -/
def fpFrnd (f : Fmt) (r : Rnd) (x : Bool) (a : Nat) : Nat × Nat :=
  match fpDecode f a with
  | .nan s => (canonNaN f, if s then flagNV else 0)
  | .inf s => (infBits f s, 0)
  | .fin s m e =>
    if e ≥ 0 then (a % 2 ^ fmtBits f, 0)
    else
      let d := 2 ^ (-e).toNat
      let q := roundQuot r s m d
      let y := roundEx f .rne false (.num s q 1 0)
      (y.1, if x && m % d ≠ 0 then flagNX else 0)

/-- round(a0 × b0 + a1 × b1 + c) to f32, once (R208). -/
def fpDot2 (g : Fmt) (r : Rnd) (ftz : Bool) (a b c : Nat) : Nat × Nat :=
  let el := fun x i => fpDecode g (flushIn ftz g (x / 2 ^ (16 * i) % 2 ^ 16))
  let (x, fx) := mulFV (el a 0) (el b 0)
  let (y, fy) := mulFV (el a 1) (el b 1)
  let (z, fz) := sumEx r [x, y, fpDecode .f32 (flushIn ftz .f32 c)]
  finish .f32 r ftz (z, fx ||| fy ||| fz)

/-- Conversion between floating formats (R88, R89). -/
def fpCvt (src dst : Fmt) (r : Rnd) (ftz : Bool) (a : Nat) : Nat × Nat :=
  match fpDecode src (flushIn ftz src a) with
  | .nan s => (canonNaN dst, if s then flagNV else 0)
  | .inf n => roundEx dst r ftz (.inf n)
  | .fin n m e => roundEx dst r ftz (.num n m 1 e)

/-- Conversion to an integer with bounds lo and hi (R88); only the operand is flushed (R209). -/
def fpToInt (src : Fmt) (lo hi : Int) (r : Rnd) (ftz : Bool) (a : Nat) : Int × Nat :=
  match fpDecode src (flushIn ftz src a) with
  | .nan _ => (0, flagNV)
  | .inf n => (if n then lo else hi, flagNV)
  | .fin n m e =>
    let (x, d) := scaleQuot m 1 e
    let q : Int := (roundQuot r n x d : Int)
    let q := if n then -q else q
    if q < lo then (lo, flagNV) else if hi < q then (hi, flagNV)
    else (q, if x % d ≠ 0 then flagNX else 0)

/-- Conversion of an integer (R88). -/
def fpOfInt (dst : Fmt) (r : Rnd) (x : Int) : Nat × Nat :=
  roundEx dst r false (.num (decide (x < 0)) x.natAbs 1 0)

/-- The QN4 codebook as FP16 patterns (R90). -/
def qn4Pattern (code : Nat) : Nat :=
  match code % 16 with
  | 0 => 0xBC00 | 1 => 0xB9A9 | 2 => 0xB856 | 3 => 0xB6AB | 4 => 0xB4F9 | 5 => 0xB2E9 | 6 => 0xB013 | 7 => 0xA964
  | 8 => 0x2964 | 9 => 0x3013 | 10 => 0x32E9 | 11 => 0x34F9 | 12 => 0x36AB | 13 => 0x3856 | 14 => 0x39A9 | _ => 0x3C00
def qn4Level (code : Nat) : FV := fpDecode .f16 (qn4Pattern code)

/-- F[j] = round_rne_f32(2^(−j/8)) as FP32 patterns (R92). -/
def qn4F (j : Nat) : Nat :=
  match j % 8 with
  | 0 => 0x3F800000 | 1 => 0x3F6AC0C7 | 2 => 0x3F5744FD | 3 => 0x3F45672A
  | 4 => 0x3F3504F3 | 5 => 0x3F25FED7 | 6 => 0x3F1837F0 | _ => 0x3F0B95C2

/-- The scale of a block with code c under super-scale S (R92): exact. -/
def qn4Scale (s : Nat) (c : Nat) : FV :=
  if c % 256 = 255 then .fin false 0 0
  else match fpDecode .f32 (fpMul .f32 .rne false s (qn4F c)).1 with
    | .fin n m e => .fin n m (e - (c % 256 / 8 : Nat))
    | x => x

/-- S is +0 or a positive finite number (R91). -/
def superOk (s : Nat) : Bool :=
  match fpDecode .f32 (s % 2 ^ 32) with
  | .fin n m _ => !n && (m ≠ 0 || s % 2 ^ 32 = 0)
  | _ => false

/-- The floating format of a scalar type. -/
def fmtOf : Ty → Fmt
  | .f64 => .f64 | .f16 | .f16x2 => .f16 | .bf16 | .bf16x2 => .bf16 | .e4m3 => .e4m3 | .e5m2 => .e5m2 | _ => .f32

/-- A two-operand operation on a type, element by element for packed types (R198). -/
def onElems (t : Ty) (op : Fmt → Nat → Nat → Nat → Nat × Nat) (a b c : Nat) : Nat × Nat :=
  let f := fmtOf t
  let lo := fun x => x % 2 ^ fmtBits f
  if tyPacked t then
    let hi := fun x => x / 2 ^ 16 % 2 ^ 16
    let x := op f (lo a) (lo b) (lo c)
    let y := op f (hi a) (hi b) (hi c)
    (x.1 + 2 ^ 16 * y.1, x.2 ||| y.2)
  else op f (lo a) (lo b) (lo c)

end Sys2Proof.Machine
end

