-- ==== Sys2Proof/Machine/ShapeTable.lean ====
section
/-! DEFINITION. The shape of each encoded instruction, one row per entry of the reference chapters (R169 to R300). -/

namespace Sys2Proof.Machine

/-- The shape of an encoded instruction; none for an event and for an unassigned opcode (R168). -/
def shape : Instr → Option Shape
  | .nop h f => some (plainG 0x000 h (some 2) false f .unused .unused .unused .unused (f.sub == 0))
  | .mov h f =>
    let t := tyOf f.dtype
    some (gShape 0x001 h (some 2) false f (dW (tyRegs t)) (fullySrc (tyRegs t)) .unused .unused
      { dtype := true, sub := f.sub == 0, ok6 := tyBit t })
  | .movImm h f => some (giShape 0x002 h (some 2) f (dW (1 + f.isel.toNat % 2)) .unused true true)
  | .sel h f =>
    let t := tyOf f.dtype
    let u := fullySrc (tyRegs t)
    some (gShape 0x003 h (some 2) false f (dW (tyRegs t)) u u .unused
      { dtype := true, sub := f.sub.toNat < 16, ok6 := tyBit t } [f.sub.toNat % 8])
  | .add h f => let t := tyOf f.dtype
    some (arithShape 0x004 h (some (latSimple t)) f true false true true fun t => tyInt t || tyFp6 t)
  | .addImm h f =>
    let r := 1 + f.isel.toNat % 2
    let fl := 2 ≤ f.isel.toNat
    some (giShape 0x005 h (some (if fl then 2 + 2 * r else 2)) f (dW r) (if fl then fsrc r else fullySrc r) true true)
  | .sub h f => let t := tyOf f.dtype
    some (arithShape 0x006 h (some (latSimple t)) f true false true true fun t => tyInt t || tyFp6 t)
  | .mul h f => let t := tyOf f.dtype
    some (arithShape 0x007 h (some (latMul t)) f true false true true fun t => tyInt t || tyFp6 t)
  | .mulImm h f =>
    let r := 1 + f.isel.toNat % 2
    some (giShape 0x008 h (some (2 + 2 * r)) f (dW r) (if 2 ≤ f.isel.toNat then fsrc r else fullySrc r) true true)
  | .mulhi h f => some (arithShape 0x009 h (some 6) f true false false false tyInt)
  | .mad h f => some (arithShape 0x00A h (some (latMul (tyOf f.dtype))) f true true true false tyInt)
  | .fma h f => some (arithShape 0x00B h (some (latSimple (tyOf f.dtype))) f true true false true tyFp6)
  | .min h f => let t := tyOf f.dtype
    some (arithShape 0x00C h (some (latSimple t)) f true false false false fun t => tyInt t || tyFp6 t)
  | .max h f => let t := tyOf f.dtype
    some (arithShape 0x00D h (some (latSimple t)) f true false false false fun t => tyInt t || tyFp6 t)
  | .abs h f => let t := tyOf f.dtype
    some (arithShape 0x00E h (some (latSimple t)) f false false true false fun t => t == .s32 || t == .s64 || tyFp6 t)
  | .neg h f => let t := tyOf f.dtype
    some (arithShape 0x00F h (some (latSimple t)) f false false true false fun t => tyInt t || tyFp6 t)
  | .and h f => some (logicShape 0x010 h f (fullySrc (tyRegs (tyOf f.dtype))))
  | .andImm h f => some (logicImmShape 0x011 h f)
  | .or h f => some (logicShape 0x012 h f (fullySrc (tyRegs (tyOf f.dtype))))
  | .orImm h f => some (logicImmShape 0x013 h f)
  | .xor h f => some (logicShape 0x014 h f (fullySrc (tyRegs (tyOf f.dtype))))
  | .xorImm h f => some (logicImmShape 0x015 h f)
  | .not h f => some (logicShape 0x016 h f .unused)
  | .shl h f => some (logicShape 0x017 h f s1)
  | .shlImm h f => some (logicImmShape 0x018 h f)
  | .shr h f => some (logicShape 0x019 h f s1)
  | .shrImm h f => some (logicImmShape 0x01A h f)
  | .sra h f => some (logicShape 0x01B h f s1)
  | .sraImm h f => some (logicImmShape 0x01C h f)
  | .rot h f => some (logicShape 0x01D h f s1)
  | .popc h f => some (countShape 0x01E h f)
  | .clz h f => some (countShape 0x01F h f)
  | .ctz h f => some (countShape 0x020 h f)
  | .brev h f => some (logicShape 0x021 h f .unused)
  | .bfe h f =>
    let t := tyOf f.dtype
    some (gShape 0x022 h (some 2) false f (dW (tyRegs t)) (fullySrc (tyRegs t)) s1 .unused
      { dtype := true, sub := f.sub == 0, ok6 := tyInt t })
  | .bfi h f =>
    let t := tyOf f.dtype
    let u := fullySrc (tyRegs t)
    some (gShape 0x023 h (some 2) false f (dW (tyRegs t)) u u s1
      { dtype := true, sub := f.sub == 0, ok6 := tyBit t })
  | .lea h f => some (gShape 0x024 h (some 2) false f d2 s2 s1 .unused
      { dtype := true, stype := true, sub := f.sub.toNat < 5,
        ok6 := tyOf f.dtype == .b64 && (tyOf f.stype == .s32 || tyOf f.stype == .u32) })
  | .div h f => some (arithShape 0x025 h none f true false true true fun t => tyInt t || tyFp t)
  | .rem h f => some (arithShape 0x026 h none f true false false false tyInt)
  | .cmp h f =>
    let t := tyOf f.type
    let c := f.cond.toNat
    let u := if tyFp t then fsrc (tyRegs t) else fullySrc (tyRegs t)
    some (pShape 0x027 h f u u .unused (f.sub == 0)
      ((tyInt t && c < 6) || (tyBit t && c < 2) || (tyFp t && c < 8)))
  | .plop h f => some (pShape 0x028 h f .raw .raw .raw (f.sub == 0 && predOk f.a && predOk f.b && predOk f.c) true
      [f.a.toNat % 8, f.b.toNat % 8, f.c.toNat % 8])
  | .pmov h f => some (gShape 0x029 h (some 2) false f .unused s1 s1 .unused { sub := f.sub == 0 } []
      [0, 1, 2, 3, 4, 5, 6])
  | .cpsgn h f => let t := tyOf f.dtype
    some (gShape 0x02A h (some (latSimple t)) false f (dW (tyRegs t)) (fsrc (tyRegs t)) (fsrc (tyRegs t)) .unused
      { dtype := true, sub := f.sub.toNat < 3, ok6 := tyFp6 t })
  | .classify h f => let t := tyOf f.type
    some (pShape 0x02B h f (fsrc (tyRegs t)) .unused .unused true (tyFp t || tyFp8 t))
  | .scale h f => let t := tyOf f.dtype
    some (gShape 0x02C h (some (latSimple t)) false f (dW (tyRegs t)) (fsrc (tyRegs t)) s1 .unused
      { rnd := true, ftz := true, dtype := true, sub := f.sub == 0, ok6 := tyFp t })
  | .frnd h f => let t := tyOf f.dtype
    some (gShape 0x02D h (some (latSimple t)) false f (dW (tyRegs t)) (fsrc (tyRegs t)) .unused .unused
      { rnd := true, dtype := true, sub := f.sub.toNat < 2, ok6 := tyFp t })
  | .cvt h f => some (cvtShape h f)
  | .rcp h f => some (fnShape 0x030 h f true true)
  | .rsq h f => some (fnShape 0x031 h f false true)
  | .sqrt h f => some (fnShape 0x032 h f true true)
  | .ex2 h f => some (fnShape 0x033 h f false false)
  | .lg2 h f => some (fnShape 0x034 h f false false)
  | .sin h f => some (fnShape 0x035 h f false false)
  | .cos h f => some (fnShape 0x036 h f false false)
  | .tanh h f => some (fnShape 0x037 h f false false)
  | .dot2 h f => some (gShape 0x038 h (some 4) false f d1 (fsrc 1) (fsrc 1) (fsrc 1)
      { rnd := true, ftz := true, dtype := true, stype := true, sub := f.sub == 0,
        ok6 := tyOf f.dtype == .f32 && tyPacked (tyOf f.stype) })
  | .qblk h f => some (gShape 0x039 h none false f d1 s4 (.src 1 .sz) (.src 1 .sz)
      { dtype := true, sub := f.sub == 0, ok6 := tyOf f.dtype == .f32 })
  | .dqn4 h f => let t := tyOf f.dtype
    some (gShape 0x03A h (some 4) false f d1 (fsrc 1) (fsrc 1) (fsrc 1)
      { rnd := true, dtype := true, sub := f.sub.toNat < 8 && (!tyPacked t || f.sub.toNat % 2 == 0),
        ok6 := t == .f16 || t == .bf16 || t == .f32 || tyPacked t })
  | .shfl h f => let t := tyOf f.dtype
    some (gShape 0x040 h (some 6) false f (dW (tyRegs t)) (fullySrc (tyRegs t)) s1 .unused
      { dtype := true, sub := f.sub.toNat < 4, ok6 := tyBit t })
  | .shflImm h f => let r := if f.imm.toNat / 32 % 2 == 1 then 2 else 1
    some (giShape 0x041 h (some 6) f (dW r) (fullySrc r) (f.imm.toNat < 64) true)
  | .bcast h f => let t := tyOf f.dtype
    some (gShape 0x042 h (some 6) false f (dW (tyRegs t)) (fullySrc (tyRegs t))
      (if f.sub == 1 then .unused else .src 1 .lane) .unused
      { dtype := true, sub := f.sub.toNat < 2, ok6 := tyBit t })
  | .vote h f => some (pShape 0x043 h f .raw .unused .unused
      (predOk f.a && f.type == 0 && f.cond == 0 && f.sub.toNat < 3) true [f.a.toNat % 8])
  | .ballot h f => some (gShape 0x044 h (some 6) false f (.dst 1 .vsk) .raw .unused .unused
      { sub := f.sub == 0 && predOk f.a } [f.a.toNat % 8])
  | .wred h f => some (waveRedShape 0x045 h f false)
  | .wscan h f => some (waveRedShape 0x046 h f true)
  | .kmov h f => some (plainG 0x050 h (some 2) false f (.dst 1 .mask) s1 .unused .unused (f.sub == 0))
  | .kmovImm h f => some (giShape 0x051 h (some 2) f (.dst 1 .mask) .unused true (f.isel == 0))
  | .kand h f => some (plainG 0x052 h (some 2) false f (.dst 1 .mask) (.src 1 .maskSrc) (.src 1 .maskSrc) .unused (f.sub == 0))
  | .kor h f => some (plainG 0x053 h (some 2) false f (.dst 1 .mask) (.src 1 .maskSrc) (.src 1 .maskSrc) .unused (f.sub == 0))
  | .kxor h f => some (plainG 0x054 h (some 2) false f (.dst 1 .mask) (.src 1 .maskSrc) (.src 1 .maskSrc) .unused (f.sub == 0))
  | .knot h f => some (plainG 0x055 h (some 2) false f (.dst 1 .mask) (.src 1 .maskSrc) .unused .unused (f.sub == 0))
  | .kact h f => some (plainG 0x056 h (some 2) false f (.dst 1 .mask) .unused .unused .unused (f.sub.toNat < 3))
  | .kpop h f => some (plainG 0x057 h (some 2) false f d1 (.src 1 .maskSrc) .unused .unused (f.sub == 0))
  | .ktest h f => some (pShape 0x058 h f (.src 1 .maskSrc) (if f.cond == 5 then .unused else .src 1 .maskSrc) .unused
      (f.type == 0 && f.sub == 0) (f.cond.toNat < 6))
  | .kfirst h f => some (plainG 0x059 h (some 2) false f d1 (.src 1 .maskSrc) .unused .unused (f.sub.toNat < 2))
  | .xainit h f => some (xShape 0x060 h (some 2) f .unused .raw s2 s2 false false
      (2 ≤ f.a.toNat && f.a.toNat ≤ 8 && f.sub.toNat < 2) true)
  | .xapush h f => some (xShape 0x061 h (some 2) f .unused (fsrc (tyRegs (tyOf f.type))) .unused .unused false true
      (f.sub == 0) (f.type == 10 || f.type == 11))
  | .xalim h f => some (xShape 0x062 h none f (dW (tyRegs (tyOf f.type))) .unused .unused .unused true true
      (f.sub == 0) ((f.type == 10 || f.type == 11) && (f.pc == 7 || (f.pc != f.ps && f.pc != f.pf)) &&
        (f.ps == 7 || f.ps != f.pf)))
  | .xastat h f => some (xShape 0x063 h (some 2) f (if f.sub == 0 then d1 else d2)
      (if f.sub == 3 then s1 else .unused) .unused .unused false false (f.sub.toNat < 4) true)
  | .xaclr h f => some (xShape 0x064 h (some 2) f .unused .unused .unused .unused false false
      (f.sub.toNat < 2 && (f.sub == 0 || f.xa == 0)) true)
  | .ld h f => some (mShape 0x080 h f (dataDst f.size) s2 .unused (f.sub == 0 || (f.sub == 1 && f.size.toNat < 2))
      (ordIs 1 1 5 f.order f.scope))
  | .st h f => some (mShape 0x081 h f .unused s2 (dataSrc f.size) (f.sub == 0) (ordIs 2 1 5 f.order f.scope))
  | .lds h f => some (mShape 0x082 h f (dataDst f.size) s1 .unused (f.sub == 0 || (f.sub == 1 && f.size.toNat < 2))
      (ordIs 1 1 5 f.order f.scope))
  | .sts h f => some (mShape 0x083 h f .unused s1 (dataSrc f.size) (f.sub == 0) (ordIs 2 1 5 f.order f.scope))
  | .stp h f => some (mShape 0x084 h f .unused s1 (dataSrc f.size) true (ordIs 2 3 3 f.order f.scope))
  | .ldl h f => some (giShape 0x085 h none f
      (match f.isel.toNat with | 1 => d2 | 2 => d4 | _ => d1) .unused true true)
  | .stm h f => some (mShape 0x086 h f .unused s2 (dataSrc f.size) (f.sub == 0) (ordIs 2 4 5 f.order f.scope))
  | .replsync h f => some (mShape 0x087 h f .unused s2 s1 (f.sub == 0 && f.size == 0) (f.order == 0 && f.scope == 0))
  | .fence h f => some (mShape 0x088 h f .unused .unused .unused (f.sub == 0 && f.size == 0 && f.disp == 0)
      (f.order != 0 && f.scope != 0))
  | .stpScalarRank h f => some (mxShape 0x089 h f .unused s1 (dataSrc f.size) (.src 1 .scalar)
      (f.sub == 0 && f.aop == 0 && f.rsv == 0) (ordIs 2 3 3 f.order f.scope))
  | .atom h f => some (atomShape 0x090 h f false false)
  | .atoms h f => some (atomShape 0x091 h f false true)
  | .red h f => some (atomShape 0x092 h f true false)
  | .reds h f => some (atomShape 0x093 h f true true)
  | .cas h f => some (casShape 0x094 h f (dataSrc f.size) [2, 3, 4] (f.sub == 0))
  | .casgt h f => some (casShape 0x095 h f .unused [2, 3] (f.sub.toNat < 2))
  | .casver h f => some (casShape 0x096 h f s1 [2, 3] (f.sub == 0))
  | .casptr h f => some (casShape 0x097 h f (dataSrc f.size) [3, 4] (f.sub == 0))
  | .pcall h f => some (mxShape 0x098 h f (dataDst f.size) s2 (dataSrc f.size) (dataSrc f.size) (f.sub == 0)
      ((f.size == 2 || f.size == 3) && 3 ≤ f.scope.toNat))
  | .txbegin h f => some (bShape 0x0A0 h none false f .unused .unused .unused (f.sub.toNat < 2))
  | .txend h f => some (plainG 0x0A1 h none true f (.upd 1 .mask) .unused .unused .unused (f.sub == 0))
  | .txabort h f => some (plainG 0x0A2 h none true f .unused s1 .unused .unused (f.sub == 0))
  | .obres h f => some (plainG 0x100 h none false f d1 s1 s1 s1 (f.sub.toNat < 8))
  | .obrel h f => some (plainG 0x101 h none false f d1 .unused .unused .unused (f.sub.toNat < 8))
  | .mma h f => some (tShape 0x102 h f s1 s1 s1 ((if f.fmtB == 8 then f.zs.toNat < 8 else f.zs == 0) && f.sub.toNat < 2)
      (mmaPair f.fmtA f.fmtB false).isSome)
  | .mmam h f => some (tShape 0x103 h f s2 s2 s4 (f.zs == 0 && f.obA == 0 && f.obB == 0 && f.sub.toNat < 2)
      (mmaPair f.fmtA f.fmtB true).isSome)
  | .mzero h f => some (tShape 0x104 h f .unused .unused .unused
      (f.zs == 0 && f.obA == 0 && f.obB == 0 && f.fmtA == 0 && f.fmtB == 0 && f.sub == 0) true)
  | .mmov h f => some (tShape 0x105 h f .unused .unused .unused
      (f.obA == 0 && f.obB == 0 && f.fmtB == 0 && f.sub.toNat < 2 && (f.sub == 1 || f.fmtA == 0))
      (f.sub != 1 || addFmt f.fmtA))
  | .mld h f => some (tShape 0x106 h f (if f.sub == 1 then s1 else s2) s1 s1
      (f.zs == 0 && f.obA == 0 && f.obB == 0 && f.fmtA == 0 && f.fmtB == 0 && f.sub.toNat < 2) true)
  | .mflush h f =>
    let n := f.sub.toNat
    some (tShape 0x107 h f (if n == 1 then s1 else s2) s1 s1
      (f.zd == 0 && f.obA == 0 && f.obB == 0 && f.fmtB == 0 && (n < 3 || n == 6) && (2 ≤ n || f.fmtA == 0))
      (n < 2 || addFmt f.fmtA))
  | .mstest h f => some (tShape 0x108 h f .raw .raw s1
      ((f.a == 0 || f.a == 0xFF) && (f.b == 0 || f.b == 0xFF) && f.zs == 0 && f.obA == 0 && f.obB == 0 &&
        f.fmtA == 0 && f.fmtB == 0 && f.sub.toNat < 2) true)
  | .cpy h f =>
    let n := f.sub.toNat
    some (gShape 0x110 h none false f .unused (if n % 4 == 0 then s2 else s1) (if n / 4 == 0 then s2 else s1) s2
      { dtype := true, sub := n % 4 < 3 && n < 8 && (if n % 4 == 2 then f.dtype.toNat < 8 else f.dtype == 0) })
  | .cpyt h f => some (gShape 0x111 h none false f .unused s2 s2 s4
      { dtype := true, sub := f.sub.toNat < 3 && (if f.sub == 1 then f.dtype.toNat < 8 else f.dtype == 0) })
  | .rcfence h f => some (plainG 0x112 h none false f .unused .unused .unused .unused (f.sub == 0))
  | .bra h f => some (bShape 0x180 h (some 2) true f .unused .unused .unused (f.sub == 0))
  | .jmp h f => some (plainG 0x181 h (some 2) true f .unused s2 .unused .unused (f.sub == 0))
  | .call h f => some (bShape 0x182 h (some 2) true f d2 .raw .unused (f.sub == 0 && f.a.toNat < 24))
  | .callr h f => some (plainG 0x183 h (some 2) true f d2 s2 .unused .unused (f.sub.toNat < 24))
  | .ret h f => some (plainG 0x184 h (some 2) true f .unused s2 .unused .unused (f.sub.toNat < 24))
  | .loop h f => some (bShape 0x185 h (some 2) true f (.upd 1 .counter) .unused .unused (f.sub == 0))
  | .fork h f => some (bShape 0x186 h none false f d1 s1 s1 (f.sub == 0))
  | .quit h f => some (plainG 0x187 h (some 2) true f .unused .unused .unused .unused (f.sub == 0))
  | .join h f => some (plainG 0x188 h none false f .unused (.src 1 .mask) .unused .unused (f.sub == 0))
  | .leave h f => some (plainG 0x189 h (some 2) false f .unused (.upd 1 .mask) .unused .unused (f.sub == 0))
  | .waitm h f => some (plainG 0x18A h none false f .unused (.src 1 .mask) .unused .unused (f.sub == 0))
  | .binit h f => some (plainG 0x190 h none false f .unused s1 s1 .unused (f.sub == 0))
  | .barr h f => some (plainG 0x191 h none false f d1 s1 (if f.sub.toNat / 2 % 2 == 1 then s1 else .unused) .unused
      (f.sub.toNat < 4))
  | .bwait h f => some (plainG 0x192 h none false f d1 s1 s1 .unused (f.sub == 0))
  | .bfarr h f => some (plainG 0x193 h none false f d1 .unused .unused .unused (f.sub.toNat < 8))
  | .bfwait h f => some (plainG 0x194 h none false f d1 s1 .unused .unused (f.sub.toNat < 8))
  | .qput h f => some (plainG 0x195 h none false f .unused s1 .unused .unused (f.sub == 0))
  | .qget h f => some (gShape 0x196 h none false f (.dst 1 .vec) .unused .unused .unused { sub := f.sub.toNat < 8 } []
      (if f.sub.toNat % 8 < 7 then [f.sub.toNat % 8] else []))
  | .svc h f => some (plainG 0x197 h none false f d2 s1 s2 .unused (f.sub.toNat < 2))
  | .mfsr h f =>
    let n := f.imm.toNat
    some (giShape 0x200 h none f (dW (1 + f.isel.toNat % 2)) .unused
      (n < 4096 && (srWidth n).isSome && f.isel.toNat < 2) (srWidth n == some (1 + f.isel.toNat)))
  | .mtsr h f =>
    let n := f.imm.toNat
    some (giShape 0x201 h none f .unused (fullySrc (1 + f.isel.toNat % 2))
      (n < 4096 && (srWidth n).isSome && f.isel.toNat < 2) (srWidth n == some (1 + f.isel.toNat) && srWritable n))
  | .spawn h f => some (plainG 0x202 h none false f d1 s1 s4 .unused (f.sub == 0))
  | .yieldpt h f => some (plainG 0x203 h none false f .unused .unused .unused .unused (f.sub == 0))
  | .ppt h f => some (plainG 0x204 h none false f .unused .unused .unused .unused (f.sub.toNat < 16))
  | .spanin h f => some (giShape 0x205 h (some 2) f .unused .unused
      (f.isel == 0 && f.imm.toNat < 65536 && f.imm != 0) true)
  | .spanout h f => some (giShape 0x206 h (some 2) f .unused .unused
      (f.isel == 0 && f.imm.toNat < 65536 && f.imm != 0) true)
  | .brk h f => some (plainG 0x207 h none false f .unused .unused .unused .unused true)
  | .trap h f => some (giShape 0x208 h none f .unused .unused (f.isel == 0 && f.imm.toNat < 256) true)
  | .sret h f => some (plainG 0x209 h (some 2) true f .unused .unused .unused .unused (f.sub == 0))
  | .rdcyc h f => some (plainG 0x20A h none false f d2 .unused .unused .unused (f.sub == 0))
  | .tbload h f => some (plainG 0x210 h none false f d1 s2 .unused .unused (f.sub == 0))
  | .odeinit h f => some (plainG 0x211 h none false f d1 s2 .unused .unused (f.sub == 0))
  | .oderun h f => some (plainG 0x212 h none false f d1 .unused .unused .unused (f.sub == 0))
  | .odestep h f => some (plainG 0x213 h none false f (if f.sub == 1 then d4 else d1) .unused .unused .unused (f.sub.toNat < 2))
  | .odeq h f => some (plainG 0x214 h none false f d2 s2 s2 .unused (f.sub == 0))
  | .odestat h f => some (plainG 0x215 h none false f (if f.sub == 0 then d1 else d2) .unused .unused .unused (f.sub.toNat < 7))
  | .stgget h f => some (plainG 0x216 h none false f
      (if 4 ≤ f.sub.toNat && f.sub.toNat ≤ 7 then d2 else d1) .unused .unused .unused (f.sub.toNat < 10))
  | .stgput h f => some (gShape 0x217 h none false f .unused s1 (fsrc (tyRegs (tyOf f.dtype))) .unused
      { dtype := true, sub := f.sub == 0, ok6 := f.dtype == 10 || f.dtype == 11 })
  | .evarm h f => some (plainG 0x218 h none false f .unused s1 .unused .unused (f.sub.toNat < 32))
  | _ => none

end Sys2Proof.Machine
end

