-- ==== Sys2Proof/Machine/Checks.lean ====
section
/-! DEFINITION. Decode checks that need more than a row of the shape table (R152, R175). -/

namespace Sys2Proof.Machine

/-- R152: alloc 7, and an alloc on a fixed-latency instruction, are refused with reason 4. -/
def controlOk (sh : Shape) : Bool :=
  sh.ctl.alloc != 7 && (sh.ctl.alloc == 0 || sh.lat.isNone)

/-- The size in bytes of a literal load (R175). -/
def literalSize (isel : BitVec 2) : Nat :=
  match isel.toNat with
  | 0 => 4 | 1 => 8 | 2 => 16 | _ => 2

/-- The address of a literal (R175). -/
def literalAddr (c : Nat) (imm : BitVec 32) : Nat := wrap 64 (c + sval 32 imm.toNat)

/-- R175: a literal address that is not a multiple of the size is refused with reason 5. -/
def literalOk (c : Nat) : Instr → Bool
  | .ldl _ f => literalAddr c f.imm % literalSize f.isel == 0
  | _ => true

end Sys2Proof.Machine
end

