-- ==== Sys2Proof/Machine/State.lean ====
section
/-! DEFINITION. The state of the package: everything spec/ gives the machine, as plain data, and State.reset.
A list of pairs with a Nat first is a map with rising keys; the key is said beside the field. A register map lists
the registers that have been written, and an unlisted register reads 0. -/

namespace Sys2Proof.Machine

/-- Why a step stops with a fault. The machine of the spec never stops: a fault of an instruction parks lanes
(R293), which is a next state. -/
inductive Fault where
  /-- Raised by the meaning of an event row that names a unit the package does not have, such as core 768 (R11).
  Safe: the spec gives no event of such a unit. -/
  | noSuchUnit
  deriving DecidableEq, Repr

/-- Why an instruction is refused. -/
inductive Refusal where
  /-- Raised by an arm of exec whose instruction has no meaning in the model yet. Safe: nothing can be proved of it. -/
  | notModelled (mnemonic : String)
  deriving DecidableEq, Repr

/-- A sparse byte memory in canonical form: rising addresses, no entry equal to what an unlisted place reads. -/
abbrev Memory := List Host.Cell

/-! ## Fibres and lane slots -/

/-- A register, mask or predicate of a wave that a write names (R305 to R309). -/
inductive Target where
  | v (lane reg : Nat)
  | s (reg : Nat)
  | k (reg : Nat)
  | p (lane pred : Nat)
  deriving DecidableEq, Repr

/-- What a fibre waits on (R17, R20, R22, R35, R38, R293). -/
inductive Wait where
  | ready
  /-- the fibre of a FORK that has not completed (R15) -/
  | fresh
  /-- an operation whose flight must end before the fibre goes on (translation hold of a release, R64) -/
  | hold (flight : Nat)
  | join (k : Nat)
  | waitm (snapshot : W32)
  /-- offset of the barrier object in the crew's grant, the phase, and the register for the result -/
  | bwait (offset : Nat) (phase : W32) (dst : BitVec 8)
  | bfwait (tag : Nat) (phase : W32) (dst : BitVec 8)
  | qget (dst : BitVec 8) (pn : Nat)
  | qput
  | svc (chip : Bool) (dst : BitVec 8)
  /-- at a YIELDPT, evicted there since or not (R287) -/
  | yieldpt (evicted : Bool)
  | oderun (dst : BitVec 8)
  | odestep (dst : BitVec 8) (record : Bool)
  | token
  /-- the accumulator tiles, which another crew holds (R255) -/
  | tile
  | remote
  | replay
  | paced (until_ : Nat)
  /-- what its instruction waited for is over: the instruction goes on in it next, from the operands it read (R305) -/
  | again
  /-- it has quit, and its slot frees in this clock (R20) -/
  | quit (due : Nat)
  | parked
  deriving DecidableEq, Repr

/-- A producer of the checking scoreboard on a fibre's path (R313, R314). -/
structure Producer where
  target : Target
  /-- latency L of a fixed-latency producer; none for a variable-latency one -/
  lat : Option Nat
  /-- the path clock at which it issued -/
  at_ : Nat
  /-- the tag of a variable-latency producer, 0 for none -/
  tag : Nat
  /-- clause visit and slot, for pd -/
  visit : Nat
  slot : Nat
  /-- it counts as having reached the register file (R314) -/
  landed : Bool
  deriving DecidableEq, Repr

/-- The checking scoreboard of a fibre's path (R313, R314). -/
structure Path where
  clock : Nat
  visit : Nat
  producers : List Producer
  deriving DecidableEq, Repr

/-- A fibre (R11, R17). `next` is the PC at which it goes on when its wait ends, `flight` the operation it waits with. -/
structure Fibre where
  pc : W64
  preds : BitVec 8
  win : Nat
  age : Nat
  wait : Wait
  next : W64
  flight : Nat
  /-- it came to `pc` by fall-through, and pool blocks there are still to be skipped (R149) -/
  fell : Bool
  path : Path
  /-- a release fence narrower than `.device` stands before its later stores (R57, R63) -/
  fenced : Bool
  /-- cores whose narrow releases its loads may have read (R57, R63) -/
  heard : List Nat
  deriving DecidableEq, Repr

structure TxRead where
  ia : Nat
  bytes : W64
  deriving DecidableEq, Repr

structure TxWrite where
  ia : Nat
  mask : BitVec 8
  bytes : W64
  deriving DecidableEq, Repr

/-- The transaction state of a lane slot but ABORTCAUSE (R237). -/
structure LaneTx where
  depth : Nat
  target : W64
  serial : Bool
  reads : List TxRead
  writes : List TxWrite
  /-- aligned words a serial lane wrote in place (R226) -/
  inPlace : List Nat
  deriving DecidableEq, Repr

inductive XaMethod where
  | eps
  | lsq
  deriving DecidableEq, Repr

/-- An extrapolating-accumulator context (R99, R215). -/
structure XaCtx where
  d : Nat
  method : XaMethod
  tol : W64
  thr : W64
  hist : List W64
  deriving DecidableEq, Repr

/-- The contexts of a lane, and what they held before their latest write (R306). -/
structure LaneXa where
  now : List XaCtx
  before : List XaCtx
  wrote : Nat
  deriving DecidableEq, Repr

/-- The trap registers of a lane slot (R293, R297). -/
structure Trap where
  pc : W64
  addr : W64
  cause : W32
  pred : W32
  win : W32
  deriving DecidableEq, Repr

/-- The supervisor-visible words of a lane slot (R360). -/
structure LaneSvc where
  resume : W64
  number : W32
  arg : W64
  reply : W64
  /-- answered, but the lane has not yet been released -/
  answered : Bool
  deriving DecidableEq, Repr

/-- A lane slot; `win` is the window base of its last fibre (R172). -/
structure Lane where
  win : Nat
  trap : Trap
  abort : W32
  svc : LaneSvc
  skipSpan : Bool
  tx : LaneTx
  xa : LaneXa
  deriving DecidableEq, Repr

/-! ## Waves -/

/-- A fixed-latency write on its way to the register file (R305, R306, R309). -/
structure Pend where
  target : Target
  /-- bits of the old value that stay: LEAVE and QUIT clear bits of a mask (R20) -/
  keep : W32
  value : W32
  land : Nat
  deriving DecidableEq, Repr

/-- A result on the bypass, for pd (R307, R308). -/
structure Bypass where
  slot : Nat
  target : Target
  value : W32
  ready : Nat
  deriving DecidableEq, Repr

/-- The convoy that a wave is issuing (R17, R18); `lanes` is 0 when the next instruction needs a selection. -/
structure Run where
  lanes : W32
  clause : W64
  slot : Nat
  bypass : List Bypass
  deriving DecidableEq, Repr

/-- Where a wave belongs (R12, R13, R25): `pair` is the WAVEID of its paired wave. -/
structure WaveId where
  crew : Nat
  index : Nat
  lantern : Bool
  pair : Option Nat
  allot : Nat
  deriving DecidableEq, Repr

/-- The registers of a wave. `v` is keyed by lane * 512 + physical register. -/
structure Regs where
  v : List (Nat × W32)
  s : List (Nat × W32)
  k : List (Nat × W32)
  fpstat : W32
  check : W32
  deriving DecidableEq, Repr

/-- The span stack, top first, and the other fields of SPANTOP (R289). -/
structure Spans where
  stack : List W16
  excess : Nat
  overflow : Bool
  mismatch : Bool
  deriving DecidableEq, Repr

/-- Issue state of a wave (R304, R310, R416). -/
structure Sched where
  tags : List Nat
  pend : List Pend
  run : Option Run
  /-- earliest clock of the next instruction in the same clause, and of the next slot 0 -/
  nextIssue : Nat
  nextClause : Nat
  /-- causal visits paid (R416) -/
  paid : Nat
  /-- clock until which inserted delay holds the wave (R416) -/
  delayed : Nat
  /-- PC and lanes of the latest QUIT, and clock, PC and lanes of the latest issue (R411) -/
  lastQuit : W64
  quitLanes : W32
  lastIssue : Option (Nat × W64 × W32)
  deriving DecidableEq, Repr

/-- A wave; fibres and lanes are keyed by lane slot. -/
structure Wave where
  id : WaveId
  regs : Regs
  spans : Spans
  sched : Sched
  fibres : List (Nat × Fibre)
  lanes : List (Nat × Lane)
  /-- filled slots of the queue window, oldest first, 32 words each, held by the compute wave, and the number of
  slots filled so far (R25, R226) -/
  window : List (List W32)
  puts : Nat
  ended : Bool
  /-- the stacks of its lane slots, by offset in the grant, while it is evicted alone (R373) -/
  away : List (Nat × Byte)
  deriving DecidableEq, Repr

/-! ## Operations in progress -/

/-- What a memory request does at its home (R228 to R236). -/
inductive MemOp where
  | load (signed : Bool)
  | store
  | multicast
  | atom (aop : Nat)
  | red (aop : Nat)
  | cas
  | casgt (signed : Bool)
  | casver
  | casptr
  | pcall (index : Nat)
  | replsync
  deriving DecidableEq, Repr

/-- One lane's global access, kept until it has been performed. -/
structure MemReq where
  core : Nat
  slot : Nat
  lane : Nat
  district : Nat
  ctx : Nat
  va : W64
  size : Nat
  op : MemOp
  data : W128
  cmp : W128
  scope : Nat
  order : Nat
  /-- its lane holds the serial token (R74) -/
  serial : Bool
  /-- it is one word of a whole-line access (R66) -/
  line : Bool
  /-- its host page has been marked in the bitmap of R355 -/
  marked : Bool
  /-- the instruction returns a value -/
  ret : Bool
  /-- low byte of the opcode, for a replay record (R419); 0 writes none -/
  code : Nat
  dst : List Target
  status : List Target
  flight : Nat
  deriving DecidableEq, Repr

/-- An instruction some of whose lanes wait before it acts in them, with what it read when it issued (R305): the
register file as it read it, its fibres' predicates, its active lanes and the live ones, and the lane whose value a
scalar or mask takes (R156). -/
structure Again where
  instr : Instr
  clause : W64
  index : Nat
  next : W64
  v : List (Nat × W32)
  s : List (Nat × W32)
  k : List (Nat × W32)
  preds : List (Nat × BitVec 8)
  active : W32
  live : W32
  cycles : Nat
  core : Nat
  crew : Nat
  lead : Option Nat
  /-- the copy of its district that its accesses use (R335) -/
  copy : Nat
  /-- the page that its lanes wait for, by context and intermediate address -/
  page : Option (Nat × Nat)
  deriving DecidableEq, Repr

/-- A variable-latency operation of a wave: it completes at `due` once `waits` is 0 (R310). -/
structure Flight where
  core : Nat
  slot : Nat
  tag : Nat
  /-- lanes whose part has not been performed -/
  waits : W32
  due : Nat
  writes : List (Target × W32)
  flags : W32
  /-- bits of a mask written at completion: mask register, which bits, their values (R241) -/
  mask : Option (Nat × W32 × W32)
  /-- lanes to make ready when it completes (FORK) -/
  wake : W32
  /-- values captured at issue: the 32 lane values of a QPUT (R25, R305) -/
  data : List W32
  again : Option Again
  deriving DecidableEq, Repr

/-- An operand-buffer reservation (R257). -/
structure Reservation where
  offset : Nat
  size : Nat
  format : Nat
  meta_ : Nat
  deriving DecidableEq, Repr

/-- A class-2 operation with the operands captured at issue (R250, R251); what it does is its instruction. Its
number is that of its flight. -/
structure EngineOp where
  /-- the crew's key on the core, or its number in the save area (R374) -/
  crew : Nat
  saved : Option Nat
  district : Nat
  slot : Nat
  /-- WAVEID of the issuer, for the status word -/
  wave : Nat
  instr : Instr
  active : W32
  /-- operand words a, b, c of the lowest active lane -/
  a : List W32
  b : List W32
  c : List W32
  resA : Option Reservation
  resB : Option Reservation
  due : Nat
  /-- the end of its array work, in clocks in which such work may start (R402) -/
  arrayDue : Nat
  flight : Nat
  /-- its operands have been read and its rows written; it has still to complete (R260) -/
  consumed : Bool
  /-- next row of an mmam or mld, and that a page holds it (R263) -/
  row : Nat
  held : Bool
  /-- B rows that an mmam has loaded (R263) -/
  buf : List Byte
  /-- parts still to be done: offset and length (R268, R270, R266) -/
  todo : List (Nat × Nat)
  /-- parts of the destination that a copy from memory has still to write (R268) -/
  unwritten : List (Nat × Nat)
  /-- global destination lines it owns from issue until it has written them (R69): context × 2^45 + line of the
  intermediate address -/
  owns : List Nat
  /-- partials not yet performed at the home slices (R266) -/
  outstanding : Nat
  result : Nat
  flags : Nat
  /-- pages (context, number) that a MAP or RETRY has released to it: needed until it has reached them (R385) -/
  needs : List (Nat × Nat)
  deriving DecidableEq, Repr

/-- A held access of a lane: at a page (R54), at the remote side (R51), behind the log (R64), behind an engine (R69),
or behind a resetting partition (R390). -/
inductive HoldWhy where
  | page
  | remote
  | log
  | engine
  | partition
  | route
  deriving DecidableEq, Repr

structure Held where
  req : MemReq
  why : HoldWhy
  /-- number of the order of arrival -/
  seq : Nat
  /-- the access has been released to its page by a MAP or RETRY (R385) -/
  needed : Bool
  deriving DecidableEq, Repr

/-- A ring of 64 entries with posted entries waiting for room (R361, R383). -/
structure Ring where
  slots : List (Nat × List Byte)
  head : Nat
  tail : Nat
  waiting : List (List Byte)
  deriving DecidableEq, Repr

/-- The launch record entry that a task answers (R44). -/
structure LaunchRef where
  launch : Nat
  task : Nat
  deriving DecidableEq, Repr

/-- A record waiting for its ring (R45, R388). -/
structure EventRec where
  bytes : List Byte
  core : Nat
  launch : Option LaunchRef
  kind : Nat
  crew : Nat
  flight : Nat
  deriving DecidableEq, Repr

/-- A core (R12, R26, R251 to R271, R384). -/
structure Core where
  /-- clock at the partition's last reset: CYCLES is the difference (R300) -/
  cyclesFrom : Nat
  /-- per quarter, the clock from which it may issue and the clock its FP64 pipe is free (R304) -/
  issued : List Nat
  fp64 : List Nat
  tileOwner : Option Nat
  mrowp : W32
  /-- cached tensor records by global place (R271) -/
  records : List (Nat × List Byte)
  ops : List EngineOp
  fenced : W16
  failing : W16
  log : List Held
  held : List Held
  notices : Ring
  /-- kind-3 notifications not yet acted on, oldest first: district and record (R44, R45) -/
  acts : List (Nat × EventRec)
  pageRing : Ring
  pageCmd : List (Nat × Byte)
  pgstat : Nat
  command : W64
  gated : Bool
  deriving DecidableEq, Repr

/-! ## Crews -/

/-- A task record (R27). -/
structure Task where
  type : Nat
  x : W32
  y : W32
  z : W32
  depth : Nat
  deriving DecidableEq, Repr

/-- A crew, resident or saved (R36, R372). A saved crew keeps its waves, tiles and scratchpad in `image`. -/
structure Crew where
  task : Task
  district : Nat
  gang : Option Nat
  rank : Nat
  gangSize : Nat
  scratchBase : Nat
  scratch : Nat
  obBase : Nat
  ob : Nat
  reservations : List (Nat × Reservation)
  /-- s4 and s5 as its waves were released with them: where its stacks begin, and the size of one (R324, R328) -/
  stackAt : Nat
  stack : Nat
  seqCtx : Option Nat
  /-- sequencer context that spawned its task (R114) -/
  binding : Option Nat
  launch : Option LaunchRef
  dispatcher : Nat
  since : Nat
  yieldAsked : Bool
  /-- chosen for thermal migration (R371) -/
  migrating : Bool
  ending : Bool
  /-- kind and status of the record it will post (R42) -/
  endKind : Nat
  endStatus : Nat
  deriving DecidableEq, Repr

/-- Why a crew was saved: eviction, migration off a hot cluster (R371), or a swap of its partition (R375). -/
inductive SaveKind where
  | evicted
  | migrated
  | shadow
  deriving DecidableEq, Repr

/-- A context in the save area (R36, R372); waves are keyed by WAVEID. -/
structure Saved where
  kind : SaveKind
  crew : Crew
  waves : List (Nat × Wave)
  /-- the slot that each of its waves left -/
  left : List (Nat × Nat)
  /-- scratchpad bytes at grant offsets, operand-buffer bytes likewise, tiles and MROWP where it held the tiles -/
  scratch : Memory
  ob : Memory
  tiles : Option Memory
  mrowp : W32
  /-- its loads of tiles, suspended (R272) -/
  ops : List EngineOp
  core : Nat
  /-- its sequencer context (R132) -/
  seq : Option Nat
  order : Nat
  deriving DecidableEq, Repr

/-! ## Districts -/

/-- A range register (R50, R333). -/
structure Range where
  base : W64
  limit : W64
  offset : W64
  node : Nat
  perm : BitVec 5
  valid : Bool
  deriving DecidableEq, Repr

/-- What the device knows of a queued task beside its record (R44, R114). -/
structure QueuedTask where
  launch : Option LaunchRef
  binding : Option Nat
  deriving DecidableEq, Repr

/-- A task queue of a district (R29, R352, R357, R369, R439). The records lie in its ring. -/
structure TaskQueue where
  ring : W64
  entries : Nat
  /-- of the records not yet placed, oldest first -/
  waiting : List QueuedTask
  appended : Nat
  placed : Nat
  age : Nat
  promoted : Bool
  reserved : List Nat
  part : Nat
  /-- key and number of the last host-queue entry applied here -/
  tag : Option (Nat × Nat)
  deriving DecidableEq, Repr

/-- The trace of a district (R406 to R408); ring 0 is no trace. -/
structure Trace where
  ring : W64
  entries : Nat
  period : Nat
  spans : List W32
  recordAll : Bool
  seq : Nat
  written : Nat
  dropped : Nat
  deriving DecidableEq, Repr

/-- A monitor of a district, with the place that command 1 fixed (R412, R413). -/
structure Monitor where
  node : Nat
  ctx : Nat
  ia : Nat
  operand : W32
  cond : Nat
  action : Nat
  /-- whether its condition held at the home slice before a first-level cache held the line dirty -/
  known : Bool
  deriving DecidableEq, Repr

/-- The causal experiment of a district (R416): `owed` is G. -/
structure Causal where
  span : W16
  delay : Nat
  owed : Nat
  visits : Nat
  deriving DecidableEq, Repr

/-- Debugging state of a district (R405 to R416): capture is 0 stopped, 1 running, 2 frozen. -/
structure Debug where
  trace : Trace
  capture : Nat
  monitors : List (Nat × Monitor)
  causal : Causal
  /-- progress counters by number (R288) -/
  counters : List (Nat × W64)
  /-- clock of command 1 (R415) -/
  since : Nat
  /-- per core, the clock of its next sample and the wave slot sampled last (R411) -/
  samples : List (Nat × (Nat × Nat))
  deriving DecidableEq, Repr

/-- Replay state of a district (R417 to R423): `goneSlots` and `goneCrews` are the (core, wave slot) and (core, CREWID)
pairs whose last holder of the district has ended. -/
structure Replay where
  diverged : Bool
  goneSlots : List (Nat × Nat)
  goneCrews : List (Nat × Nat)
  deriving DecidableEq, Repr

/-- A district (R33, R333 to R336, R341). -/
structure District where
  block : List Byte
  blockAt : W64
  blockPart : Nat
  parent : Option Nat
  depth : Nat
  tenant : Nat
  handle : W32
  ranges : List Range
  types : List (List Byte)
  routines : List (List Byte)
  ctx : Nat
  queues : List (Nat × TaskQueue)
  evPosted : Nat
  evConsumed : Nat
  faultsPosted : Nat
  evWaiting : List EventRec
  token : Option (Nat × Nat × Nat)
  tokenWaiters : List (Nat × Nat × Nat)
  dbg : Debug
  replay : Replay
  deriving DecidableEq, Repr

/-- A launch that is not complete (R44, R350, R351): `undone` and `unseen` give, per task, its crews still to post and
those whose record no supervisor core has acted on. -/
structure Launch where
  key : Nat
  n : Nat
  district : Nat
  queue : Nat
  addr : W64
  arg : W64
  appended : Nat
  total : Nat
  /-- the launch it depends on, with the first and last task -/
  dep : Option (Nat × Nat × Nat)
  undone : List (Nat × Nat)
  unseen : List (Nat × Nat)
  refused : Bool
  endedByDomain : Nat
  interrupt : Bool
  /-- its completion entry is on its way -/
  complete : Bool
  deriving DecidableEq, Repr

/-! ## The step sequencer -/

/-- One event of a context (R124); a mask of 0 is not armed. -/
structure SeqEvent where
  type : W32
  mask : BitVec 2
  stop : Bool
  gOld : W64
  deriving DecidableEq, Repr

/-- An EVARM that has not taken effect (R124, R285). -/
structure ArmReq where
  event : Nat
  type : W32
  mask : BitVec 2
  stop : Bool
  flight : Nat
  deriving DecidableEq, Repr

/-- Where the loop of R119 stands: what it goes on with once the evaluation in progress, if any, is complete. -/
inductive SeqAt where
  | idle
  /-- the start of a run, and g_old of event v at its init -/
  | start
  | initEvent (v : Nat)
  | boundary
  /-- the pending arming whose g has been evaluated at a boundary -/
  | armed
  | attempt
  /-- explicit stage i, part p -/
  | rhs (i p : Nat)
  | newtonF (i m : Nat)
  | newtonS (i m : Nat)
  | newtonX (i : Nat)
  | stage (i : Nat)
  | endEvent (v : Nat)
  | locate (v : Nat)
  | again (v : Nat)
  /-- an arming evaluated outside a run; the end of a run, with the words to return, and an arming evaluated there -/
  | outside
  | leave (word info f0 : Nat)
  | leaveArm (word info f0 : Nat)
  /-- a kind-3 context: the wait of R131, the armings pending at its boundary, and one evaluated there -/
  | frames
  | frameBoundary
  | frameArm
  deriving DecidableEq, Repr

/-- An evaluation in progress (R114, R115). -/
structure Eval where
  phase : Nat
  stage : Nat
  iter : Nat
  event : Nat
  time : W64
  type : Nat
  total : Nat
  appended : Nat
  ended : Nat
  failed : Bool
  /-- an access of a query has failed meanwhile: the run ends with cause 6 once the tasks have ended (R129) -/
  access : Bool
  deriving DecidableEq, Repr

/-- The end of the attempt under way (R123 to R126): its candidate end, the θ of the dense extension that gives its
state (none for y_new), the g values there, the search of R125 and the events found. -/
structure Attempt where
  tC : W64
  theta : Option W64
  gNew : List W64
  factor : W64
  lo : W64
  glo : W64
  hi : W64
  ghi : W64
  side : Int
  n : Nat
  c : W64
  found : List (Nat × (W64 × W64))
  deriving DecidableEq, Repr

/-- The counters and status of a run (R119, R123, R128, R302). -/
structure SeqRun where
  t : W64
  h : W64
  steps : Nat
  rejects : Nat
  newtons : Nat
  err : W64
  hA : W64
  tOld : W64
  bank : Nat
  retained : Bool
  initDone : Bool
  clipped : Bool
  runSteps : Nat
  cause : Nat
  tbCode : Nat
  nanEvent : Bool
  armFailed : Bool
  deriving DecidableEq, Repr

/-- The recurrent-mode state (R131). -/
structure SeqFrames where
  f0 : W64
  first : Bool
  deriving DecidableEq, Repr

/-- A step-sequencer context; `state` is that of R105 and `owner` the key of its crew. -/
structure SeqCtx where
  state : Nat
  owner : Nat
  tableau : List Byte
  run : List Byte
  regs : SeqRun
  /-- the values at the last step boundary or acceptance (R282) -/
  shown : SeqRun
  events : List SeqEvent
  pend : List ArmReq
  /-- flights of armings whose tags clear at the next acceptance (R285) -/
  accDone : List Nat
  eval : Option Eval
  at_ : SeqAt
  oneStep : Bool
  flight : Nat
  attempt : Attempt
  /-- event records posted (R127) -/
  posted : Nat
  frames : SeqFrames
  /-- the copy of its district that its run goes on with after a reload (R335) -/
  old : Option Nat
  deriving DecidableEq, Repr

/-! ## The host, the fabric and the package -/

/-- A belfry tag (R247, R364). -/
structure Belfry where
  district : Option Nat
  count : Nat
  arrived : Nat
  phase : W32
  /-- phase visible per die, and changes on their way: (die, clock, phase) -/
  visible : List W32
  coming : List (Nat × Nat × W32)
  /-- partition whose firmware allocated it (R363, R390) -/
  part : Nat
  deriving DecidableEq, Repr

/-- An entry that has completed and whose completion entry is still to be written (R351). -/
structure QDone where
  n : Nat
  op : Nat
  status : Nat
  ended : Nat
  handle : Nat
  interrupt : Bool
  deriving DecidableEq, Repr

/-- A host queue (R346 to R354). -/
structure HostQueue where
  tail : W64
  head : W64
  ctl : W32
  stopped : Bool
  overrun : Bool
  errSeen : Bool
  ringBase : W64
  ringCfg : W32
  cplBase : W64
  cplCfg : W32
  cplIndex : Nat
  cplPhase : Bool
  imported : Bool
  part : Nat
  /-- the launch that is still appending, and the numbers and task counts of earlier launch entries -/
  current : Option Nat
  past : List (Nat × Nat)
  done : List QDone
  /-- QHEAD and the next operation number when the queue was enabled or imported: entries below were complete then -/
  first : Nat
  since : Nat
  /-- completion entries written since it was enabled (R351) -/
  cplWritten : Nat
  deriving DecidableEq, Repr

/-- A host write through the aperture that is held at its home (R344); its number is that of an operation. -/
structure HostWrite where
  district : Nat
  va : Nat
  data : List Byte
  flight : Nat
  deriving DecidableEq, Repr

/-- A function of the host interface and its tenant (R340 to R345, R354, R355, R359, R405). -/
structure Function where
  enabled : Bool
  windows : List (Nat × (W64 × W64))
  apertures : List (Nat × List Byte)
  handles : List (Nat × Nat)
  /-- plug-ins by firmware core, and the key that signs them -/
  plugins : List (Nat × W32)
  pluginKey : List Byte
  /-- MSI-X messages sent, by vector -/
  messages : List (Nat × Nat)
  dirtyOn : Bool
  dirtyDone : Bool
  dirtyAddr : W64
  dbgHandle : Nat
  dbgAddr : W64
  dbgStat : Nat
  /-- bytes of BAR4, by offset: the MSI-X table and pending-bit array, whose layout PCIe gives (R342) -/
  bar4 : List (Nat × Byte)
  /-- the block of the tenant's root where function 0 keeps it, which a reload of the root reads (R335, R340) -/
  rootBlock : List Byte
  deriving DecidableEq, Repr

/-- The migration registers of function 0 (R354). -/
structure Migrate where
  fn : W32
  q : W32
  addr : W64
  stat : Nat
  deriving DecidableEq, Repr

/-- A partial sum on its way to a near-cache adder: its line, element type, values and, in an ordered series, its
sequence number and last flag (R97, R98). -/
structure Partial where
  place : Nat
  ctx : Nat
  format : Nat
  values : List Nat
  ordered : Bool
  number : Nat
  last : Bool
  op : Nat
  /-- the line that its operation owns until the partial has been performed (R69) -/
  key : Nat
  deriving DecidableEq, Repr

/-- An ordered series of a line (R98): the number it expects and the early partials held. -/
structure Series where
  expected : Nat
  early : List Partial
  deriving DecidableEq, Repr

/-- A page that an access did not find (R383). -/
structure Miss where
  ctx : Nat
  ia : Nat
  flags : Nat
  deriving DecidableEq, Repr

/-- What the latest placement pass of a partition left: its clock, the tasks appended by then to the partition's queues,
the wave and crew keys in use, and the saved crews whose wake condition held (R366). -/
structure PassSeen where
  at_ : Nat
  appended : Nat
  held : List Nat
  waking : List Nat
  deriving DecidableEq, Repr

/-- A partition (R375, R381, R390). Whether it is ready stands in the readiness word (R397). -/
structure Partition where
  tableAt : Nat
  carve : Nat
  restarting : Bool
  /-- placement has stopped for a swap (R375) -/
  swapping : Bool
  corrected : Nat
  uncorrected : Nat
  /-- pages reported and not named since, and pages whose record is still to be posted (R383) -/
  reported : List Miss
  toPost : List Miss
  /-- records that have reached the firmware under route 0 and are not served -/
  toServe : List Miss
  /-- near-cache ordered series by line, and partials that have arrived (R98) -/
  series : List (Nat × Series)
  partials : List Partial
  /-- the scheduler and queue-server image that it runs (R352, R394) -/
  firmware : List Byte
  pass : PassSeen
  deriving DecidableEq, Repr

/-- An Arcade port (R431, R435). -/
structure Port where
  up : Bool
  sent : Nat
  received : Nat
  retries : Nat
  peer : Nat
  downSince : Nat
  deriving DecidableEq, Repr

/-- A remote write that has not been acknowledged (R434). -/
structure RemoteWrite where
  node : Nat
  req : MemReq
  /-- clock from which it may be acknowledged -/
  due : Nat
  deriving DecidableEq, Repr

/-- Fabric state (R431 to R435). -/
structure Fabric where
  node : Nat
  nodeSet : Bool
  routes : List (Nat × W32)
  ports : List (Nat × Port)
  writes : List (Nat × RemoteWrite)
  deriving DecidableEq, Repr

/-- Power and temperature (R400 to R403). -/
structure Power where
  limit : Nat
  /-- power of the latest interval in mW, and the sum and number of the intervals since the latest snapshot (R430) -/
  last : Nat
  sum : Nat
  count : Nat
  /-- duties of the throttling stages 1 to 4, in sixteenths -/
  duty : List Nat
  nextStep : Nat
  temps : List (Nat × Int)
  clusterDuty : List (Nat × Nat)
  tripped : Bool
  migrateAt : Nat
  /-- clocks in which array work could start (R402) -/
  arrayClocks : Nat
  deriving DecidableEq, Repr

/-- Security and bring-up (R392 to R399). -/
structure Secure where
  measures : List (Nat × List Byte)
  minVersion : List (Nat × Nat)
  running : List (Nat × Nat)
  /-- the four root digests in the fuses, and their revocation bits -/
  roots : List (List Byte × Bool)
  /-- the path of the request that is being signed, and the clock until which it is (R396) -/
  signing : Option (SpdmPath × Nat)
  readiness : W64
  deriving DecidableEq, Repr

/-- The management port (R425 to R430). -/
structure Manage where
  eid : Byte
  dropped : Nat
  /-- PLDM image bytes being transferred, by component, and the images stored in the flash, by component (R427) -/
  staged : List (Nat × List Byte)
  stored : List (Nat × List Byte)
  telemetry : List Byte
  telemetrySeq : Nat
  nextTelemetry : Nat
  linkUp : Bool
  /-- thermal migrations, partition resets and package trips (R430) -/
  migrations : Nat
  resets : Nat
  trips : Nat
  deriving DecidableEq, Repr

/-- What a host, debug or management request was answered with, and the interrupts sent. -/
structure Replies where
  last : List Byte
  code : Nat
  deriving DecidableEq, Repr

/-- The instruction being issued: its convoy, its PC and the PC that follows it (R147, R149); or the instruction of
flight `again`, going on in lanes that waited. -/
structure Issue where
  core : Nat
  slot : Nat
  lanes : W32
  clause : W64
  index : Nat
  next : W64
  again : Option Nat
  deriving DecidableEq, Repr

/-- A leaf that a MAP made: its frames, context and pages (R53). -/
structure Frame where
  place : Nat
  size : Nat
  ctx : Nat
  ia : Nat
  writable : Bool
  deriving DecidableEq, Repr

/-- The memories. `bytes` is keyed by place (Machine/Ops.lean); an unlisted place reads 0. `ob` lists the
operand-buffer bytes that have been written. `code` is
what code-object loads left for fetch, by location (R49, R53). -/
structure Mem where
  bytes : Memory
  ob : Memory
  tiles : Memory
  code : Memory
  poison : List Nat
  /-- partitions whose carve-out lines a reset has poisoned, with the lines written whole since (R390) -/
  carveLost : List (Nat × List Nat)
  /-- first-level dirty lines by (core, line), and slice-dirty lines -/
  l1Dirty : List (Nat × Nat)
  sliceDirty : List Nat
  /-- last core that released into the line below .device (R57) -/
  released : List (Nat × Nat)
  /-- leaves that MAP has made and that stand, for the frames that two of them share (R53, R386) -/
  frames : List Frame
  /-- 64 KiB pages of larger leaves whose owner is not the one that bit 4 of the leaf gives: context, ia / 2^16 (R356) -/
  flipped : List (Nat × Nat)
  deriving DecidableEq, Repr

structure State where
  /-- package clocks since reset (0.8 ns each) -/
  clock : Nat
  /-- outside inputs still to come, each with the clock it arrives -/
  agenda : List (Nat × Instr)
  /-- the model's free latencies -/
  delays : List Nat
  /-- the model's counter of free values -/
  free : Nat
  /-- the model's counter of operation numbers -/
  serial : Nat
  cur : Issue
  mem : Mem
  /-- keyed by core * 128 + wave slot; slots from 64 are of waves evicted alone -/
  waves : List (Nat × Wave)
  /-- keyed by core * 16 + crew slot -/
  crews : List (Nat × Crew)
  saved : List (Nat × Saved)
  cores : List (Nat × Core)
  flights : List (Nat × Flight)
  districts : List (Nat × District)
  launches : List (Nat × Launch)
  seqs : List (Nat × SeqCtx)
  belfry : List (Nat × Belfry)
  functions : List (Nat × Function)
  /-- keyed by function * 64 + queue -/
  queues : List (Nat × HostQueue)
  /-- host writes held at their homes, oldest first -/
  hostWrites : List HostWrite
  partitions : List (Nat × Partition)
  migrate : Migrate
  fabric : Fabric
  power : Power
  secure : Secure
  manage : Manage
  reply : Replies
  deriving DecidableEq, Repr

/-- No convoy is being issued. -/
def noIssue : Issue := ⟨0, 0, 0, 0, 0, 0, none⟩

/-- The package right after reset, before boot: no crew is placed (R14, R392). -/
def State.reset : State :=
  { clock := 0, agenda := [], delays := [], free := 0, serial := 1, cur := noIssue,
    mem := ⟨[], [], [], [], [], [], [], [], [], [], []⟩,
    waves := [], crews := [], saved := [], cores := [], flights := [], districts := [], launches := [], seqs := [],
    belfry := [], functions := [], queues := [], hostWrites := [], partitions := [], migrate := ⟨0, 0, 0, 0⟩,
    fabric := ⟨0x1FFF, false, [], [], []⟩,
    power := ⟨48, 0, 0, 0, [16, 16, 16, 16], 12500, [], [], false, 95, 0⟩,
    secure := ⟨[], [], [], List.replicate 4 (List.replicate 64 0, false), none, 0⟩,
    manage := ⟨0, 0, [], [], [], 0, 1250000, true, 0, 0, 0⟩,
    reply := ⟨[], 0⟩ }

end Sys2Proof.Machine
end

