-- ==== Sys2Proof/Machine/Ops.lean ====
section
/-! DEFINITION. The named operations over the parts of State: places of memory, registers and their timed writes,
flights, notifications, transaction aborts, and taking a fault (parking, R293) with the returns from one. -/

namespace Sys2Proof.Machine

abbrev Out := Host.Outcome State Fault Refusal

/-! ## Parts of State -/

/-- Key of a wave: slots 0 to 63 are those of the core, and 64 + s is where a wave stays that was evicted alone from
slot s (R373). -/
def wkey (core slot : Nat) : Nat := core * 128 + slot
def wkCore (k : Nat) : Nat := k / 128
def wkSlot (k : Nat) : Nat := k % 128
def ckey (core slot : Nat) : Nat := core * 16 + slot

/-- A context as a released wave holds it (R215). -/
def xaInit : XaCtx := ⟨2, .eps, 0, 0, []⟩
def laneTxInit : LaneTx := ⟨0, 0, false, [], [], []⟩
/-- A lane slot as a released wave holds it (R215, R237, R297). -/
def laneInit : Lane :=
  ⟨0, ⟨0, 0, 0, 0x80, 0⟩, 0, ⟨0, 0, 0, 0, false⟩, false, laneTxInit, ⟨copies 4 xaInit, copies 4 xaInit, 0⟩⟩
def ringInit : Ring := ⟨[], 0, 0, []⟩
def coreInit : Core :=
  ⟨0, [0, 0, 0, 0], [0, 0, 0, 0], none, 0, [], [], 0, 0, [], [], ringInit, [], ringInit, [], 0, 0, false⟩
/-- A partition after reset: context table at 0, no carve-out. -/
def partInit : Partition := ⟨0, 0, false, false, 0, 0, [], [], [], [], [], [], ⟨0, 0, [], []⟩⟩
def pathInit : Path := ⟨0, 0, []⟩
def fibreInit : Fibre := ⟨0, 0x80, 0, 0, .ready, 0, 0, false, pathInit, false, []⟩

def coreOf (s : State) (c : Nat) : Core := (mget s.cores c).getD coreInit
def setCore (s : State) (c : Nat) (x : Core) : State := { s with cores := mset s.cores c x }
def modCore (s : State) (c : Nat) (f : Core → Core) : State := setCore s c (f (coreOf s c))
def partOf (s : State) (p : Nat) : Partition := (mget s.partitions p).getD partInit
/-- The partition's bit of the readiness word (R397). -/
def partReady (s : State) (p : Nat) : Bool := bit s.secure.readiness.toNat (8 + p)
def modPart (s : State) (p : Nat) (f : Partition → Partition) : State :=
  { s with partitions := mset s.partitions p (f (partOf s p)) }
def waveAt (s : State) (core slot : Nat) : Option Wave := mget s.waves (wkey core slot)
def setWave (s : State) (core slot : Nat) (w : Wave) : State := { s with waves := mset s.waves (wkey core slot) w }
def modWave (s : State) (core slot : Nat) (f : Wave → Wave) : State :=
  match waveAt s core slot with
  | some w => setWave s core slot (f w)
  | none => s
def crewAt (s : State) (k : Nat) : Option Crew := mget s.crews k
def modCrew (s : State) (k : Nat) (f : Crew → Crew) : State := { s with crews := mmod s.crews k f }
def districtAt (s : State) (d : Nat) : Option District := mget s.districts d
def modDistrict (s : State) (d : Nat) (f : District → District) : State := { s with districts := mmod s.districts d f }
def laneAt (w : Wave) (l : Nat) : Lane := (mget w.lanes l).getD laneInit
def setLane (w : Wave) (l : Nat) (x : Lane) : Wave := { w with lanes := mset w.lanes l x }
def modLane (w : Wave) (l : Nat) (f : Lane → Lane) : Wave := setLane w l (f (laneAt w l))
def modFibre (w : Wave) (l : Nat) (f : Fibre → Fibre) : Wave := { w with fibres := mmod w.fibres l f }
def modSched (w : Wave) (f : Sched → Sched) : Wave := { w with sched := f w.sched }

/-- R12: partition, die, cluster and quarter. -/
def partOfCore (c : Nat) : Nat := c / 96
def dieOfCore (c : Nat) : Nat := c / 192
def dieOfPart (p : Nat) : Nat := p / 2
def clusterOf (c : Nat) : Nat := c / 4
def quarterOf (slot : Nat) : Nat := slot % 4

/-- The next number for an operation in progress. -/
def takeSerial (s : State) : Nat × State := (s.serial, { s with serial := s.serial + 1 })

/-- The latency beyond the floor of the next variable-latency operation: a free value of the model. -/
def takeDelay (s : State) : Nat × State :=
  match s.delays with
  | [] => (0, s)
  | d :: ds => (d, { s with delays := ds })

/-- The next index for a free value. -/
def takeFree (s : State) : Nat × State := (s.free, { s with free := s.free + 1 })

/-! ## Places of memory: one number for each byte of every memory -/

/-- Byte `a` of partition p's HBM stack of 64 GiB (R51, R378). -/
def hbmPlace (p a : Nat) : Nat := p * 2 ^ 36 + a % 2 ^ 36
/-- Offset `o` of partition p's vault carve-out (R51). -/
def carvePlace (p o : Nat) : Nat := 2 ^ 40 + p * 2 ^ 32 + o
/-- Byte `o` of a core's scratchpad (R26). Offsets are relative to a grant (R47), so each of the 16 crew slots has
512 KiB of places for the grant it holds. -/
def scratchPlace (core o : Nat) : Nat := 2 ^ 41 + core * 2 ^ 23 + o
/-- Host memory by bus address (R51). -/
def hostPlace (a : Nat) : Nat := 2 ^ 48 + a
/-- Intermediate address `ia` at another node (R51, R432). -/
def remotePlace (node ia : Nat) : Nat := 2 ^ 65 + node * 2 ^ 52 + ia
/-- Byte of a core's operand buffer, in the operand-buffer memory (R259): 256 KiB of places for each crew slot. -/
def obPlace (core o : Nat) : Nat := core * 2 ^ 22 + o
/-- Byte `b` of row `r` of tile `z` of a core, in the tile memory (R255). -/
def tilePlace (core z r b : Nat) : Nat := ((core * 16 + z) * 64 + r) * 256 + b

/-- What an unlisted place of memory reads. -/
def Memory.blank : Byte := 0

/-- The canonical form: places rise strictly and none holds what an unlisted place reads. -/
def Memory.wf (m : Memory) : Bool := rising m && m.all fun e => e.2 != Memory.blank

def readByte (m : Memory) (a : Nat) : Byte := cget Memory.blank m a
def writeByte (m : Memory) (a : Nat) (b : Byte) : Memory := cset Memory.blank m a b
/-- Bytes `a ..` in address order. -/
def readBytes (m : Memory) (a : Nat) : Nat → List Byte
  | 0 => []
  | n + 1 => readByte m a :: readBytes m (a + 1) n
def writeBytes (m : Memory) (a : Nat) : List Byte → Memory
  | [] => m
  | b :: bs => writeBytes (writeByte m a b) (a + 1) bs
/-- Little-endian number of `n` bytes (R6). -/
def readNat (m : Memory) (a n : Nat) : Nat := ofBytes (readBytes m a n)
def writeNat (m : Memory) (a n x : Nat) : Memory := writeBytes m a (toBytes n x)
def modMem (s : State) (f : Memory → Memory) : State := { s with mem := { s.mem with bytes := f s.mem.bytes } }

/-! ## Registers -/

/-- Key of a vector register. -/
def vkey (lane g : Nat) : Nat := lane * 512 + g

/-- Reads a 32-bit entry of a register map. -/
def rget (m : List (Nat × W32)) (i : Nat) : W32 := (mget m i).getD 0
/-- Writes one. -/
def rset (m : List (Nat × W32)) (i : Nat) (x : W32) : List (Nat × W32) := mset m i x

/-- The predicate word with bit 7 set (R11, R153). -/
def predBit (p : BitVec 8) (i : Nat) : Bool := i == 7 || bit p.toNat i
def predSet (p : BitVec 8) (i : Nat) (b : Bool) : BitVec 8 :=
  if i ≥ 7 then p
  else if b then p ||| BitVec.ofNat 8 (2 ^ i) else p &&& ~~~ BitVec.ofNat 8 (2 ^ i)
/-- All of p0 to p6, from the low bits of a word. -/
def predWord (x : Nat) : BitVec 8 := BitVec.ofNat 8 (x % 128 + 128)

/-- A write reaches its register, mask or predicate. -/
def landWrite (w : Wave) (t : Target) (x : W32) : Wave :=
  match t with
  | .v l g => { w with regs := { w.regs with v := rset w.regs.v (vkey l g) x } }
  | .s i => { w with regs := { w.regs with s := rset w.regs.s i x } }
  | .k i => { w with regs := { w.regs with k := rset w.regs.k i x } }
  | .p l i => modFibre w l fun f => { f with preds := predSet f.preds i (x != 0) }

def landAll (w : Wave) : List (Target × W32) → Wave
  | [] => w
  | (t, x) :: r => landAll (landWrite w t x) r

/-- The value a target holds in the register file now. -/
def readTarget (w : Wave) : Target → W32
  | .v l g => rget w.regs.v (vkey l g)
  | .s i => rget w.regs.s i
  | .k i => rget w.regs.k i
  | .p l i => match mget w.fibres l with
    | some f => if predBit f.preds i then 1 else 0
    | none => if i == 7 then 1 else 0

/-- The targets of a destination field of `regs` registers in a lane (R13, R154). -/
def targetsOf (lane win : Nat) (e : BitVec 8) (regs : Nat) : List Target :=
  match regClass e with
  | .vec => (List.range regs).map fun i => .v lane (win + e.toNat + i)
  | .scalar => (List.range regs).map fun i => .s (e.toNat - 0xC0 + i)
  | .mask => [.k (e.toNat - 0xE0)]
  | _ => []

/-- The 32-bit words of a value, lowest first. -/
def wordsOf : Nat → Nat → List W32
  | 0, _ => []
  | n + 1, x => BitVec.ofNat 32 x :: wordsOf n (x / 2 ^ 32)
/-- The number that words hold, lowest first. -/
def ofWords : List W32 → Nat
  | [] => 0
  | x :: xs => x.toNat + 2 ^ 32 * ofWords xs

/-- A vector or scalar register, which the bypass serves (R306, R309). -/
def isRegTarget : Target → Bool
  | .v .. | .s _ => true
  | _ => false

/-- A register or predicate of one lane, whose writes take effect in issue order (R305). Those of a scalar or mask
take effect as they complete (R156). -/
def isLaneTarget : Target → Bool
  | .v .. | .p .. => true
  | _ => false

/-- R305: an earlier write of the lane's target that would land after `land` is overtaken; it lands then, below the
newer one. -/
def overtake (pend : List Pend) (t : Target) (land : Nat) : List Pend :=
  if isLaneTarget t then pend.map fun p => if p.target = t then { p with land := min p.land land } else p else pend

/-- Adds a fixed-latency result issued at `clock` with latency `lat` from clause slot `slot` (R306, R309). -/
def pendWrite (w : Wave) (clock lat slot : Nat) (t : Target) (x : W32) : Wave :=
  let land := clock + lat + (if isRegTarget t then 3 else 0)
  modSched w fun q => { q with
    pend := overtake q.pend t land ++ [⟨t, 0, x, land⟩],
    run := if isRegTarget t then q.run.map fun r => { r with bypass := r.bypass ++ [⟨slot, t, x, clock + lat⟩] } else q.run }

def pendAll (w : Wave) (clock lat slot : Nat) : List (Target × W32) → Wave
  | [] => w
  | (t, x) :: r => pendAll (pendWrite w clock lat slot t x) clock lat slot r

/-- A mask write that clears bits, two clocks after issue (R20, R21). -/
def pendClear (w : Wave) (clock : Nat) (k : Nat) (bits : W32) : Wave :=
  modSched w fun q => { q with pend := q.pend ++ [⟨.k k, ~~~ bits, 0, clock + 2⟩] }

/-- One pending write lands. -/
def landOne (w : Wave) (x : Pend) : Wave := landWrite w x.target ((readTarget w x.target &&& x.keep) ||| x.value)

/-- Lands the writes that `p` selects, in the order they were issued. -/
def landPend (w : Wave) (p : Pend → Bool) : Wave :=
  (w.sched.pend.filter p).foldl landOne (modSched w fun q => { q with pend := q.pend.filter fun x => !p x })

def isMaskTarget : Target → Bool
  | .k _ => true
  | _ => false

/-! ## Flights: variable-latency operations (R310) -/

def tagUp (w : Wave) (t : Nat) : Wave :=
  if t = 0 then w else modSched w fun q => { q with tags := q.tags.modify (t - 1) (· + 1) }
def tagDown (w : Wave) (t : Nat) : Wave :=
  if t = 0 then w else modSched w fun q => { q with tags := q.tags.modify (t - 1) (· - 1) }

/-- Starts a flight of the wave: its tag counts up (R310). -/
def startFlight (s : State) (f : Flight) : Nat × State :=
  let (n, s) := takeSerial s
  (n, modWave { s with flights := mset s.flights n f } f.core f.slot fun w => tagUp w f.tag)

def modFlight (s : State) (n : Nat) (f : Flight → Flight) : State := { s with flights := mmod s.flights n f }

/-- Completion: results land, flags join FPSTAT (R87), lanes wake, the tag counts down (R310). -/
def endFlight (s : State) (n : Nat) : State :=
  match mget s.flights n with
  | none => s
  | some f =>
    let s := { s with flights := mdel s.flights n }
    modWave s f.core f.slot fun w =>
      let w := landAll w f.writes
      let w := match f.mask with
        | some (k, which, bits) => landWrite w (.k k) ((rget w.regs.k k &&& ~~~ which) ||| (bits &&& which))
        | none => w
      let w := { w with regs := { w.regs with fpstat := w.regs.fpstat ||| f.flags } }
      let w := (lanesOf f.wake.toNat).foldl (fun w l => modFibre w l fun x => { x with wait := .ready }) w
      tagDown w f.tag

/-- Adds register writes to a flight; they land when it completes. -/
def flightWrites (s : State) (n : Nat) (ws : List (Target × W32)) (flags : Nat) : State :=
  modFlight s n fun f => { f with writes := f.writes ++ ws, flags := f.flags ||| BitVec.ofNat 32 flags }

/-- Lane `l`'s part of a flight has been performed; it may complete `floor` clocks from now at the earliest. -/
def flightLaneDone (s : State) (n l : Nat) : State :=
  modFlight s n fun f => { f with
    waits := BitVec.ofNat 32 (maskOf ((lanesOf f.waits.toNat).filter (· != l))), due := max f.due s.clock }

/-- A point of R314 on the fibre's path: its fixed-latency producers count as having reached the register file. -/
def fixedLanded (f : Fibre) : Fibre :=
  { f with path := { f.path with producers := f.path.producers.map fun p =>
      { p with landed := p.landed || p.lat.isSome } } }

/-- The clock at which every pending fixed-latency write of the wave has landed. -/
def allLanded (w : Wave) : Nat := w.sched.pend.foldl (fun m p => max m p.land) 0

/-- Lane `l` goes on at its saved next PC, its wait over, at a point of R314 (R20, R22): it does not issue before the
fixed-latency results of its wave have landed. -/
def releaseLane (w : Wave) (l : Nat) : Wave :=
  modFibre w l fun f => fixedLanded { f with pc := f.next, wait := .paced (allLanded w) }

/-- Lane `l` goes on at its saved next PC after a wait that is no point of R314, such as a translation hold. -/
def releaseHold (w : Wave) (l : Nat) : Wave := modFibre w l fun f => { f with pc := f.next, wait := .ready }

/-- A fibre is ready (R17): it waits on nothing, or only for a clock that has come. -/
def fibreReady (clock : Nat) (f : Fibre) : Bool :=
  match f.wait with
  | .ready => true
  | .paced u => u ≤ clock
  | _ => false

/-- The running convoy is over: the next instruction of the wave needs a selection (R17). -/
def endRun (w : Wave) : Wave := modSched w fun q => { q with run := q.run.map fun r => { r with lanes := 0 } }

/-! ## Rings and notifications (R361, R383) -/

def ringPost (r : Ring) (e : List Byte) : Ring := { r with waiting := r.waiting ++ [e] }
/-- Room in a ring of 64 entries. -/
def ringRoom (r : Ring) : Bool := (r.tail + 2 ^ 64 - r.head) % 2 ^ 64 < 64
/-- Moves the oldest waiting entry into the ring, before the tail advances. -/
def ringMove (r : Ring) : Ring :=
  match r.waiting with
  | [] => r
  | e :: es => if ringRoom r then
      { r with slots := mset r.slots (r.tail % 64) e, tail := (r.tail + 1) % 2 ^ 64, waiting := es } else r

/-- A notification entry (R361). -/
def noticeBytes (kind slot mask : Nat) (x : Nat) : List Byte :=
  toBytes 1 kind ++ toBytes 1 slot ++ toBytes 2 0 ++ toBytes 4 mask ++ toBytes 8 x

def notify (s : State) (core : Nat) (e : List Byte) : State :=
  modCore s core fun c => { c with notices := ringPost c.notices e }

/-! ## Taking a fault, and the returns from one -/

/-- A lane's fault: the fields of FAULTCAUSE (R295) and FAULTADDR (R293). -/
structure FaultRec where
  cause : Nat
  access : Nat := 0
  reason : Nat := 0
  info : Nat := 0
  addr : Nat := 0
  deriving DecidableEq, Repr

/-- FAULTCAUSE (R295). -/
def faultCause (f : FaultRec) : W32 :=
  BitVec.ofNat 32 (f.info * 2 ^ 16 + f.access * 2 ^ 12 + f.reason * 2 ^ 6 + f.cause)

def faultIllegal (reason : Nat) (addr : Nat := 0) : FaultRec := { cause := 1, reason := reason, addr := addr }
def faultWindow : FaultRec := { cause := 2 }

/-- Parks one lane at `pc` (R293, R360): the trap registers and the resume PC are written, the fibre waits. -/
def parkLane (w : Wave) (pc : W64) (l : Nat) (f : FaultRec) : Wave :=
  match mget w.fibres l with
  | none => w
  | some fb =>
    let w := modLane w l fun x => { x with
      trap := ⟨pc, BitVec.ofNat 64 f.addr, faultCause f, fb.preds.zeroExtend 32 ||| 0x80, BitVec.ofNat 32 fb.win⟩,
      svc := { x.svc with resume := pc } }
    modFibre w l fun x => { x with pc := pc, wait := .parked, fell := x.fell && x.pc == pc }

/-- Taking a fault: the lanes of one instruction park as one sub-wave, and the supervisor core of the core
receives one notification for it (R293). -/
def takeFaults (s : State) (core slot : Nat) (pc : W64) (fs : List (Nat × FaultRec)) : State :=
  match fs with
  | [] => s
  | _ =>
    let s := modWave s core slot fun w => fs.foldl (fun w e => parkLane w pc e.1 e.2) w
    notify s core (noticeBytes 1 slot (maskOf (fs.map Prod.fst)) pc.toNat)

/-- A fibre goes on at another PC than the one it stands at: another visit of a clause, for pd (R308). -/
def goTo (f : Fibre) (pc : W64) : Fibre :=
  if f.pc = pc then f
  else { f with pc := pc, fell := false, path := { f.path with visit := f.path.visit + 1 } }

/-- A parked fibre is resumed by the supervisor core (R294): with age 0, at a point of R314. -/
def resumeFibre (w : Wave) (pc : W64) (f : Fibre) : Fibre :=
  { fixedLanded (goTo f pc) with wait := .paced (allLanded w), age := 0 }

/-- The supervisor core's return at TRAPPC (R294, action 1 of R362). -/
def resumeTrap (w : Wave) (l : Nat) : Wave :=
  let t := (laneAt w l).trap
  modLane (modFibre w l fun f => { resumeFibre w t.pc f with preds := predWord t.pred.toNat, win := t.win.toNat })
    l fun x => { x with win := t.win.toNat }

/-- The supervisor core's return at the resume PC (R294, action 2 of R362). -/
def resumeAt (w : Wave) (l : Nat) : Wave := modFibre w l (resumeFibre w (laneAt w l).svc.resume)

/-- `sret` in one lane: PC, predicates and window from the trap registers (R292). -/
def trapReturn (w : Wave) (l : Nat) : Wave :=
  let t := (laneAt w l).trap
  modLane (modFibre w l fun f => { f with
      pc := t.pc, preds := predWord t.pred.toNat, win := t.win.toNat, fell := false })
    l fun x => { x with win := t.win.toNat }

/-! ## ABORTCAUSE and transaction aborts (R238, R239) -/

def abortWord (serial : Bool) (code count cause : Nat) : W32 :=
  BitVec.ofNat 32 ((if serial then 2 ^ 20 else 0) + code % 256 * 2 ^ 12 + min count 255 * 2 ^ 4 + cause % 16)
def abortCount (a : W32) : Nat := field a.toNat 4 8

/-- The district's serial token is free again; the lane waiting longest receives it at SERIAL_TOKEN_GRANT (R240). -/
def freeToken (s : State) (d : Nat) (core slot lane : Nat) : State :=
  modDistrict s d fun x =>
    { x with token := if x.token = some (core, slot, lane) then none else x.token,
             tokenWaiters := x.tokenWaiters.filter (· != (core, slot, lane)) }

def districtOfWave (s : State) (core slot : Nat) : Nat :=
  match waveAt s core slot with
  | some w => match crewAt s w.id.crew with
    | some c => c.district
    | none => 0
  | none => 0

/-- The abort of R239 in one lane. -/
def abortLane (s : State) (core slot lane cause code : Nat) : State :=
  let d := districtOfWave s core slot
  let s := freeToken s d core slot lane
  modWave s core slot fun w =>
    let x := laneAt w lane
    let w := setLane w lane { x with
      tx := { laneTxInit with target := x.tx.target },
      abort := abortWord false code (abortCount x.abort + 1) cause }
    modFibre w lane fun f => { f with pc := x.tx.target, wait := .ready, fell := false }

/-! ## Ending fibres (R16) -/

/-- The slot of lane `l` empties, keeping its registers and its window base (R13, R172); a transaction's writes are
discarded (R196). -/
def emptyLane (w : Wave) (l : Nat) : Wave :=
  match mget w.fibres l with
  | none => w
  | some f =>
    let w := modLane w l fun x =>
      { x with win := f.win, tx := laneTxInit, abort := x.abort &&& ~~~ 0x100000#32 }
    { w with fibres := mdel w.fibres l }

/-- The fibre of lane `l` ends; a serial token that it held is released (R240). -/
def quitLane (s : State) (core slot l : Nat) : State :=
  modWave (freeToken s (districtOfWave s core slot) core slot l) core slot fun w => emptyLane w l

end Sys2Proof.Machine
end

