-- ==== Sys2Proof/Machine/Operands.lean ====
section
/-! DEFINITION. Every operand form (R154 to R156, R172): what an issuing instruction sees of its wave, reading a
register field in a lane, the register-window check (R13), and committing per-lane results (R156, R305, R310). -/

namespace Sys2Proof.Machine

/-- What an instruction sees in the clock in which it issues (R305). -/
structure View where
  core : Nat
  slot : Nat
  wave : Wave
  crew : Crew
  /-- the convoy's lanes that hold fibres, and those in which the guard holds, lowest first (R153) -/
  convoy : List Nat
  act : List Nat
  clock : Nat
  cycles : Nat
  node : Nat
  clause : W64
  index : Nat
  next : W64
  /-- the clause slot that pd names (R308) -/
  producer : Option Nat
  /-- masks of the lanes in which the guard held when it issued, and of the slots that held fibres -/
  active : Nat
  live : Nat
  /-- core and crew key by which COREID and CREWID answer -/
  idCore : Nat
  idCrew : Nat
  /-- the flight of an instruction that goes on in lanes that waited, and the lane whose value a scalar or mask takes,
  once known (R156) -/
  again : Option Nat
  lead : Option Nat
  /-- the copy of the crew's district that its accesses use (R335) -/
  copy : Nat

def crewInit : Crew :=
  ⟨⟨0, 0, 0, 0, 0⟩, 0, none, 0, 1, 0, 0, 0, 0, [], 0, 0, none, none, none, 0, 0, false, false, false, 0, 0⟩
def waveInit : Wave :=
  ⟨⟨0, 0, false, none, 16⟩, ⟨[], [], [], 0, 0⟩, ⟨[], 0, false, false⟩, ⟨[0, 0, 0, 0, 0, 0], [], none, 0, 0, 0, 0, 0, 0, none⟩,
   [], [], [], 0, false, []⟩

/-- The guard of R153 in the fibre. -/
def guardHolds (h : Ctl) (f : Fibre) : Bool := predBit f.preds h.gpred.toNat != h.gneg

/-- CYCLES of a core (R300). DESIGN CHOICE (log 66): every core counts one package clock from its own start, so cores
that start together read equal values (R10 gives no machine-wide time base). -/
def cyclesOf (s : State) (core : Nat) : Nat := (s.clock - (coreOf s core).cyclesFrom) % 2 ^ 64

/-- The lane slots that hold fibres. -/
def fibreLanes (w : Wave) : List Nat := (List.range 32).filter fun l => (mget w.fibres l).isSome

/-- The wave as the instruction read it when it issued (R305): what a lane reads that waited since. -/
def Again.sees (g : Again) (w : Wave) : Wave :=
  { w with
    regs := { w.regs with v := g.v, s := g.s, k := g.k },
    fibres := g.preds.foldl (fun fs e => mmod fs e.1 fun f => { f with preds := e.2 }) w.fibres }

/-- The view of an instruction that issues. -/
def freshView (h : Ctl) (s : State) : View :=
  let i := s.cur
  let w := (waveAt s i.core i.slot).getD waveInit
  let convoy := (lanesOf i.lanes.toNat).filter fun l => (mget w.fibres l).isSome
  let act := convoy.filter fun l => match mget w.fibres l with
    | some f => guardHolds h f
    | none => false
  let crew := (crewAt s w.id.crew).getD crewInit
  { core := i.core, slot := i.slot, wave := w, crew := crew, convoy := convoy, act := act,
    clock := s.clock, cycles := cyclesOf s i.core, node := s.fabric.node, clause := i.clause, index := i.index,
    next := i.next,
    producer := if h.pd == 0 || i.index < h.pd.toNat then none else some (i.index - h.pd.toNat),
    active := maskOf act, live := maskOf (fibreLanes w), idCore := i.core, idCrew := w.id.crew, again := none,
    lead := none, copy := crew.district }

/-- The record of the instruction of flight `n` that lanes go on with. -/
def againOf (s : State) (n : Nat) : Option Again := (mget s.flights n).bind (·.again)

/-- The view of the instruction being issued, or of one that goes on in lanes that waited. -/
def viewOf (h : Ctl) (s : State) : View :=
  let v := freshView h s
  match s.cur.again with
  | none => v
  | some n => match againOf s n with
    | none => v
    | some g => { v with
        wave := g.sees v.wave, act := v.convoy, cycles := g.cycles, producer := none, active := g.active.toNat,
        live := g.live.toNat, idCore := g.core, idCrew := g.crew, again := some n, lead := g.lead, copy := g.copy }

/-- The PC of the instruction being issued (R147). -/
def View.pc (v : View) : W64 := v.clause + BitVec.ofNat 64 v.index

def View.fibre (v : View) (l : Nat) : Fibre :=
  (mget v.wave.fibres l).getD fibreInit
def View.lane (v : View) (l : Nat) : Lane := laneAt v.wave l
/-- The window base that names the registers of lane `l` (R172). -/
def View.win (v : View) (l : Nat) : Nat :=
  match mget v.wave.fibres l with
  | some f => f.win
  | none => (laneAt v.wave l).win

/-- A result of slot `p` that stands in its bypass window at `clock`, no later one of the target having reached the
register file (R307). -/
def bypassOf (clock p : Nat) (t : Target) : List Bypass → Option W32
  | [] => none
  | b :: r => match bypassOf clock p t r with
    | some x => some x
    | none =>
      if b.slot = p && b.target = t && b.ready ≤ clock && clock < b.ready + 3 &&
        r.all fun x => !(x.target = t && x.ready + 3 ≤ clock) then some b.value else none

/-- The value of a register as the instruction reads it: through the bypass where pd names its producer and the
result stands in its window, otherwise from the register file (R305 to R308, R312). -/
def View.reg (v : View) (t : Target) : W32 :=
  match v.producer, v.wave.sched.run with
  | some p, some r => (bypassOf v.clock p t r.bypass).getD (readTarget v.wave t)
  | _, _ => readTarget v.wave t

/-- The special operands of R155 in lane `l`. -/
def View.special (v : View) (l n : Nat) : Nat :=
  match n with
  | 0xEC => l
  | 0xED => v.wave.id.index
  | 0xEE => v.idCrew % 16
  | 0xEF => v.crew.rank
  | 0xF0 => v.idCore
  | 0xF1 => clusterOf v.idCore
  | 0xF2 => v.crew.task.x.toNat
  | 0xF3 => v.crew.task.y.toNat
  | 0xF4 => v.crew.task.z.toNat
  | 0xF5 => v.crew.task.depth
  | 0xF6 => v.active
  | 0xF7 => v.live
  | 0xF8 => 2 ^ l - 1
  | 0xF9 => (v.fibre l).preds.toNat % 128 + 128
  | 0xFA => (v.fibre l).win
  | 0xFB => v.node
  | 0xFC => v.cycles % 2 ^ 32
  | 0xFD => partOfCore v.idCore
  | _ => 0

/-- The operand that field `e` names in lane `l`, of `regs` 32-bit registers (R154, R156). -/
def View.opd (v : View) (l : Nat) (e : BitVec 8) (regs : Nat) : Nat :=
  match regClass e with
  | .special => v.special l e.toNat % 2 ^ 32
  | _ => ofWords ((targetsOf l (v.win l) e regs).map v.reg)

/-- A register of lane `m` read for another lane (R172): 0 beyond the allotment. -/
def View.other (v : View) (m : Nat) (e : BitVec 8) (regs : Nat) : Nat :=
  match regClass e with
  | .vec => if v.win m + e.toNat + regs > v.wave.id.allot then 0 else v.opd m e regs
  | _ => v.opd m e regs

/-- A predicate of the fibre in lane `l`. -/
def View.pred (v : View) (l i : Nat) : Bool := predBit (v.fibre l).preds i

/-- A predicate as `plop` names it: bits 2:0 the predicate, bit 3 negates (R182). -/
def View.predField (v : View) (l : Nat) (e : Nat) : Bool := v.pred l (e % 8) != bit e 3

/-- R13: a vector operand of `regs` registers lies in the allotment. -/
def vecOk (allot win : Nat) (e : BitVec 8) (regs : Nat) : Bool :=
  regClass e != .vec || win + e.toNat + regs ≤ allot

/-- R13 for every register field of the instruction; destinations are named under `dwin` (R193). -/
def windowOk (sh : Shape) (allot win dwin : Nat) : Bool :=
  sh.opds.all fun o => match o.use with
    | .unused | .raw => true
    | .src r _ => vecOk allot win o.enc r
    | .dst r _ => vecOk allot dwin o.enc r
    | .upd r _ => vecOk allot dwin o.enc r

/-! ## Per-lane results -/

/-- A register write of a lane: its field, its registers, its value. -/
structure RegWrite where
  enc : BitVec 8
  regs : Nat
  value : Nat
  deriving DecidableEq, Repr

/-- What one lane of an instruction does. -/
structure LaneOut where
  wr : List RegWrite := []
  pr : List (Nat × Bool) := []
  flags : Nat := 0
  xa : Option (List XaCtx) := none
  goto : Option W64 := none
  win : Option Nat := none
  deriving DecidableEq, Repr

/-- A lane's effect or its fault. -/
inductive LaneRes where
  | done (o : LaneOut)
  | trap (f : FaultRec)
  deriving DecidableEq, Repr

/-- One register result. -/
def outReg (e : BitVec 8) (regs value : Nat) : LaneRes := .done { wr := [⟨e, regs, value⟩] }

/-- The window check before the lane's own effect (R13, R296). -/
def laneRes (sh : Shape) (v : View) (f : View → Nat → LaneRes) (l : Nat) : LaneRes :=
  if windowOk sh v.wave.id.allot (v.win l) (v.win l) then f v l else .trap faultWindow

/-- The lanes that complete, with what they do. -/
def doneOf : List (Nat × LaneRes) → List (Nat × LaneOut)
  | [] => []
  | (l, .done o) :: r => (l, o) :: doneOf r
  | (_, .trap _) :: r => doneOf r

/-- The lanes that fault. -/
def trapsOf : List (Nat × LaneRes) → List (Nat × FaultRec)
  | [] => []
  | (_, .done _) :: r => trapsOf r
  | (l, .trap f) :: r => (l, f) :: trapsOf r

/-- The writes of one lane; a scalar or mask takes the lowest completing lane only (R156). -/
def laneWrites (v : View) (first : Bool) (l : Nat) (o : LaneOut) : List (Target × W32) :=
  (o.wr.flatMap fun w =>
    if regClass w.enc == .vec || first then
      (targetsOf l (o.win.getD (v.win l)) w.enc w.regs).zip (wordsOf w.regs w.value)
    else []) ++
  (o.pr.filter (·.1 < 7)).map fun p => (Target.p l p.1, if p.2 then (1 : W32) else 0)

/-- The writes of all completing lanes. -/
def allWrites (v : View) : Bool → List (Nat × LaneOut) → List (Target × W32)
  | _, [] => []
  | first, (l, o) :: r => laneWrites v first l o ++ allWrites v false r

def allFlags (os : List (Nat × LaneOut)) : W32 := BitVec.ofNat 32 (os.foldl (fun m e => m ||| e.2.flags) 0)

/-- The effects of a lane beside its register writes: contexts, window and PC. -/
def laneApply (clock : Nat) (w : Wave) (l : Nat) (o : LaneOut) : Wave :=
  let w := match o.xa with
    | some x => modLane w l fun y => { y with xa := ⟨x, y.xa.now, clock⟩ }
    | none => w
  let w := match o.win with
    | some b => modLane (modFibre w l fun f => { f with win := b }) l fun y => { y with win := b }
    | none => w
  match o.goto with
  | some pc => modFibre w l fun f => { f with pc := pc, fell := false }
  | none => w

def applyAll (clock : Nat) (w : Wave) : List (Nat × LaneOut) → Wave
  | [] => w
  | (l, o) :: r => applyAll clock (laneApply clock w l o) r

/-- Commits a fixed-latency instruction of latency `lat`: results on the bypass and on their way to the register
file, flags into FPSTAT (R87), then the faulting lanes park (R293). -/
def commitFixed (lat : Nat) (v : View) (rs : List (Nat × LaneRes)) (s : State) : State :=
  let os := doneOf rs
  let s := modWave s v.core v.slot fun w =>
    let w := pendAll w v.clock lat v.index (allWrites v true os)
    let w := applyAll v.clock w os
    { w with regs := { w.regs with fpstat := w.regs.fpstat ||| allFlags os } }
  takeFaults s v.core v.slot v.pc (trapsOf rs)

/-- A flight of the view's wave that has nothing to do yet. -/
def flightInit (h : Ctl) (v : View) (due : Nat) : Flight :=
  { core := v.core, slot := v.slot, tag := h.alloc.toNat, waits := 0, due := due, writes := [], flags := 0, mask := none,
    wake := 0, data := [], again := none }

/-- The flight of an instruction: due `floor` clocks after issue and a free delay. One that goes on in lanes that
waited keeps its flight. -/
def newFlight (h : Ctl) (v : View) (floor : Nat) (s : State) : Nat × State :=
  match v.again with
  | some n => (n, modFlight s n fun f => { f with due := max f.due (s.clock + floor) })
  | none =>
    let (d, s) := takeDelay s
    startFlight s (flightInit h v (s.clock + floor + d))

/-- The flight of an instruction that completes with the last release of its lanes (R197). -/
def releaseFlight (h : Ctl) (v : View) (s : State) : Nat × State :=
  match v.again with
  | some n => (n, s)
  | none => startFlight s (flightInit h v s.clock)

/-- Commits a variable-latency instruction whose results arrive when it completes (R199, R310). -/
def commitVar (h : Ctl) (floor : Nat) (v : View) (rs : List (Nat × LaneRes)) (s : State) : State :=
  let os := doneOf rs
  let (n, s) := newFlight h v floor s
  let s := flightWrites s n (allWrites v true os) (allFlags os).toNat
  let s := modWave s v.core v.slot fun w => applyAll v.clock w os
  takeFaults s v.core v.slot v.pc (trapsOf rs)

/-- The results of an instruction in its active lanes. -/
def resultsOf (sh : Shape) (v : View) (f : View → Nat → LaneRes) : List (Nat × LaneRes) :=
  v.act.map fun l => (l, laneRes sh v f l)

/-- An instruction that acts lane by lane: `f` gives what an active lane does (R153, R165, R166, R169). -/
def perLane (i : Instr) (f : View → Nat → LaneRes) (s : State) : State :=
  match shape i with
  | none => s
  | some sh =>
    let v := viewOf sh.ctl s
    match sh.lat with
    | some lat => commitFixed lat v (resultsOf sh v f) s
    | none => commitVar sh.ctl 1 v (resultsOf sh v f) s

/-- An instruction that acts once: `f` is its common result in every active lane, from the lowest one's operands
(R274); a fault is raised in every active lane. -/
def onceRes (sh : Shape) (v : View) (r : Nat → LaneRes) : List (Nat × LaneRes) :=
  match v.act with
  | [] => []
  | l0 :: _ =>
    let x := if v.act.all fun l => windowOk sh v.wave.id.allot (v.win l) (v.win l) then r l0 else .trap faultWindow
    v.act.map fun l => (l, x)

/-! ## Transactions and not-permitted instructions (R238, R296 step 2) -/

/-- Lane `l` is inside a transaction. -/
def View.inTx (v : View) (l : Nat) : Bool := (v.lane l).tx.depth != 0
def View.serial (v : View) (l : Nat) : Bool := (v.lane l).tx.serial

/-- The lanes that the instruction aborts with cause 7 or 8 before anything else is checked. A lane holding the
token takes cause 7 but not cause 8 (R240, R296). -/
def View.txAborts (v : View) (cause : Nat) : List Nat :=
  v.act.filter fun l => v.inTx l && (cause == 7 || !v.serial l)

def abortLanes (s : State) (core slot cause : Nat) : List Nat → State
  | [] => s
  | l :: ls => abortLanes (abortLane s core slot l cause 0) core slot cause ls

/-- Takes those aborts and gives the view of the remaining active lanes. -/
def refuseTx (cause : Nat) (v : View) (s : State) : View × State :=
  let out := v.txAborts cause
  ({ v with act := v.act.filter fun l => !out.contains l }, abortLanes s v.core v.slot cause out)

/-! ## Waiting lanes -/

/-- Puts lanes into a wait with a flight; they go on at the PC after the instruction (R37: the PC stays at it). A
convoy of which some lanes begin to wait is over, and the wave's next instruction needs a selection. DESIGN CHOICE (log 61). -/
def waitLanes (s : State) (v : View) (n : Nat) (k : Nat → Wait) (ls : List Nat) : State :=
  let s := modFlight s n fun f => { f with waits := f.waits ||| BitVec.ofNat 32 (maskOf ls) }
  modWave s v.core v.slot fun w => ls.foldl (fun w l => modFibre w l fun f =>
    { f with wait := k l, pc := v.pc, next := v.next, flight := n }) (if ls = [] then w else endRun w)

/-- What instruction `i` read when it issued, for lanes that act later; lane `lead` gives the value of a scalar. -/
def View.captured (v : View) (i : Instr) (lead : Option Nat) : Again :=
  let file : Regs := match v.producer, v.wave.sched.run with
    | some p, some r => (r.bypass.foldl (fun w b => match bypassOf v.clock p b.target r.bypass with
        | some x => if isRegTarget b.target then landWrite w b.target x else w
        | none => w) v.wave).regs
    | _, _ => v.wave.regs
  { instr := i, clause := v.clause, index := v.index, next := v.next, v := file.v, s := file.s, k := file.k,
    preds := v.wave.fibres.map fun e => (e.1, e.2.preds), active := BitVec.ofNat 32 v.active,
    live := BitVec.ofNat 32 v.live, cycles := v.cycles, core := v.idCore, crew := v.idCrew, lead := lead,
    copy := v.copy, page := none }

/-- Lanes in which the instruction cannot act yet: they wait with its flight and go on with what it read at issue. -/
def deferLanes (i : Instr) (v : View) (n : Nat) (lead : Option Nat) (why : Wait) (ls : List Nat) (s : State) : State :=
  if ls = [] then s
  else waitLanes (modFlight s n fun f => { f with again := some (v.captured i lead) }) v n (fun _ => why) ls

/-- The lanes that wait with flight `n` wait for this page. -/
def waitsPage (n : Nat) (page : Option (Nat × Nat)) (s : State) : State :=
  if page = none then s else modFlight s n fun f => { f with again := f.again.map fun g => { g with page := page } }

/-- What a deferred fibre waits for is over; a replay-log stall is a point of R314. -/
def goAgain (f : Fibre) : Fibre := { (if f.wait = .replay then fixedLanded f else f) with wait := .again }

/-- The fibres of a wave that `p` selects go on with their instruction in this clock. -/
def wakeWave (p : Nat → Fibre → Bool) (w : Wave) : Wave :=
  { w with fibres := w.fibres.map fun x => (x.1, if p x.1 x.2 then goAgain x.2 else x.2) }

/-- Lanes whose wait `p` selects go on with their instruction in this clock (R64, R69, R255, R421). -/
def wakeDeferred (p : Wait → Bool) (s : State) : State :=
  { s with waves := s.waves.map fun e => (e.1, wakeWave (fun _ f => p f.wait) e.2) }

/-- Waits that end when something in memory has moved on. -/
def isDeferred : Wait → Bool
  | .hold 0 | .replay => true
  | _ => false

/-- The first lanes that go on with their instruction: the wave, the flight and the lanes. -/
def againLanes : List (Nat × Wave) → Option (Nat × Nat × List Nat)
  | [] => none
  | (k, w) :: r => match w.fibres.find? fun e => e.2.wait = .again with
    | some e => some (k, e.2.flight, (w.fibres.filter fun x => x.2.wait = .again && x.2.flight = e.2.flight).map Prod.fst)
    | none => againLanes r

/-- The state in which their instruction is performed in them: they stand at the next PC, and its flight no longer
waits for them. -/
def startAgain (s : State) : Option (Instr × State) :=
  match againLanes (s.waves.filter fun e => wkSlot e.1 < 64) with
  | none => none
  | some (k, n, ls) =>
    match againOf s n with
    | none => none
    | some g =>
      let c := wkCore k
      let t := wkSlot k
      let s := modFlight s n fun f => { f with
        waits := BitVec.ofNat 32 (maskOf ((lanesOf f.waits.toNat).filter fun l => !ls.contains l)) }
      let s := modWave s c t fun w => ls.foldl (fun w l => modFibre w l fun f =>
        { f with wait := .paced (allLanded w), pc := f.next }) w
      some (g.instr, { s with cur := ⟨c, t, BitVec.ofNat 32 (maskOf ls), g.clause, g.index, g.next, some n⟩ })

end Sys2Proof.Machine
end

