-- ==== Sys2Proof/Machine/Xacc.lean ====
section
/-! DEFINITION. The extrapolating accumulator (R99 to R103, R215 to R221) and QN4 quantisation (R94, R211 to R214). -/

namespace Sys2Proof.Machine

def nan64 : Nat := canonNaN .f64
def dAdd (a b : Nat) : Nat := (fpAdd .f64 .rne false a b).1
def dSub (a b : Nat) : Nat := (fpSub .f64 .rne false a b).1
def dMul (a b : Nat) : Nat := (fpMul .f64 .rne false a b).1
def dDiv (a b : Nat) : Nat := (fpDiv .f64 .rne false a b).1
def dOne : Nat := 0x3FF0000000000000
/-- a ≤ b and a < b in FP64, false with a NaN (R103). -/
def dLe (a b : Nat) : Bool := (fpCond .f64 3 a b).1
def dLt (a b : Nat) : Bool := (fpCond .f64 2 a b).1
def dFinite (a : Nat) : Bool := match fpDecode .f64 a with | .fin .. => true | _ => false

/-- The next column of the epsilon table: from columns k−1 (shifted by one) and k, until a divisor is at or below θ. -/
def epsCol (thr : Nat) : List Nat → List Nat → Option (List Nat)
  | p :: ps, x :: y :: r =>
    let d := dSub y x
    if dLe (fpAbs .f64 d) thr then none
    else match epsCol thr ps (y :: r) with
      | some c => some (dAdd p (dDiv dOne d) :: c)
      | none => none
  | _, _ => some []

/-- Builds columns until a divisor falls back; `best` is the last entry of the highest even column (R100). -/
def epsLoop (thr : Nat) : Nat → Bool → List Nat → List Nat → Nat → Nat × Bool
  | 0, _, _, _, best => (best, false)
  | fuel + 1, odd, prev, cur, best =>
    if cur.length < 2 then (best, false)
    else match epsCol thr (prev.drop 1) cur with
      | none => (best, true)
      | some next =>
        -- column k+1 is even when column k is odd
        epsLoop thr fuel (!odd) cur next (if odd then next.getLast?.getD best else best)

/-- The epsilon estimate of a non-empty history with its fallback (R100). -/
def xaEps (thr : Nat) (h : List Nat) : Nat × Bool :=
  epsLoop thr 8 false (copies (h.length + 1) 0) h (h.getLast?.getD nan64)

/-- Σ over consecutive differences for the least-squares mix (R101). -/
def lsqSums : List Nat → Nat × Nat → Nat × Nat
  | x :: y :: z :: r, (num, den) =>
    let a := dSub z y
    let b := dSub y x
    lsqSums (y :: z :: r) (dAdd num (dMul a b), dAdd den (dMul b b))
  | _, s => s

/-- R101. -/
def xaLsq (thr : Nat) (h : List Nat) : Nat × Bool :=
  let last := h.getLast?.getD nan64
  if h.length < 3 then (last, false)
  else
    let (num, den) := lsqSums h (0, 0)
    if dLe den (dMul thr thr) then (last, true)
    else
      let rho := dDiv num den
      let g := dSub dOne rho
      if dLe (fpAbs .f64 g) thr then (last, true)
      else
        let dl := dSub last (h.getD (h.length - 2) 0)
        (dAdd last (dDiv (dMul dl rho) g), false)

/-- A NaN estimate is the canonical quiet NaN (R103). -/
def canon64 (x : Nat) : Nat := if isNaN (fpDecode .f64 x) then nan64 else x

def xaEstimate (c : XaCtx) (h : List Nat) : Nat × Bool :=
  if h.length = 0 then (nan64, false)
  else
    let r := match c.method with
      | .eps => xaEps c.thr.toNat h
      | .lsq => xaLsq c.thr.toNat h
    (canon64 r.1, r.2)

/-- E, converged, stagnated, divisor fallback (R102). -/
def xaLimit (c : XaCtx) : Nat × Bool × Bool × Bool :=
  let h := c.hist.map BitVec.toNat
  let m := h.length
  let (e, fb) := xaEstimate c h
  let (e', _) := xaEstimate c (h.take (m - 1))
  let conv := m ≥ 2 && dFinite e && dFinite e' &&
    dLe (fpAbs .f64 (dSub e e')) (dMul c.tol.toNat (fpAbs .f64 e))
  let at_ := fun i => h.getD i 0
  let stag := m ≥ 3 && dLe (fpAbs .f64 (dSub (at_ (m - 2)) (at_ (m - 3)))) (fpAbs .f64 (dSub (at_ (m - 1)) (at_ (m - 2))))
  (e, conv, stag, fb)

/-- θ is stored as its magnitude, a NaN as +0 (R99). -/
def xaThreshold (x : Nat) : W64 :=
  if isNaN (fpDecode .f64 x) then 0 else BitVec.ofNat 64 (fpAbs .f64 x)

/-- XAPUSH: converts exactly, discards the oldest when full (R99, R217). -/
def xaPush (c : XaCtx) (x : Nat) : XaCtx :=
  let h := if c.hist.length ≥ c.d then c.hist.drop (c.hist.length + 1 - c.d) else c.hist
  { c with hist := h ++ [BitVec.ofNat 64 (canon64 x)] }

/-- The contexts of a lane as an `xalim` or `xastat` issued at `clock` sees them (R306). -/
def xaSeen (clock : Nat) (x : LaneXa) : List XaCtx := if clock < x.wrote + 2 then x.before else x.now

/-! ## QN4 -/

/-- The value of an FV as an exact integer multiple of 2^t. -/
def fvAlign (t : Int) (x : FV) : Int :=
  match x with
  | .fin n m e => alignTo t n m e
  | _ => 0
def fvExp (x : FV) : Int :=
  match x with
  | .fin _ _ e => e
  | _ => 0

/-- The exact product of two finite values. -/
def fvMul (a b : FV) : FV := (mulFV a b).1

/-- The value of an element with code q in a block of scale code c under super-scale S: level(q) × scale, and +0 where that
is 0 (R92). -/
def qn4Value (s c q : Nat) : FV :=
  match fvMul (qn4Level q) (qn4Scale s c) with
  | .fin n m e => if m = 0 then .fin false 0 0 else .fin n m e
  | x => x

/-- |x − level(q) × scale| compared for two codes: is `q` strictly better than `b`, ties to the even code (R94). -/
def qn4Better (x scale : FV) (q b : Nat) : Bool :=
  let vq := fvMul (qn4Level q) scale
  let vb := fvMul (qn4Level b) scale
  let t := min (fvExp x) (min (fvExp vq) (fvExp vb))
  let dq := (fvAlign t x - fvAlign t vq).natAbs
  let db := (fvAlign t x - fvAlign t vb).natAbs
  dq < db || (dq = db && q % 2 = 0 && b % 2 = 1)

/-- The code that encodes x in a block of nonzero scale (R94). -/
def qn4Encode (x scale : FV) : Nat :=
  (List.range 16).foldl (fun b q => if qn4Better x scale q b then q else b) 0

/-- mag(x) of R212 as a pattern: 0 for a NaN, the largest finite value for an infinity. -/
def qMag (x : Nat) : Nat :=
  match fpDecode .f32 x with
  | .nan _ => 0
  | .inf _ => 0x7F7FFFFF
  | _ => x % 2 ^ 31
/-- The value that R212 encodes: a NaN reads as +0, ±∞ as ±max. -/
def qVal (x : Nat) : FV :=
  match fpDecode .f32 x with
  | .nan _ => .fin false 0 0
  | .inf n => fpDecode .f32 (maxBits .f32 n)
  | v => v

def maxOf (l : List Nat) : Nat := l.foldl max 0

/-- R212's block starts: walks e = 8 .. n−8; `start` is the current block's first element. -/
def qStarts (xs : List Nat) (n : Nat) : Nat → Nat → Nat → List Nat
  | 0, _, _ => []
  | fuel + 1, e, start =>
    if e + 8 > n then []
    else
      let mag := fun a b => maxOf (((xs.drop a).take (b - a)).map qMag)
      let mb := mag start e
      let w := mag e (e + 8)
      let gt4 := fun a b => valLt (fvMul (.fin false 4 0) (fpDecode .f32 b)) (fpDecode .f32 a)
      if e - start ≥ 8 && (gt4 w mb || gt4 mb w) then e :: qStarts xs n fuel (e + 1) e
      else qStarts xs n fuel (e + 1) start

/-- The largest code c ≤ top with scale(c) ≥ M, 0 if there is none (R212). -/
def qCodeFrom (s m : Nat) : Nat → Nat
  | 0 => 0
  | c + 1 => if valLt (qn4Scale s (c + 1)) (fpDecode .f32 m) then qCodeFrom s m c else c + 1

def qBlockCode (s : Nat) (m : Nat) : Nat := if m = 0 then 0xFF else qCodeFrom s m 0xFE

/-- A block of a segment: first element, end, scale code. -/
structure QBlock where
  lo : Nat
  hi : Nat
  code : Nat
  deriving DecidableEq, Repr

def qBlocks (s n : Nat) (xs : List Nat) : List Nat → List QBlock
  | [] => []
  | [b] => [⟨b, n, qBlockCode s (maxOf (((xs.drop b).take (n - b)).map qMag))⟩]
  | b :: c :: r => ⟨b, c, qBlockCode s (maxOf (((xs.drop b).take (c - b)).map qMag))⟩ :: qBlocks s n xs (c :: r)

def qBlockOf (bs : List QBlock) (i : Nat) : QBlock := (bs.find? fun b => b.lo ≤ i && i < b.hi).getD ⟨0, 0, 0xFF⟩

/-- The code of element i and whether level × scale differs from it (R212, R213). -/
def qElem (s : Nat) (bs : List QBlock) (xs : List Nat) (i : Nat) : Nat × Bool :=
  let x := xs.getD i 0
  let sc := qn4Scale s (qBlockOf bs i).code
  let zero : Bool := match sc with | .fin _ m _ => m == 0 | _ => false
  let q := if zero then 8 else qn4Encode (qVal x) sc
  (q, match fpDecode .f32 x with | .fin .. => !numEq (fvMul (qn4Level q) sc) (fpDecode .f32 x) | _ => false)

/-- The word of lane L (R212). -/
def qWord (s n : Nat) (bs : List QBlock) (xs : List Nat) (l : Nat) : Nat :=
  if 4 * l ≥ n then 0
  else
    let code := fun j => if 4 * l + j < n then (qElem s bs xs (4 * l + j)).1 else 0
    let first := fun j => if bs.any fun b => b.lo = 4 * l + j then 1 else 0
    code 0 + 16 * code 1 + 256 * code 2 + 4096 * code 3 +
      2 ^ 16 * (first 0 + 2 * first 1 + 4 * first 2 + 8 * first 3) +
      2 ^ 24 * (qBlockOf bs (min (4 * l + 3) (n - 1))).code

/-- The flags of R213. -/
def qFlags (s n : Nat) (bs : List QBlock) (xs : List Nat) : Nat :=
  let ys := xs.take n
  (if (List.range n).any fun i => (qElem s bs xs i).2 then flagNX else 0) |||
    (if ys.any fun x => match fpDecode .f32 x with | .fin .. => false | _ => true then flagNV else 0)

/-- dqn4's value of one code (R214). -/
def dqnValue (f : Fmt) (r : Rnd) (word c s j : Nat) : Nat × Nat :=
  roundEx f r false (fvEx (qn4Value s c (field word (4 * j) 4)))

end Sys2Proof.Machine
end

