-- ==== Sys2Proof/Machine/Matrix.lean ====
section
/-! DEFINITION. The arithmetic of the matrix unit and of the near-cache adders (R90 to R97, R258, R262), on bytes
and patterns alone. -/

namespace Sys2Proof.Machine

/-- The flags that a matrix operation reports: NV, OF and UF (R95). -/
def mmaFlags (x : Nat) : Nat := x &&& (flagNV ||| flagOF ||| flagUF)

/-- The format of a code of R163 that names a floating format. -/
def fmtOfCode (c : Nat) : Fmt :=
  match c with
  | 0 => .f64 | 1 => .f32 | 2 => .bf16 | 3 => .f16 | 4 => .e4m3 | _ => .e5m2

/-- Numbers of `n` bytes each, as many as the bytes hold. -/
def chunks (n : Nat) : Nat → List Byte → List Nat
  | 0, _ => []
  | fuel + 1, bs => if bs = [] then [] else ofBytes (bs.take n) :: chunks n fuel (bs.drop n)

/-- The values of a row of bytes in a floating format. -/
def rowFV (code : Nat) (bs : List Byte) : List FV :=
  (chunks (fmtBits (fmtOfCode code) / 8) 512 bs).map (fpDecode (fmtOfCode code))

/-- The values of a row of 8-bit integers, signed for code 6. -/
def rowInt (code : Nat) (bs : List Byte) : List Int :=
  bs.map fun b => if code = 6 then sval 8 b.toNat else (b.toNat : Int)

/-- One level of the tree of R95. -/
def treeLevel (f : Fmt) : List FV → List FV × Nat
  | x :: y :: r =>
    let (e, fl) := sumEx .rne [x, y]
    let (b, fl') := roundEx f .rne false e
    let (ys, fs) := treeLevel f r
    (fpDecode f b :: ys, fl ||| fl' ||| fs)
  | r => (r, 0)

/-- The root of the tree as a value, with the flags of its roundings; `n` levels. -/
def treeRoot (f : Fmt) : Nat → List FV → FV × Nat
  | 0, l => (l.headD (.fin false 0 0), 0)
  | n + 1, l =>
    let (m, fl) := treeLevel f l
    let (x, fl') := treeRoot f n m
    (x, fl ||| fl')

/-- Exact products of two rows. A second row that ends early stands for elements whose products count as +0 (R262). -/
def products : List FV → List FV → List FV × Nat
  | x :: xs, y :: ys =>
    let (p, fl) := mulFV x y
    let (ps, fs) := products xs ys
    (p :: ps, fl ||| fs)
  | _ :: xs, [] =>
    let (ps, fs) := products xs []
    (.fin false 0 0 :: ps, fs)
  | [], _ => ([], 0)

/-- The tree levels of a K row (R95). -/
def treeDepth (k : Nat) : Nat := Nat.log2 k

/-- acc + the root over two rows, rounded to nearest even (R95, R262). -/
def mmaElem (f : Fmt) (k : Nat) (acc : Nat) (a b : List FV) : Nat × Nat :=
  let (ps, f1) := products a b
  let (x, f2) := treeRoot f (treeDepth k) ps
  let (e, f3) := sumEx .rne [fpDecode f acc, x]
  let (r, f4) := roundEx f .rne false e
  (r, f1 ||| f2 ||| f3 ||| f4)

/-- Integer products: the exact sum, then the accumulator modulo 2^32. -/
def mmaInt (acc : Nat) (a b : List Int) : Nat :=
  wrap 32 ((acc : Int) + ((a.zip b).map fun e => e.1 * e.2).foldl (· + ·) 0)

/-! ## QN4 shelves (R91, R92, R258) -/

/-- A shelf header of 1,040 bytes. -/
structure Shelf where
  bitmap : List Byte
  scales : List Byte
  super : Nat
  n : Nat
  deriving DecidableEq, Repr

/-- The length part holds n − 1 (R91). -/
def shelfOf (bs : List Byte) : Shelf :=
  ⟨bs.take 512, (bs.drop 512).take 512, ofBytes ((bs.drop 1024).take 4), ofBytes ((bs.drop 1028).take 2) + 1⟩

def shelfBit (h : Shelf) (e : Nat) : Bool := bit ((h.bitmap.getD (e / 8) 0).toNat) (e % 8)

/-- The lengths of the blocks of a shelf of which `cur` elements of the current block have been walked. -/
def blockLens (h : Shelf) : Nat → Nat → Nat → List Nat
  | 0, _, cur => [cur]
  | fuel + 1, e, cur => if shelfBit h e then cur :: blockLens h fuel (e + 1) 1 else blockLens h fuel (e + 1) (cur + 1)

/-- R91: a well-formed shelf. -/
def shelfOk (h : Shelf) : Bool :=
  let lens := blockLens h (h.n - 1) 1 1
  h.n ≤ 4096 && shelfBit h 0 && lens.dropLast.all (fun l => 8 ≤ l && l ≤ 128) &&
    lens.getLast?.getD 0 ≤ 128 && superOk h.super

/-- Blocks that start in elements below `e`. -/
def blocksBelow (h : Shelf) (e : Nat) : Nat := ((List.range e).filter (shelfBit h)).length

/-- Values of the elements from `e` up to the shelf's length; `blk` blocks started before it (R92, R262). -/
def shelfValues (h : Shelf) : List Nat → Nat → Nat → List FV
  | [], _, _ => []
  | q :: qs, e, blk =>
    if e ≥ h.n then []
    else
      let blk := if shelfBit h e then blk + 1 else blk
      qn4Value h.super (h.scales.getD (blk - 1) 0).toNat q :: shelfValues h qs (e + 1) blk

/-- The codes of a row of bytes, two per byte, low first (R91). -/
def qnCodes : List Byte → List Nat
  | [] => []
  | b :: bs => b.toNat % 16 :: b.toNat / 16 :: qnCodes bs

/-- The values of a QN4 B row in segment `seg` of its shelf (R262). -/
def rowQn (h : Shelf) (seg : Nat) (bs : List Byte) : List FV :=
  shelfValues h (qnCodes bs) (512 * seg) (blocksBelow h (512 * seg))

/-! ## Tile elements and near-cache additions -/

/-- t + x by element format: 1 f32, 0 f64, 6 s32, 9 s64 (R97, R264). -/
def addElem (fmt t x : Nat) : Nat :=
  match fmt with
  | 0 => (fpAdd .f64 .rne false t x).1
  | 1 => (fpAdd .f32 .rne false t x).1
  | 9 => (t + x) % 2 ^ 64
  | _ => (t + x) % 2 ^ 32

/-- Bytes of an element. -/
def elemBytes (fmt : Nat) : Nat := if fmt = 0 || fmt = 9 then 8 else 4

/-- Element by element sum of two rows of bytes. -/
def addRows (fmt : Nat) (t x : List Byte) : List Byte :=
  let n := elemBytes fmt
  (((chunks n 64 t).zip (chunks n 64 x)).map fun e => toBytes n (addElem fmt e.1 e.2)).flatten

end Sys2Proof.Machine
end

