-- ==== Sys2Proof/WellFormed.lean ====
section
/-! DEFINITION. Which instructions are well formed: those that pass every decode check that does not depend on
the clause they stand in (R164). -/

namespace Sys2Proof

/-- Reasons 4, 5 and 6 of R164 all pass. An event has no word and nothing to check. -/
def Instr.wellFormed (i : Instr) : Bool :=
  match i with
  | .unassignedOpcode _ => false
  | i => match Machine.shape i with
    | some sh => Machine.controlOk sh && sh.ok5 && sh.ok6
    | none => true

end Sys2Proof
end

