-- ==== Sys2Proof/Decode.lean ====
section
/-! DEFINITION. The decoder (R151, R157, R167, R168), total on every 80-bit word, with the reasons of R164 that
do not depend on the clause, and the encoder written from the same tables. -/

namespace Sys2Proof

/-- The control part and guard of a word (R151, R153). -/
def ctlOf (w : BitVec 80) : Ctl :=
  { stall := w.extractLsb' 76 4, pd := w.extractLsb' 73 3, alloc := w.extractLsb' 70 3, wait := w.extractLsb' 64 6,
    gneg := w.getLsbD 53, gpred := w.extractLsb' 50 3 }

def gOf (w : BitVec 80) : GF :=
  { dst := w.extractLsb' 42 8, a := w.extractLsb' 34 8, b := w.extractLsb' 26 8, c := w.extractLsb' 18 8,
    rnd := w.extractLsb' 16 2, ftz := w.getLsbD 15, sat := w.getLsbD 14, dtype := w.extractLsb' 10 4,
    stype := w.extractLsb' 6 4, sub := w.extractLsb' 0 6 }

def giOf (w : BitVec 80) : GIF :=
  { dst := w.extractLsb' 42 8, a := w.extractLsb' 34 8, imm := w.extractLsb' 2 32, isel := w.extractLsb' 0 2 }

def pOf (w : BitVec 80) : PF :=
  { pdst := w.extractLsb' 47 3, pdst2 := w.extractLsb' 44 3, comb := w.extractLsb' 42 2, a := w.extractLsb' 34 8,
    b := w.extractLsb' 26 8, c := w.extractLsb' 18 8, pcomb := w.extractLsb' 15 3, ncomb := w.getLsbD 14,
    type := w.extractLsb' 10 4, cond := w.extractLsb' 6 4, sub := w.extractLsb' 0 6 }

def mOf (w : BitVec 80) : MF :=
  { dst := w.extractLsb' 42 8, base := w.extractLsb' 34 8, data := w.extractLsb' 26 8, disp := w.extractLsb' 10 16,
    size := w.extractLsb' 7 3, scope := w.extractLsb' 4 3, order := w.extractLsb' 2 2, sub := w.extractLsb' 0 2 }

def mxOf (w : BitVec 80) : MXF :=
  { dst := w.extractLsb' 42 8, base := w.extractLsb' 34 8, data := w.extractLsb' 26 8, second := w.extractLsb' 18 8,
    aop := w.extractLsb' 12 6, rsv := w.extractLsb' 10 2, size := w.extractLsb' 7 3, scope := w.extractLsb' 4 3,
    order := w.extractLsb' 2 2, sub := w.extractLsb' 0 2 }

def bOf (w : BitVec 80) : BF :=
  { dst := w.extractLsb' 42 8, a := w.extractLsb' 34 8, b := w.extractLsb' 26 8, disp := w.extractLsb' 2 24,
    sub := w.extractLsb' 0 2 }

def tOf (w : BitVec 80) : TF :=
  { zd := w.extractLsb' 46 4, zs := w.extractLsb' 42 4, a := w.extractLsb' 34 8, b := w.extractLsb' 26 8,
    c := w.extractLsb' 18 8, obA := w.extractLsb' 15 3, obB := w.extractLsb' 12 3, fmtA := w.extractLsb' 8 4,
    fmtB := w.extractLsb' 4 4, sub := w.extractLsb' 0 4 }

def xOf (w : BitVec 80) : XF :=
  { dst := w.extractLsb' 42 8, a := w.extractLsb' 34 8, b := w.extractLsb' 26 8, c := w.extractLsb' 18 8,
    xa := w.extractLsb' 16 2, pc := w.extractLsb' 13 3, ps := w.extractLsb' 10 3, pf := w.extractLsb' 7 3,
    type := w.extractLsb' 3 4, sub := w.extractLsb' 0 3 }

/-- The opcode field (R151). -/
def opcodeOf (w : BitVec 80) : BitVec 10 := w.extractLsb' 54 10

/-- The instruction that a word stands for, whatever its fields hold; an opcode that the map of R167 does not
assign gives UNASSIGNED_OPCODE (R168). -/
def parse (w : BitVec 80) : Instr :=
  match (opcodeOf w).toNat with
  | 0x000 => .nop (ctlOf w) (gOf w)
  | 0x001 => .mov (ctlOf w) (gOf w)
  | 0x002 => .movImm (ctlOf w) (giOf w)
  | 0x003 => .sel (ctlOf w) (gOf w)
  | 0x004 => .add (ctlOf w) (gOf w)
  | 0x005 => .addImm (ctlOf w) (giOf w)
  | 0x006 => .sub (ctlOf w) (gOf w)
  | 0x007 => .mul (ctlOf w) (gOf w)
  | 0x008 => .mulImm (ctlOf w) (giOf w)
  | 0x009 => .mulhi (ctlOf w) (gOf w)
  | 0x00A => .mad (ctlOf w) (gOf w)
  | 0x00B => .fma (ctlOf w) (gOf w)
  | 0x00C => .min (ctlOf w) (gOf w)
  | 0x00D => .max (ctlOf w) (gOf w)
  | 0x00E => .abs (ctlOf w) (gOf w)
  | 0x00F => .neg (ctlOf w) (gOf w)
  | 0x010 => .and (ctlOf w) (gOf w)
  | 0x011 => .andImm (ctlOf w) (giOf w)
  | 0x012 => .or (ctlOf w) (gOf w)
  | 0x013 => .orImm (ctlOf w) (giOf w)
  | 0x014 => .xor (ctlOf w) (gOf w)
  | 0x015 => .xorImm (ctlOf w) (giOf w)
  | 0x016 => .not (ctlOf w) (gOf w)
  | 0x017 => .shl (ctlOf w) (gOf w)
  | 0x018 => .shlImm (ctlOf w) (giOf w)
  | 0x019 => .shr (ctlOf w) (gOf w)
  | 0x01A => .shrImm (ctlOf w) (giOf w)
  | 0x01B => .sra (ctlOf w) (gOf w)
  | 0x01C => .sraImm (ctlOf w) (giOf w)
  | 0x01D => .rot (ctlOf w) (gOf w)
  | 0x01E => .popc (ctlOf w) (gOf w)
  | 0x01F => .clz (ctlOf w) (gOf w)
  | 0x020 => .ctz (ctlOf w) (gOf w)
  | 0x021 => .brev (ctlOf w) (gOf w)
  | 0x022 => .bfe (ctlOf w) (gOf w)
  | 0x023 => .bfi (ctlOf w) (gOf w)
  | 0x024 => .lea (ctlOf w) (gOf w)
  | 0x025 => .div (ctlOf w) (gOf w)
  | 0x026 => .rem (ctlOf w) (gOf w)
  | 0x027 => .cmp (ctlOf w) (pOf w)
  | 0x028 => .plop (ctlOf w) (pOf w)
  | 0x029 => .pmov (ctlOf w) (gOf w)
  | 0x02A => .cpsgn (ctlOf w) (gOf w)
  | 0x02B => .classify (ctlOf w) (pOf w)
  | 0x02C => .scale (ctlOf w) (gOf w)
  | 0x02D => .frnd (ctlOf w) (gOf w)
  | 0x02E => .cvt (ctlOf w) (gOf w)
  | 0x030 => .rcp (ctlOf w) (gOf w)
  | 0x031 => .rsq (ctlOf w) (gOf w)
  | 0x032 => .sqrt (ctlOf w) (gOf w)
  | 0x033 => .ex2 (ctlOf w) (gOf w)
  | 0x034 => .lg2 (ctlOf w) (gOf w)
  | 0x035 => .sin (ctlOf w) (gOf w)
  | 0x036 => .cos (ctlOf w) (gOf w)
  | 0x037 => .tanh (ctlOf w) (gOf w)
  | 0x038 => .dot2 (ctlOf w) (gOf w)
  | 0x039 => .qblk (ctlOf w) (gOf w)
  | 0x03A => .dqn4 (ctlOf w) (gOf w)
  | 0x040 => .shfl (ctlOf w) (gOf w)
  | 0x041 => .shflImm (ctlOf w) (giOf w)
  | 0x042 => .bcast (ctlOf w) (gOf w)
  | 0x043 => .vote (ctlOf w) (pOf w)
  | 0x044 => .ballot (ctlOf w) (gOf w)
  | 0x045 => .wred (ctlOf w) (gOf w)
  | 0x046 => .wscan (ctlOf w) (gOf w)
  | 0x050 => .kmov (ctlOf w) (gOf w)
  | 0x051 => .kmovImm (ctlOf w) (giOf w)
  | 0x052 => .kand (ctlOf w) (gOf w)
  | 0x053 => .kor (ctlOf w) (gOf w)
  | 0x054 => .kxor (ctlOf w) (gOf w)
  | 0x055 => .knot (ctlOf w) (gOf w)
  | 0x056 => .kact (ctlOf w) (gOf w)
  | 0x057 => .kpop (ctlOf w) (gOf w)
  | 0x058 => .ktest (ctlOf w) (pOf w)
  | 0x059 => .kfirst (ctlOf w) (gOf w)
  | 0x060 => .xainit (ctlOf w) (xOf w)
  | 0x061 => .xapush (ctlOf w) (xOf w)
  | 0x062 => .xalim (ctlOf w) (xOf w)
  | 0x063 => .xastat (ctlOf w) (xOf w)
  | 0x064 => .xaclr (ctlOf w) (xOf w)
  | 0x080 => .ld (ctlOf w) (mOf w)
  | 0x081 => .st (ctlOf w) (mOf w)
  | 0x082 => .lds (ctlOf w) (mOf w)
  | 0x083 => .sts (ctlOf w) (mOf w)
  | 0x084 => .stp (ctlOf w) (mOf w)
  | 0x085 => .ldl (ctlOf w) (giOf w)
  | 0x086 => .stm (ctlOf w) (mOf w)
  | 0x087 => .replsync (ctlOf w) (mOf w)
  | 0x088 => .fence (ctlOf w) (mOf w)
  | 0x089 => .stpScalarRank (ctlOf w) (mxOf w)
  | 0x090 => .atom (ctlOf w) (mxOf w)
  | 0x091 => .atoms (ctlOf w) (mxOf w)
  | 0x092 => .red (ctlOf w) (mxOf w)
  | 0x093 => .reds (ctlOf w) (mxOf w)
  | 0x094 => .cas (ctlOf w) (mxOf w)
  | 0x095 => .casgt (ctlOf w) (mxOf w)
  | 0x096 => .casver (ctlOf w) (mxOf w)
  | 0x097 => .casptr (ctlOf w) (mxOf w)
  | 0x098 => .pcall (ctlOf w) (mxOf w)
  | 0x0A0 => .txbegin (ctlOf w) (bOf w)
  | 0x0A1 => .txend (ctlOf w) (gOf w)
  | 0x0A2 => .txabort (ctlOf w) (gOf w)
  | 0x100 => .obres (ctlOf w) (gOf w)
  | 0x101 => .obrel (ctlOf w) (gOf w)
  | 0x102 => .mma (ctlOf w) (tOf w)
  | 0x103 => .mmam (ctlOf w) (tOf w)
  | 0x104 => .mzero (ctlOf w) (tOf w)
  | 0x105 => .mmov (ctlOf w) (tOf w)
  | 0x106 => .mld (ctlOf w) (tOf w)
  | 0x107 => .mflush (ctlOf w) (tOf w)
  | 0x108 => .mstest (ctlOf w) (tOf w)
  | 0x110 => .cpy (ctlOf w) (gOf w)
  | 0x111 => .cpyt (ctlOf w) (gOf w)
  | 0x112 => .rcfence (ctlOf w) (gOf w)
  | 0x180 => .bra (ctlOf w) (bOf w)
  | 0x181 => .jmp (ctlOf w) (gOf w)
  | 0x182 => .call (ctlOf w) (bOf w)
  | 0x183 => .callr (ctlOf w) (gOf w)
  | 0x184 => .ret (ctlOf w) (gOf w)
  | 0x185 => .loop (ctlOf w) (bOf w)
  | 0x186 => .fork (ctlOf w) (bOf w)
  | 0x187 => .quit (ctlOf w) (gOf w)
  | 0x188 => .join (ctlOf w) (gOf w)
  | 0x189 => .leave (ctlOf w) (gOf w)
  | 0x18A => .waitm (ctlOf w) (gOf w)
  | 0x190 => .binit (ctlOf w) (gOf w)
  | 0x191 => .barr (ctlOf w) (gOf w)
  | 0x192 => .bwait (ctlOf w) (gOf w)
  | 0x193 => .bfarr (ctlOf w) (gOf w)
  | 0x194 => .bfwait (ctlOf w) (gOf w)
  | 0x195 => .qput (ctlOf w) (gOf w)
  | 0x196 => .qget (ctlOf w) (gOf w)
  | 0x197 => .svc (ctlOf w) (gOf w)
  | 0x200 => .mfsr (ctlOf w) (giOf w)
  | 0x201 => .mtsr (ctlOf w) (giOf w)
  | 0x202 => .spawn (ctlOf w) (gOf w)
  | 0x203 => .yieldpt (ctlOf w) (gOf w)
  | 0x204 => .ppt (ctlOf w) (gOf w)
  | 0x205 => .spanin (ctlOf w) (giOf w)
  | 0x206 => .spanout (ctlOf w) (giOf w)
  | 0x207 => .brk (ctlOf w) (gOf w)
  | 0x208 => .trap (ctlOf w) (giOf w)
  | 0x209 => .sret (ctlOf w) (gOf w)
  | 0x20A => .rdcyc (ctlOf w) (gOf w)
  | 0x210 => .tbload (ctlOf w) (gOf w)
  | 0x211 => .odeinit (ctlOf w) (gOf w)
  | 0x212 => .oderun (ctlOf w) (gOf w)
  | 0x213 => .odestep (ctlOf w) (gOf w)
  | 0x214 => .odeq (ctlOf w) (gOf w)
  | 0x215 => .odestat (ctlOf w) (gOf w)
  | 0x216 => .stgget (ctlOf w) (gOf w)
  | 0x217 => .stgput (ctlOf w) (gOf w)
  | 0x218 => .evarm (ctlOf w) (gOf w)
  | _ => .unassignedOpcode w

/-- Bits 79:50 of a word. -/
def headBits (h : Ctl) (op : BitVec 10) : BitVec 30 :=
  h.stall ++ h.pd ++ h.alloc ++ h.wait ++ op ++ BitVec.ofBool h.gneg ++ h.gpred

def gBits (f : GF) : BitVec 50 :=
  f.dst ++ f.a ++ f.b ++ f.c ++ f.rnd ++ BitVec.ofBool f.ftz ++ BitVec.ofBool f.sat ++ f.dtype ++ f.stype ++ f.sub

def giBits (f : GIF) : BitVec 50 := f.dst ++ f.a ++ f.imm ++ f.isel

def pBits (f : PF) : BitVec 50 :=
  f.pdst ++ f.pdst2 ++ f.comb ++ f.a ++ f.b ++ f.c ++ f.pcomb ++ BitVec.ofBool f.ncomb ++ f.type ++ f.cond ++ f.sub

def mBits (f : MF) : BitVec 50 :=
  f.dst ++ f.base ++ f.data ++ f.disp ++ f.size ++ f.scope ++ f.order ++ f.sub

def mxBits (f : MXF) : BitVec 50 :=
  f.dst ++ f.base ++ f.data ++ f.second ++ f.aop ++ f.rsv ++ f.size ++ f.scope ++ f.order ++ f.sub

def bBits (f : BF) : BitVec 50 := f.dst ++ f.a ++ f.b ++ f.disp ++ f.sub

def tBits (f : TF) : BitVec 50 :=
  f.zd ++ f.zs ++ f.a ++ f.b ++ f.c ++ f.obA ++ f.obB ++ f.fmtA ++ f.fmtB ++ f.sub

def xBits (f : XF) : BitVec 50 :=
  f.dst ++ f.a ++ f.b ++ f.c ++ f.xa ++ f.pc ++ f.ps ++ f.pf ++ f.type ++ f.sub

/-- The word of an encoded instruction; an event has none. -/
def encode : Instr → Option (BitVec 80)
  | .nop h f => some (headBits h 0x000#10 ++ gBits f)
  | .mov h f => some (headBits h 0x001#10 ++ gBits f)
  | .movImm h f => some (headBits h 0x002#10 ++ giBits f)
  | .sel h f => some (headBits h 0x003#10 ++ gBits f)
  | .add h f => some (headBits h 0x004#10 ++ gBits f)
  | .addImm h f => some (headBits h 0x005#10 ++ giBits f)
  | .sub h f => some (headBits h 0x006#10 ++ gBits f)
  | .mul h f => some (headBits h 0x007#10 ++ gBits f)
  | .mulImm h f => some (headBits h 0x008#10 ++ giBits f)
  | .mulhi h f => some (headBits h 0x009#10 ++ gBits f)
  | .mad h f => some (headBits h 0x00A#10 ++ gBits f)
  | .fma h f => some (headBits h 0x00B#10 ++ gBits f)
  | .min h f => some (headBits h 0x00C#10 ++ gBits f)
  | .max h f => some (headBits h 0x00D#10 ++ gBits f)
  | .abs h f => some (headBits h 0x00E#10 ++ gBits f)
  | .neg h f => some (headBits h 0x00F#10 ++ gBits f)
  | .and h f => some (headBits h 0x010#10 ++ gBits f)
  | .andImm h f => some (headBits h 0x011#10 ++ giBits f)
  | .or h f => some (headBits h 0x012#10 ++ gBits f)
  | .orImm h f => some (headBits h 0x013#10 ++ giBits f)
  | .xor h f => some (headBits h 0x014#10 ++ gBits f)
  | .xorImm h f => some (headBits h 0x015#10 ++ giBits f)
  | .not h f => some (headBits h 0x016#10 ++ gBits f)
  | .shl h f => some (headBits h 0x017#10 ++ gBits f)
  | .shlImm h f => some (headBits h 0x018#10 ++ giBits f)
  | .shr h f => some (headBits h 0x019#10 ++ gBits f)
  | .shrImm h f => some (headBits h 0x01A#10 ++ giBits f)
  | .sra h f => some (headBits h 0x01B#10 ++ gBits f)
  | .sraImm h f => some (headBits h 0x01C#10 ++ giBits f)
  | .rot h f => some (headBits h 0x01D#10 ++ gBits f)
  | .popc h f => some (headBits h 0x01E#10 ++ gBits f)
  | .clz h f => some (headBits h 0x01F#10 ++ gBits f)
  | .ctz h f => some (headBits h 0x020#10 ++ gBits f)
  | .brev h f => some (headBits h 0x021#10 ++ gBits f)
  | .bfe h f => some (headBits h 0x022#10 ++ gBits f)
  | .bfi h f => some (headBits h 0x023#10 ++ gBits f)
  | .lea h f => some (headBits h 0x024#10 ++ gBits f)
  | .div h f => some (headBits h 0x025#10 ++ gBits f)
  | .rem h f => some (headBits h 0x026#10 ++ gBits f)
  | .cmp h f => some (headBits h 0x027#10 ++ pBits f)
  | .plop h f => some (headBits h 0x028#10 ++ pBits f)
  | .pmov h f => some (headBits h 0x029#10 ++ gBits f)
  | .cpsgn h f => some (headBits h 0x02A#10 ++ gBits f)
  | .classify h f => some (headBits h 0x02B#10 ++ pBits f)
  | .scale h f => some (headBits h 0x02C#10 ++ gBits f)
  | .frnd h f => some (headBits h 0x02D#10 ++ gBits f)
  | .cvt h f => some (headBits h 0x02E#10 ++ gBits f)
  | .rcp h f => some (headBits h 0x030#10 ++ gBits f)
  | .rsq h f => some (headBits h 0x031#10 ++ gBits f)
  | .sqrt h f => some (headBits h 0x032#10 ++ gBits f)
  | .ex2 h f => some (headBits h 0x033#10 ++ gBits f)
  | .lg2 h f => some (headBits h 0x034#10 ++ gBits f)
  | .sin h f => some (headBits h 0x035#10 ++ gBits f)
  | .cos h f => some (headBits h 0x036#10 ++ gBits f)
  | .tanh h f => some (headBits h 0x037#10 ++ gBits f)
  | .dot2 h f => some (headBits h 0x038#10 ++ gBits f)
  | .qblk h f => some (headBits h 0x039#10 ++ gBits f)
  | .dqn4 h f => some (headBits h 0x03A#10 ++ gBits f)
  | .shfl h f => some (headBits h 0x040#10 ++ gBits f)
  | .shflImm h f => some (headBits h 0x041#10 ++ giBits f)
  | .bcast h f => some (headBits h 0x042#10 ++ gBits f)
  | .vote h f => some (headBits h 0x043#10 ++ pBits f)
  | .ballot h f => some (headBits h 0x044#10 ++ gBits f)
  | .wred h f => some (headBits h 0x045#10 ++ gBits f)
  | .wscan h f => some (headBits h 0x046#10 ++ gBits f)
  | .kmov h f => some (headBits h 0x050#10 ++ gBits f)
  | .kmovImm h f => some (headBits h 0x051#10 ++ giBits f)
  | .kand h f => some (headBits h 0x052#10 ++ gBits f)
  | .kor h f => some (headBits h 0x053#10 ++ gBits f)
  | .kxor h f => some (headBits h 0x054#10 ++ gBits f)
  | .knot h f => some (headBits h 0x055#10 ++ gBits f)
  | .kact h f => some (headBits h 0x056#10 ++ gBits f)
  | .kpop h f => some (headBits h 0x057#10 ++ gBits f)
  | .ktest h f => some (headBits h 0x058#10 ++ pBits f)
  | .kfirst h f => some (headBits h 0x059#10 ++ gBits f)
  | .xainit h f => some (headBits h 0x060#10 ++ xBits f)
  | .xapush h f => some (headBits h 0x061#10 ++ xBits f)
  | .xalim h f => some (headBits h 0x062#10 ++ xBits f)
  | .xastat h f => some (headBits h 0x063#10 ++ xBits f)
  | .xaclr h f => some (headBits h 0x064#10 ++ xBits f)
  | .ld h f => some (headBits h 0x080#10 ++ mBits f)
  | .st h f => some (headBits h 0x081#10 ++ mBits f)
  | .lds h f => some (headBits h 0x082#10 ++ mBits f)
  | .sts h f => some (headBits h 0x083#10 ++ mBits f)
  | .stp h f => some (headBits h 0x084#10 ++ mBits f)
  | .ldl h f => some (headBits h 0x085#10 ++ giBits f)
  | .stm h f => some (headBits h 0x086#10 ++ mBits f)
  | .replsync h f => some (headBits h 0x087#10 ++ mBits f)
  | .fence h f => some (headBits h 0x088#10 ++ mBits f)
  | .stpScalarRank h f => some (headBits h 0x089#10 ++ mxBits f)
  | .atom h f => some (headBits h 0x090#10 ++ mxBits f)
  | .atoms h f => some (headBits h 0x091#10 ++ mxBits f)
  | .red h f => some (headBits h 0x092#10 ++ mxBits f)
  | .reds h f => some (headBits h 0x093#10 ++ mxBits f)
  | .cas h f => some (headBits h 0x094#10 ++ mxBits f)
  | .casgt h f => some (headBits h 0x095#10 ++ mxBits f)
  | .casver h f => some (headBits h 0x096#10 ++ mxBits f)
  | .casptr h f => some (headBits h 0x097#10 ++ mxBits f)
  | .pcall h f => some (headBits h 0x098#10 ++ mxBits f)
  | .txbegin h f => some (headBits h 0x0A0#10 ++ bBits f)
  | .txend h f => some (headBits h 0x0A1#10 ++ gBits f)
  | .txabort h f => some (headBits h 0x0A2#10 ++ gBits f)
  | .obres h f => some (headBits h 0x100#10 ++ gBits f)
  | .obrel h f => some (headBits h 0x101#10 ++ gBits f)
  | .mma h f => some (headBits h 0x102#10 ++ tBits f)
  | .mmam h f => some (headBits h 0x103#10 ++ tBits f)
  | .mzero h f => some (headBits h 0x104#10 ++ tBits f)
  | .mmov h f => some (headBits h 0x105#10 ++ tBits f)
  | .mld h f => some (headBits h 0x106#10 ++ tBits f)
  | .mflush h f => some (headBits h 0x107#10 ++ tBits f)
  | .mstest h f => some (headBits h 0x108#10 ++ tBits f)
  | .cpy h f => some (headBits h 0x110#10 ++ gBits f)
  | .cpyt h f => some (headBits h 0x111#10 ++ gBits f)
  | .rcfence h f => some (headBits h 0x112#10 ++ gBits f)
  | .bra h f => some (headBits h 0x180#10 ++ bBits f)
  | .jmp h f => some (headBits h 0x181#10 ++ gBits f)
  | .call h f => some (headBits h 0x182#10 ++ bBits f)
  | .callr h f => some (headBits h 0x183#10 ++ gBits f)
  | .ret h f => some (headBits h 0x184#10 ++ gBits f)
  | .loop h f => some (headBits h 0x185#10 ++ bBits f)
  | .fork h f => some (headBits h 0x186#10 ++ bBits f)
  | .quit h f => some (headBits h 0x187#10 ++ gBits f)
  | .join h f => some (headBits h 0x188#10 ++ gBits f)
  | .leave h f => some (headBits h 0x189#10 ++ gBits f)
  | .waitm h f => some (headBits h 0x18A#10 ++ gBits f)
  | .binit h f => some (headBits h 0x190#10 ++ gBits f)
  | .barr h f => some (headBits h 0x191#10 ++ gBits f)
  | .bwait h f => some (headBits h 0x192#10 ++ gBits f)
  | .bfarr h f => some (headBits h 0x193#10 ++ gBits f)
  | .bfwait h f => some (headBits h 0x194#10 ++ gBits f)
  | .qput h f => some (headBits h 0x195#10 ++ gBits f)
  | .qget h f => some (headBits h 0x196#10 ++ gBits f)
  | .svc h f => some (headBits h 0x197#10 ++ gBits f)
  | .mfsr h f => some (headBits h 0x200#10 ++ giBits f)
  | .mtsr h f => some (headBits h 0x201#10 ++ giBits f)
  | .spawn h f => some (headBits h 0x202#10 ++ gBits f)
  | .yieldpt h f => some (headBits h 0x203#10 ++ gBits f)
  | .ppt h f => some (headBits h 0x204#10 ++ gBits f)
  | .spanin h f => some (headBits h 0x205#10 ++ giBits f)
  | .spanout h f => some (headBits h 0x206#10 ++ giBits f)
  | .brk h f => some (headBits h 0x207#10 ++ gBits f)
  | .trap h f => some (headBits h 0x208#10 ++ giBits f)
  | .sret h f => some (headBits h 0x209#10 ++ gBits f)
  | .rdcyc h f => some (headBits h 0x20A#10 ++ gBits f)
  | .tbload h f => some (headBits h 0x210#10 ++ gBits f)
  | .odeinit h f => some (headBits h 0x211#10 ++ gBits f)
  | .oderun h f => some (headBits h 0x212#10 ++ gBits f)
  | .odestep h f => some (headBits h 0x213#10 ++ gBits f)
  | .odeq h f => some (headBits h 0x214#10 ++ gBits f)
  | .odestat h f => some (headBits h 0x215#10 ++ gBits f)
  | .stgget h f => some (headBits h 0x216#10 ++ gBits f)
  | .stgput h f => some (headBits h 0x217#10 ++ gBits f)
  | .evarm h f => some (headBits h 0x218#10 ++ gBits f)
  | .unassignedOpcode w => some w
  | _ => none

/-- The ten bytes of a word, in address order (R151). -/
def wordBytes (w : BitVec 80) : List Byte := Machine.toBytes 10 w.toNat

/-- The outcome of decoding one word on its own. -/
inductive Decoded where
  /-- a well-formed instruction -/
  | ok (i : Instr)
  /-- the illegal-instruction fault with a reason of R164 -/
  | illegal (reason : Nat)
  deriving DecidableEq, Repr

/-- Reasons 3, 7, 4, 5 and 6 in the order of R164, for an instruction in a clause of class `cls`; `last` says
that it stands in the clause's last slot, `c` is the clause address (for LDL, R175). -/
def decode (cls : Nat) (last : Bool) (c : Nat) (w : BitVec 80) : Decoded :=
  let i := parse w
  match Machine.shape i with
  | none => .illegal 3
  | some sh =>
    if sh.opcode / 128 ≠ cls then .illegal 3
    else if sh.ends && !last then .illegal 7
    else if !Machine.controlOk sh then .illegal 4
    else if !(sh.ok5 && Machine.literalOk c i) then .illegal 5
    else if !sh.ok6 then .illegal 6
    else .ok i

/-- Decoding of ten bytes of code. -/
def decodeBytes (cls : Nat) (last : Bool) (c : Nat) (bs : List Byte) : Decoded :=
  decode cls last c (BitVec.ofNat 80 (Machine.ofBytes bs))

/-- The instruction read from a word numbered as spec/opcode_table.json numbers it, standing alone in a clause of
its own class at address 0: none where decode rejects its fields. A word whose opcode is unassigned is the
UNASSIGNED_OPCODE row. -/
def decodeTableWord (nbits w : Nat) : Option Instr :=
  if nbits ≤ 80 then
    let v := BitVec.ofNat 80 w
    match parse v with
    | .unassignedOpcode u => some (.unassignedOpcode u)
    | _ =>
      match decode ((opcodeOf v).toNat / 128) true 0 v with
      | .ok i => some i
      | .illegal _ => none
  else none

end Sys2Proof
end

