-- ==== Sys2Proof/Machine/Memory.lean ====
section
/-! DEFINITION. Translation (R50, R51, R377 to R379, R387), and performing an access at its home (R58, R75, R389). -/

namespace Sys2Proof.Machine

/-! ## Range registers (R50, R334) -/

def permR : Nat := 1
def permW : Nat := 2
def permA : Nat := 4
def permT : Nat := 8
def permX : Nat := 16

/-- What one byte of a global access translates to. -/
inductive ByteAt where
  /-- a place of memory, with its place as a write sees it and the leaf's page -/
  | mem (place : Nat) (page : Nat)
  | permission
  | range
  /-- no valid page: partition, intermediate address, flags of R383 -/
  | noPage (part ia flags : Nat)
  | remote (node ia : Nat)
  | host (addr : Nat)
  | hostOwned (part ia : Nat)
  | readOnly (part ia : Nat)
  deriving DecidableEq, Repr

/-- The lowest-numbered valid range register that matches (R50). -/
def rangeOf (d : District) (va : Nat) : Option Range :=
  d.ranges.find? fun g => g.valid && g.base.toNat ≤ va && va < g.limit.toNat

/-- Permission bits are all present. -/
def permits (g : Range) (need : Nat) : Bool := g.perm.toNat &&& need == need

/-! ## Page tables (R377 to R379) -/

def pteField (e lo w : Nat) : Nat := field e lo w

/-- A walk's end: the leaf entry, the place of the entry, and the page's size in address bits; or the flags of the
page-fault record (bit 1 malformed, bit 2 no context). -/
inductive Walk where
  | leaf (entry entryAt bits : Nat)
  | none (flags : Nat)
  deriving DecidableEq, Repr

/-- Reads the entry at level `lv` and goes on (R378, R379): index widths 18, 9, 5 and page bits 30, 21, 16. -/
def walkFrom (m : Memory) (p ia : Nat) : Nat → Nat → Walk
  | 0, _ => .none 2
  | lv + 1, table =>
    -- lv + 1 = 3 is level 1
    let bits := if lv = 2 then 30 else if lv = 1 then 21 else 16
    let width := if lv = 2 then 18 else if lv = 1 then 9 else 5
    let at_ := hbmPlace p (table + 8 * field ia bits width)
    let e := readNat m at_ 8
    let addr := field e 8 28 * 256
    if !bit e 0 then .none 0
    else if field e 36 28 ≠ 0 then .none 2
    else if bit e 1 then
      if addr % 2 ^ bits ≠ 0 || (bit e 3 && lv ≠ 0) then .none 2 else .leaf e at_ bits
    else if lv = 0 then .none 2
    else if addr % (if lv = 2 then 4096 else 256) ≠ 0 then .none 2
    else walkFrom m p ia lv addr

/-- The context-table entry of a partition (R377): its place. -/
def ctxEntryAt (s : State) (p ctx : Nat) : Nat := hbmPlace p ((partOf s p).tableAt + 32 * ctx)
def ctxValid (s : State) (p ctx : Nat) : Bool := bit (readByte s.mem.bytes (ctxEntryAt s p ctx + 8)).toNat 0
/-- The handler core, or none under route 0; a handler outside the partition is route 0. -/
def ctxHandler (s : State) (p ctx : Nat) : Option Nat :=
  let a := ctxEntryAt s p ctx
  let core := readNat s.mem.bytes (a + 0x0A) 2
  if bit (readByte s.mem.bytes (a + 8)).toNat 1 && partOfCore core == p && core < 768 then some core else none
def ctxQuota (s : State) (p ctx : Nat) : Nat := readNat s.mem.bytes (ctxEntryAt s p ctx + 0x0C) 4

/-- Walks a paged intermediate address in its home partition. -/
def walk (s : State) (p ctx ia : Nat) : Walk :=
  if ctxValid s p ctx then
    walkFrom s.mem.bytes p ia 3 (field (readNat s.mem.bytes (ctxEntryAt s p ctx) 8) 21 15 * 2 ^ 21)
  else .none 4

/-- Which replicas an access reaches (R75). -/
inductive Reach where
  /-- the replica on the issuer's die -/
  | near (die : Nat)
  /-- the home replica only -/
  | home
  deriving DecidableEq, Repr

/-- The partition that holds the replica of a page of partition `p` on die `d` (R387). -/
def replicaPart (p d : Nat) : Nat := if dieOfPart p = d then p else 2 * d + p % 2

/-- Ownership of one 64 KiB page of a leaf (R356): bit 4 of the leaf, but for flipped pages of a larger leaf. -/
def hostOwns (s : State) (ctx ia e bits : Nat) : Bool :=
  bit e 4 != (bits != 16 && s.mem.flipped.contains (ctx, ia / 65536))

/-- A byte at its intermediate address (R51): `write` says that host-owned and read-only pages matter. DESIGN CHOICE
(log 69): bits 47:35 of an address in region 8 are ignored. -/
def byteAtIa (s : State) (ctx : Nat) (reach : Reach) (write : Bool) (ia : Nat) : ByteAt :=
  let region := field ia 48 4
  if region < 8 then
    match walk s region ctx ia with
    | .none flags => .noPage region ia (flags + (if write then 1 else 0))
    | .leaf e _ bits =>
      if hostOwns s ctx ia e bits then .hostOwned region ia
      else if write && bit e 2 then .readOnly region ia
      else
        let a := field e 8 28 * 256 + ia % 2 ^ bits
        let p := match reach with
          | .near d => if bit e 3 then replicaPart region d else region
          | .home => region
        .mem (hbmPlace p a) (hbmPlace region (a / 65536 * 65536))
  else if region = 8 then
    let p := field ia 32 3
    let o := field ia 0 32
    if (partOf s p).carve ≤ o then .range else .mem (carvePlace p o) (carvePlace p o)
  else if region = 9 then .host (field ia 0 48)
  else .range

/-- A host bus address lies in a window of the tenant (R343). -/
def inWindow (s : State) (tenant a : Nat) : Bool :=
  match mget s.functions tenant with
  | some f => f.windows.any fun w => w.2.1.toNat ≤ a && a < w.2.2.toNat
  | none => false

/-- One byte of a global access (R50). -/
def byteAt (s : State) (d : District) (reach : Reach) (need : Nat) (va : Nat) : ByteAt :=
  match rangeOf d va with
  | none => .range
  | some g =>
    if !permits g need then .permission
    else
      let ia := (va + g.offset.toNat) % 2 ^ 52
      if field ia 48 4 ≥ 10 then .range
      else if field ia 48 4 = 9 && (g.node = s.fabric.node || g.node = 0x1FFF) && !inWindow s d.tenant (field ia 0 48) then .range
      else if g.node = s.fabric.node || g.node = 0x1FFF then
        byteAtIa s d.ctx reach (need &&& permW != 0) ia
      else if g.node > 6143 then .range
      else if (mget s.fabric.routes g.node).getD 0 = 0 then .range
      else .remote g.node ia

/-- The bytes of an access of `n` bytes, with their virtual addresses. -/
def bytesAt (s : State) (d : District) (reach : Reach) (need va : Nat) : Nat → List (Nat × ByteAt)
  | 0 => []
  | n + 1 => (va, byteAt s d reach need va) :: bytesAt s d reach need ((va + 1) % 2 ^ 64) n

/-- What an access of a lane meets, the first of these in byte order (R50, R54, R296). -/
inductive Reached where
  /-- every byte lies in this package's memory -/
  | places (ps : List Nat)
  | fault (cause addr : Nat)
  | noPage (part ia flags : Nat)
  | remote (node : Nat) (ps : List Nat)
  | host (ps : List Nat)
  | hostOwned (part ia : Nat)
  | readOnly (part ia : Nat)
  deriving DecidableEq, Repr

/-- The first permission or range fault in increasing address. -/
def firstFault : List (Nat × ByteAt) → Option (Nat × Nat)
  | [] => none
  | (a, .permission) :: _ => some (3, a)
  | (a, .range) :: _ => some (4, a)
  | _ :: r => firstFault r

def firstHeld : List (Nat × ByteAt) → Option Reached
  | [] => none
  | (_, .noPage p ia f) :: _ => some (.noPage p ia f)
  | (_, .hostOwned p ia) :: _ => some (.hostOwned p ia)
  | (_, .readOnly p ia) :: _ => some (.readOnly p ia)
  | _ :: r => firstHeld r

/-- The place of a byte, wherever it lies. -/
def placeOf : ByteAt → Nat
  | .mem p _ => p
  | .remote n ia => remotePlace n ia
  | .host a => hostPlace a
  | _ => 0

def reachAll (bs : List (Nat × ByteAt)) : Reached :=
  match firstFault bs with
  | some (c, a) => .fault c a
  | none =>
    match firstHeld bs with
    | some r => r
    | none =>
      let ps := bs.map fun b => placeOf b.2
      match bs.find? fun b => match b.2 with | .remote .. => true | _ => false with
      | some (_, .remote n _) => .remote n ps
      | _ =>
        if bs.any fun b => match b.2 with | .host _ => true | _ => false then .host ps else .places ps

def access (s : State) (d : District) (reach : Reach) (need va n : Nat) : Reached :=
  reachAll (bytesAt s d reach need va n)

/-! ## Bytes at places -/

def readPlaces (s : State) (ps : List Nat) : List Byte := ps.map (readByte s.mem.bytes)

/-- Place `p` lies in a frame mapped by two leaves, of two contexts (R53) or of one (R386), one of which may write it. -/
def sharedPlace (s : State) (p : Nat) : Bool :=
  match s.mem.frames.filter fun f => f.place ≤ p && p < f.place + f.size with
  | [] | [_] => false
  | f :: r => (f :: r).any (·.writable) && r.any fun g => g.ctx ≠ f.ctx || g.ia ≠ f.ia

/-- The bytes that a read of the places returns: those of a shared frame are free values (R53). -/
def seenBytes (s : State) : List Nat → Nat → List Byte
  | [], _ => []
  | p :: ps, i => (if sharedPlace s p then Config.sharedByte (s.free + i) else readByte s.mem.bytes p) :: seenBytes s ps (i + 1)

/-- Such a read uses up the free values it took. -/
def tookShared (s t : State) (ps : List Nat) : State :=
  if ps.any (sharedPlace s) then { t with free := t.free + ps.length } else t
def writePlaces (m : Memory) : List Nat → List Byte → Memory
  | p :: ps, b :: bs => writePlaces (writeByte m p b) ps bs
  | _, _ => m

def lineOf (place : Nat) : Nat := place / 128

/-- Marks lines dirty in the issuing core's first-level cache (R77, R390). -/
def dirtyLines (s : State) (core : Nat) (ps : List Nat) : State :=
  let ls := (ps.map lineOf).eraseDups.filter fun l => l * 128 < 2 ^ 41
  { s with mem := { s.mem with l1Dirty := (ls.map fun l => (core, l)) ++ s.mem.l1Dirty.filter fun e => !ls.contains e.2 } }

/-- Marks lines dirty at their home slices: what was dirty in a first-level cache is written back (R390). -/
def dirtyAtSlice (s : State) (ps : List Nat) : State :=
  let ls := (ps.map lineOf).eraseDups.filter fun l => l * 128 < 2 ^ 41
  { s with mem := { s.mem with
      sliceDirty := ls ++ s.mem.sliceDirty.filter (fun l => !ls.contains l),
      l1Dirty := s.mem.l1Dirty.filter fun e => !ls.contains e.2 } }

/-- The partition of a carve-out line. -/
def carvePart (l : Nat) : Option Nat :=
  if 2 ^ 40 ≤ l * 128 && l * 128 < 2 ^ 41 then some ((l * 128 - 2 ^ 40) / 2 ^ 32) else none
/-- A line is marked poisoned, alone or with its whole carve-out (R389, R390). -/
def linePoisoned (s : State) (l : Nat) : Bool :=
  s.mem.poison.contains l || (match (carvePart l).bind (mget s.mem.carveLost) with
    | some whole => !whole.contains l
    | none => false)

/-- A poisoned line among the places (R389). -/
def poisoned (s : State) (ps : List Nat) : Bool := ps.any fun p => linePoisoned s (lineOf p)

/-- A write of a whole line clears its poison mark, a partial write leaves it (R389). -/
def clearPoison (s : State) (ps : List Nat) : State :=
  let whole := fun l => (List.range 128).all fun i => ps.contains (l * 128 + i)
  let lost := s.mem.carveLost.map fun e => (e.1, e.2 ++
    ((ps.map lineOf).eraseDups.filter fun l => carvePart l = some e.1 && !e.2.contains l && whole l))
  { s with mem := { s.mem with
      poison := s.mem.poison.filter (fun l => !(ps.contains (l * 128) && whole l)), carveLost := lost } }

/-- The bit of a leaf (6 accessed, 7 dirty) is set at the entry by the home slice (R379). -/
def markLeaf (s : State) (ctx ia : Nat) (write : Bool) : State :=
  let region := field ia 48 4
  if region < 8 then
    match walk s region ctx ia with
    | .leaf e at_ _ =>
      let e' := e ||| 64 ||| (if write then 128 else 0)
      if e' = e then s else modMem s fun m => writeNat m at_ 8 e'
    | .none _ => s
  else s

/-- Marks the leaves of an access of `n` bytes from `va` (R379). -/
def markAccess (s : State) (d : District) (write : Bool) (va n : Nat) : State :=
  let mark := fun (s : State) (a : Nat) =>
    match rangeOf d a with
    | some g => if g.node = s.fabric.node || g.node = 0x1FFF then
        markLeaf s d.ctx ((a + g.offset.toNat) % 2 ^ 52) write else s
    | none => s
  let last := (va + n - 1) % 2 ^ 64
  if va / 65536 = last / 65536 then mark s va else mark (mark s va) last

/-- The bit of a host page among the windows, from bit `acc` on (R355). -/
def windowBit (addr : Nat) : List (Nat × (W64 × W64)) → Nat → Option Nat
  | [], _ => none
  | (_, (b, l)) :: r, acc =>
    if b.toNat ≤ addr && addr < l.toNat then some (acc + (addr - b.toNat) / 4096)
    else windowBit addr r (acc + (l.toNat - b.toNat + 4095) / 4096)

/-- A device write to host memory under dirty tracking sets the page's bit before the write (R355). -/
def markHostWrite (s : State) (addr : Nat) : State :=
  s.functions.foldl (fun s e =>
    if e.1 ≥ 1 && e.2.dirtyOn then
      match windowBit addr e.2.windows 0 with
      | some i =>
        let at_ := hostPlace ((e.2.dirtyAddr.toNat + i / 8) % 2 ^ 48)
        modMem s fun m => writeByte m at_ (readByte m at_ ||| BitVec.ofNat 8 (2 ^ (i % 8)))
      | none => s
    else s) s

/-- The marks of writes to host places. -/
def markHostPlaces (s : State) (ps : List Nat) : State :=
  ps.foldl (fun s p => if hostPlace 0 ≤ p && p < 2 ^ 65 then markHostWrite s (p - hostPlace 0) else s) s

/-- Writes bytes at places for a core: the marks of host pages unless they stand already, memory, poison, dirty lines. -/
def rawStore (s : State) (core : Nat) (wide : Bool) (ps : List Nat) (bs : List Byte) (marked : Bool := false) : State :=
  let s := if marked then s else markHostPlaces s ps
  let s := modMem s fun m => writePlaces m ps bs
  let s := clearPoison s ps
  if wide then dirtyAtSlice s ps else dirtyLines s core ps

/-! ## Atomic operations on a value of `w` bits (R232 to R234) -/

/-- The new value and flags of an atomic operation (R233). -/
def atomValue (aop w old x : Nat) : Nat × Nat :=
  let f : Fmt := if w = 64 then .f64 else .f32
  match aop with
  | 0 => ((old + x) % 2 ^ w, 0)
  | 1 => (if sval w old ≤ sval w x then old else x, 0)
  | 2 => (if sval w old ≤ sval w x then x else old, 0)
  | 3 => (min old x, 0)
  | 4 => (max old x, 0)
  | 5 => (old &&& x, 0)
  | 6 => (old ||| x, 0)
  | 7 => (old ^^^ x, 0)
  | 8 => (x, 0)
  | 9 => fpAdd f .rne false old x
  | 10 => fpMinMax f false old x
  | _ => fpMinMax f true old x

/-- A compare-and-swap's success and new value (R234); `cmp` is the compare value or the version. -/
def casValue (op : MemOp) (w old new cmp : Nat) : Bool × Nat :=
  match op with
  | .cas => (old == cmp, new)
  | .casgt signed => (if signed then decide (sval w new > sval w old) else decide (new > old), new)
  | .casver =>
    let k := if w = 32 then 8 else 16
    let ver := old / 2 ^ (w - k)
    (ver == cmp % 2 ^ k, new % 2 ^ (w - k) + (ver + 1) % 2 ^ k * 2 ^ (w - k))
  | .casptr =>
    let m := if w = 64 then 16 else 64
    (old == cmp, new % 2 ^ (w - m) + (old / 2 ^ (w - m) + 1) % 2 ^ m * 2 ^ (w - m))
  | _ => (false, new)

/-- Permissions that an operation needs (R50, R222). -/
def needOf : MemOp → Nat
  | .load _ => permR
  | .store | .multicast => permW
  | .replsync => permR + permW
  | _ => permA + permR + permW

/-- The access field of FAULTCAUSE (R295). -/
def accessCode : MemOp → Nat
  | .load _ => 1
  | .store | .multicast | .replsync => 2
  | _ => 3

def isAtomicOp : MemOp → Bool
  | .atom _ | .red _ | .cas | .casgt _ | .casver | .casptr | .pcall _ => true
  | _ => false

/-- Operations that retire into the side log when they find no page (R54). -/
def retires (r : MemReq) : Bool :=
  match r.op with
  | .store | .multicast | .red _ => true
  | .atom _ => !r.ret
  | _ => false

/-- Region 0x9 admits loads, stores, integer add and exchange, and cas (R224); there `stm` acts as a store (R229). -/
def hostAdmits : MemOp → Bool
  | .load _ | .store | .multicast => true
  | .atom a | .red a => a == 0 || a == 8
  | .cas => true
  | _ => false

/-- The replica places of a byte's page when it is replicated (R387). -/
def replicaPlaces (s : State) (d : District) (va : Nat) : List Nat :=
  match rangeOf d va with
  | none => []
  | some g =>
    let ia := (va + g.offset.toNat) % 2 ^ 52
    let region := field ia 48 4
    if region ≥ 8 then []
    else match walk s region d.ctx ia with
      | .leaf e _ bits =>
        let a := field e 8 28 * 256 + ia % 2 ^ bits
        if bit e 3 then ([0, 1, 2, 3].map fun die => hbmPlace (replicaPart region die) a).eraseDups else []
      | .none _ => []

end Sys2Proof.Machine
end

