-- ==== Sys2Proof/Machine/Fetch.lean ====
section
/-! DEFINITION. Code memory (R49) and the fetcher: clause headers, instruction bytes, fall-through and pool blocks
(R147 to R150, R162, R164). -/

namespace Sys2Proof.Machine

/-- What a read of code memory gives: bytes, a fault of R50, or a page that is missing. -/
inductive CodeRead where
  | bytes (bs : List Byte)
  | fault (cause addr : Nat)
  | missing (part ia flags : Nat)
  deriving DecidableEq, Repr

/-- The location of a byte for code memory (R53): node, context and intermediate address in one number. -/
def codeKey (s : State) (d : District) (va : Nat) : Nat :=
  match rangeOf d va with
  | none => 0
  | some g =>
    let ia := (va + g.offset.toNat) % 2 ^ 52
    ((if g.node = 0x1FFF then s.fabric.node else g.node) * 2 ^ 12 + (if field ia 48 4 < 8 then d.ctx else 0)) * 2 ^ 52 + ia

/-- A byte of code: what code-object loads left at its location. Fetch and `ldl` observe no store (R49); where no
object has been loaded they read as memory that nothing has written. -/
def codeByte (s : State) (d : District) (va : Nat) : Byte := readByte s.mem.code (codeKey s d va)

/-- Bytes of code under the X permission (R149, R175). -/
def codeBytes (s : State) (d : District) (va n : Nat) : CodeRead :=
  match access s d .home permX va n with
  | .places _ | .host _ | .remote _ _ => .bytes ((List.range n).map fun i => codeByte s d ((va + i) % 2 ^ 64))
  | .fault c a => .fault c a
  | .hostOwned .. => .fault 3 va
  | .noPage p ia f => .missing p ia f
  | .readOnly .. => .fault 3 va

/-- A clause header (R148). -/
structure Header where
  count : Nat
  cls : Nat
  wait : Nat
  pool : Nat
  deriving DecidableEq, Repr

def headerOf (x : Nat) : Header := ⟨field x 28 4, field x 25 3, field x 19 6, field x 0 18⟩

/-- Reason 1 of R164. -/
def headerBad (h : Header) : Bool := h.cls ≥ 5 || h.count == 0 || h.pool != 0

/-- The clause address and slot of a PC (R147). -/
def clauseOf (pc : Nat) : Nat := pc / 16 * 16
def slotOf (pc : Nat) : Nat := pc % 16

/-- The 16-byte boundary after a clause of `n` instructions (R147). -/
def clauseEnd (c n : Nat) : Nat := (c + roundUp (4 + 10 * n) 16) % 2 ^ 64

/-- Where fall-through goes on, and the missing page that stopped the reading there, if one did. -/
structure Fall where
  pc : Nat
  miss : Option (Nat × Nat × Nat)
  deriving DecidableEq, Repr

/-- Fall-through from `pc`, past at most so many pool blocks (R149). -/
def skipBlocks (s : State) (d : District) : Nat → Nat → Fall
  | 0, pc => ⟨pc, none⟩
  | fuel + 1, pc =>
    match codeBytes s d pc 4 with
    | .bytes bs =>
      let h := headerOf (ofBytes bs)
      if h.cls == 7 && h.count == 0 then skipBlocks s d fuel ((pc + 16 + 16 * h.pool) % 2 ^ 64) else ⟨pc, none⟩
    | .fault .. => ⟨pc, none⟩
    | .missing p ia f => ⟨pc, some (p, ia, f)⟩

/-- More blocks than the address space has. -/
def poolLimit : Nat := 2 ^ 61

/-- Where fall-through from `pc` goes on (R149). -/
def skipPools (s : State) (d : District) (pc : Nat) : Fall := skipBlocks s d poolLimit pc

/-- The instruction that stands at a PC. -/
inductive Fetched where
  | instr (hdr : Header) (i : Instr) (clause slot : Nat)
  /-- every fibre of the convoy faults, at this PC (R149, R164) -/
  | fault (pc : Nat) (f : FaultRec)
  | missing (part ia flags : Nat)
  deriving DecidableEq, Repr

/-- Fetch of the instruction word without its decode checks: the header with reasons 1 and 2, and the word. -/
inductive Word80 where
  | word (hdr : Header) (w : BitVec 80)
  | fault (pc : Nat) (f : FaultRec)
  | missing (part ia flags : Nat)
  deriving DecidableEq, Repr

def faultFetch (cause addr : Nat) : FaultRec := { cause := cause, access := 4, addr := addr }

/-- R147 to R149: the word at a PC. -/
def fetchWord (s : State) (d : District) (pc : Nat) : Word80 :=
  let c := clauseOf pc
  match codeBytes s d c 4 with
  | .fault k a => .fault pc (faultFetch k a)
  | .missing p ia f => .missing p ia f
  | .bytes hb =>
    let h := headerOf (ofBytes hb)
    if headerBad h then .fault c (faultIllegal 1)
    else if slotOf pc ≥ h.count then .fault pc (faultIllegal 2)
    else match codeBytes s d ((c + 4 + 10 * slotOf pc) % 2 ^ 64) 10 with
      | .fault k a => .fault pc (faultFetch k a)
      | .missing p ia f => .missing p ia f
      | .bytes bs => .word h (BitVec.ofNat 80 (ofBytes bs))

/-- R164: reasons 3, 7, 4, 5 and 6 at the instruction's PC. -/
def decodeAt (h : Header) (pc : Nat) (w : BitVec 80) : Fetched :=
  match decode h.cls (slotOf pc + 1 = h.count) (clauseOf pc) w with
  | .ok i => .instr h i (clauseOf pc) (slotOf pc)
  | .illegal r => .fault pc (faultIllegal r)

/-- Tags that the instruction at a PC waits on: its wait field and, for slot 0, the header's mask (R150, R310). -/
def waitsAt (h : Header) (slot : Nat) (w : BitVec 80) : Nat :=
  (w.extractLsb' 64 6).toNat ||| (if slot = 0 then h.wait else 0)

end Sys2Proof.Machine
end

