-- ==== Sys2Proof/Machine/Replay.lean ====
section
/-! DEFINITION. Accesses on a district's behalf by its own hardware, inherited fields (R33), fault records (R388)
and the replay ring (R417 to R423). -/

namespace Sys2Proof.Machine

/-! ## The control block (R33, R333) -/

def blkNat (d : District) (off n : Nat) : Nat := ofBytes ((d.block.drop off).take n)

/-- A reload keeps the old copy of a district for what was accepted before it (R335): copies of district d have keys
from 2^32 on that are d modulo 2^32. -/
def realDistrict (k : Nat) : Nat := k % 2 ^ 32

/-- The nearest district on the path to the root whose set bit `b` is set (R33). -/
def setter (s : State) : Nat → Nat → Nat → Option District
  | 0, _, _ => none
  | fuel + 1, d, b =>
    match districtAt s d with
    | none => none
    | some x => if bit (blkNat x 8 4) b then some x else match x.parent with
      | some p => setter s fuel p b
      | none => none

/-- A field of a group, inherited under R33; 0 where no ancestor sets it. -/
def inherited (s : State) (d b off n : Nat) : Nat :=
  match setter s 9 d b with
  | some x => blkNat x off n
  | none => 0

/-! ## Accesses by the district's hardware and firmware -/

/-- The places of `n` bytes at a district virtual address, where its range registers give permission `need` and all
of them are mapped in some memory. -/
def placesWith (s : State) (d need va n : Nat) : Option (List Nat) :=
  match districtAt s d with
  | none => none
  | some x => match access s x .home need va n with
    | .places ps | .host ps | .remote _ ps => some ps
    | _ => none

def placesFor (s : State) (d : Nat) (va n : Nat) : Option (List Nat) := placesWith s d 0 va n

def readFor (s : State) (d va n : Nat) : Nat :=
  match placesFor s d va n with
  | some ps => ofBytes (readPlaces s ps)
  | none => 0
def bytesFor (s : State) (d va n : Nat) : List Byte :=
  match placesFor s d va n with
  | some ps => readPlaces s ps
  | none => []
def writeFor (s : State) (d va : Nat) (bs : List Byte) : State :=
  match placesFor s d va bs.length with
  | some ps => rawStore s 0 true ps bs
  | none => s

/-! ## Fault records (R388) -/

structure FaultRecord where
  event : Nat
  code : Nat := 0
  part : Nat := 0
  core : Nat := 0xFFFF
  slot : Nat := 0xFF
  lanes : Nat := 0
  ctx : Nat := 0
  va : Nat := 0
  deriving DecidableEq, Repr

/-- Writes a fault record, then the posted count, into the ring of the district's fault domain. -/
def postFault (s : State) (k : Nat) (r : FaultRecord) : State :=
  let d := realDistrict k
  match setter s 9 d 2, districtAt s d with
  | some x, some _ =>
    let ring := blkNat x 0x010 8
    let entries := blkNat x 0x018 4
    let owner := (mkeys s.districts).find? fun k => districtAt s k = some x
    let k := owner.getD d
    let j := x.faultsPosted
    if entries = 0 then s
    else
      let bs := toBytes 1 r.event ++ toBytes 1 r.code ++ toBytes 1 r.part ++ toBytes 1 0 ++ toBytes 2 r.core ++
        toBytes 1 r.slot ++ toBytes 1 0 ++ toBytes 4 r.lanes ++ toBytes 2 r.ctx ++ toBytes 2 0 ++ toBytes 8 r.va ++
        toBytes 8 j
      let s := writeFor s k (ring + 0x20 + 32 * (j % entries)) bs
      let s := writeFor s k ring (toBytes 8 (j + 1))
      modDistrict s k fun y => { y with faultsPosted := y.faultsPosted + 1 }
  | _, _ => s

/-- Posts a district code 48 to 51 as event 2 (R295, R388). -/
def postCode (s : State) (d code core : Nat) : State :=
  postFault s d { event := 2, code := code, part := if core < 768 then partOfCore core else 0, core := core,
                  ctx := ((districtAt s d).map (·.ctx)).getD 0 }

/-! ## The replay ring (R417 to R423) -/

/-- A replay record but for its sequence number (R418). -/
structure RRec where
  kind : Nat
  check : Nat
  core : Nat
  slot : Nat
  lane : Nat
  detail : Nat
  object : Nat
  second : Nat
  deriving DecidableEq, Repr

def rrecBytes (j : Nat) (r : RRec) : List Byte :=
  toBytes 5 j ++ toBytes 1 r.kind ++ toBytes 2 r.check ++ toBytes 2 r.core ++ toBytes 1 r.slot ++ toBytes 1 r.lane ++
    toBytes 4 r.detail ++ toBytes 8 r.object ++ toBytes 8 r.second

def replayRing (s : State) (d : Nat) : Nat := inherited s d 6 0x038 8
def replayEntries (s : State) (d : Nat) : Nat := inherited s d 6 0x040 4

/-- The mode of SY_REPLAY in force, which the control block gives: 0 off, 1 recording, 2 replaying; off without a ring (R299,
R333). The reserved value 3 reads as itself, and nothing is recorded or replayed under it. -/
def replayMode (s : State) (d : Nat) : Nat :=
  if replayRing s d = 0 || replayEntries s d = 0 then 0 else field (inherited s d 3 0x01C 4) 1 2

/-- Head and tail as they stand in the ring's header. -/
def replayHead (s : State) (d : Nat) : Nat := readFor s d (replayRing s d) 8
def replayTail (s : State) (d : Nat) : Nat := readFor s d (replayRing s d + 8) 8

def rrecAt (s : State) (d j : Nat) : List Byte :=
  bytesFor s d (replayRing s d + 0x20 + 32 * (j % replayEntries s d)) 32

/-- The record at tail names this kind, agent and object (R422). -/
def rrecNames (bs : List Byte) (r : RRec) : Bool :=
  let f := fun off n => ofBytes ((bs.drop off).take n)
  f 5 1 == r.kind && f 8 2 == r.core && f 0x0A 1 == r.slot && f 0x0B 1 == r.lane && f 0x10 8 == r.object &&
    ((r.kind != 4 && r.kind != 8) || f 0x0C 4 == r.detail)

/-- The agent of the record at tail is this one (R423): its next event must be the record's. -/
def rrecAgent (bs : List Byte) (r : RRec) : Bool :=
  let f := fun off n => ofBytes ((bs.drop off).take n)
  f 8 2 == r.core && f 0x0A 1 == r.slot && f 0x0B 1 == r.lane &&
    ((r.kind != 4 && r.kind != 8) || f 0x0C 4 == r.detail)

inductive Gate where
  | go
  | stall
  | diverge
  deriving DecidableEq, Repr

/-- Whether an event that needs a record may resolve now (R421, R422). -/
def replayGate (s : State) (d : Nat) (r : RRec) : Gate :=
  match replayMode s d with
  | 1 => if replayHead s d - replayTail s d ≥ replayEntries s d then .stall else .go
  | 2 =>
    if ((districtAt s d).map (·.replay.diverged)).getD false then .stall
    else if replayHead s d ≤ replayTail s d then .stall
    else
      let bs := rrecAt s d (replayTail s d)
      if rrecNames bs r then .go else if rrecAgent bs r then .diverge else .stall
  | _ => .go

/-- R423: district code 49, and tail stays. -/
def diverge (s : State) (d core : Nat) : State :=
  let s := postCode s d 49 core
  modDistrict s d fun x => { x with replay := { x.replay with diverged := true } }

/-- Records an event that has resolved, or compares it and advances tail (R421, R422). The second value says that
the checks differed. -/
def replayLog (s : State) (d : Nat) (r : RRec) : State × Bool :=
  match replayMode s d with
  | 1 =>
    let j := replayHead s d
    let s := writeFor s d (replayRing s d + 0x20 + 32 * (j % replayEntries s d)) (rrecBytes j r)
    (writeFor s d (replayRing s d) (toBytes 8 (j + 1)), false)
  | 2 =>
    let t := replayTail s d
    let bs := rrecAt s d t
    if rrecNames bs r && ofBytes ((bs.drop 6).take 2) == r.check then
      (writeFor s d (replayRing s d + 8) (toBytes 8 (t + 1)), false)
    else (diverge s d r.core, true)
  | _ => (s, false)

/-- XOR of the 16-bit fields of a value of `n` bytes (R226). -/
def xor16 : Nat → Nat → Nat
  | 0, _ => 0
  | n + 1, x => (x % 65536) ^^^ xor16 n (x / 65536)

end Sys2Proof.Machine
end

