-- ==== Sys2Proof/Machine/Trace.lean ====
section
/-! DEFINITION. Capture, trace records and monitors (R406 to R409, R412 to R414), and the one write path through
which every write of the package reaches memory and its monitors. -/

namespace Sys2Proof.Machine

def modDebug (s : State) (d : Nat) (f : Debug → Debug) : State :=
  modDistrict s d fun x => { x with dbg := f x.dbg }

/-- A trace record but for its sequence number (R407). -/
structure TraceRec where
  kind : Nat
  id : Nat
  core : Nat := 0xFFFF
  slot : Nat := 0xFF
  flags : Nat := 0
  lanes : Nat := 0
  value : Nat := 0
  cycles : Nat := 0
  deriving DecidableEq, Repr

def traceBytes (seq : Nat) (r : TraceRec) : List Byte :=
  toBytes 5 seq ++ toBytes 1 r.kind ++ toBytes 2 r.id ++ toBytes 2 r.core ++ toBytes 1 r.slot ++ toBytes 1 r.flags ++
    toBytes 4 r.lanes ++ toBytes 8 r.value ++ toBytes 8 r.cycles

/-- Places of `n` bytes that the district's W permission admits (R406). -/
def writablePlaces (s : State) (d : District) (va n : Nat) : Option (List Nat) :=
  match access s d .home permW va n with
  | .places ps | .host ps | .remote _ ps => some ps
  | _ => none

/-- Writes a trace record while capture runs, then the count; a write that fails translation is dropped and counted,
and its sequence number is skipped (R406, R407). -/
def traceRec (s : State) (k : Nat) (r : TraceRec) : State :=
  match districtAt s k with
  | none => s
  | some d =>
    let t := d.dbg.trace
    if d.dbg.capture ≠ 1 || t.ring = 0 || t.entries = 0 then s
    else
      let at_ := (t.ring.toNat + 0x20 + 32 * (t.seq % t.entries)) % 2 ^ 64
      let bump := fun (s : State) (w x : Nat) => modDebug s k fun y => { y with trace := { y.trace with
        seq := (y.trace.seq + 1) % 2 ^ 40, written := y.trace.written + w, dropped := y.trace.dropped + x } }
      match writablePlaces s d at_ 32, writablePlaces s d t.ring.toNat 8 with
      | some ps, some qs =>
        let s := rawStore s 0 true ps (traceBytes t.seq r)
        bump (rawStore s 0 true qs (toBytes 8 (t.seq + 1))) 1 0
      | _, _ => bump s 0 1

def setCapture (s : State) (k n : Nat) : State := modDebug s k fun y => { y with capture := n }
def captureOf (s : State) (k : Nat) : Nat := ((districtAt s k).map (·.dbg.capture)).getD 0

/-- The actions of R413, by a monitor's number or 0xFFFF. -/
def captureStart (s : State) (k num : Nat) : State :=
  if captureOf s k = 2 then s else traceRec (setCapture s k 1) k { kind := 5, id := num }
def captureStop (s : State) (k num : Nat) : State :=
  if captureOf s k = 2 then s else setCapture (traceRec s k { kind := 6, id := num }) k 0
def captureFreeze (s : State) (k num : Nat) : State :=
  setCapture (traceRec s k { kind := 7, id := num }) k 2
def captureUnfreeze (s : State) (k : Nat) : State := setCapture s k 0

/-! ## Monitors -/

/-- The places of a monitor's word, where it lies in this package's memory. -/
def monitorPlaces (s : State) (m : Monitor) : List Nat :=
  if m.node ≠ s.fabric.node && m.node ≠ 0x1FFF then [] else
  (List.range 4).filterMap fun i => match byteAtIa s m.ctx .home false (m.ia + i) with
    | .mem p _ => some p
    | _ => none

def monitorTrue (m : Monitor) (x : Nat) : Bool :=
  match m.cond with
  | 1 => x == m.operand.toNat
  | 2 => x != m.operand.toNat
  | 3 => decide (x < m.operand.toNat)
  | 4 => decide (m.operand.toNat ≤ x)
  | _ => false

/-- A hit: the record while capture runs, then the action (R413). -/
def monitorHit (s : State) (k num : Nat) (m : Monitor) (x : Nat) : State :=
  let s := traceRec s k { kind := 4, id := num, value := x }
  match m.action with
  | 1 => captureStart s k num
  | 2 => captureStop s k num
  | 3 => captureFreeze s k num
  | _ => s

/-- All monitors of all districts, with their district and number. -/
def allMonitors (s : State) : List (Nat × Nat × Monitor) :=
  s.districts.flatMap fun d => d.2.dbg.monitors.map fun m => (d.1, m.1, m.2)

/-- The value of the watched word, where it lies in this package's memory. -/
def monitorValue (s : State) (m : Monitor) : Option Nat :=
  let qs := monitorPlaces s m
  if qs.length = 4 then some (ofBytes (readPlaces s qs)) else none

/-- The home slice of a watched word sees the value that it has in `v`: a hit when the condition did not hold before. -/
def seeMonitor (v u : State) (k num : Nat) (m : Monitor) (before : Bool) : State :=
  match monitorValue v m with
  | none => u
  | some x => if !before && monitorTrue m x then monitorHit u k num m x else u

/-- The condition as it stands now; false where the word lies nowhere. -/
def monitorHolds (s : State) (m : Monitor) : Bool := ((monitorValue s m).map (monitorTrue m)).getD false

/-- Lines dirty in first-level caches reach their home slices (R413). -/
def homeSees (s : State) (ls : List Nat) : State :=
  (allMonitors s).foldl (fun u e =>
    let m := e.2.2
    if (monitorPlaces s m).any fun q => ls.contains (lineOf q) then seeMonitor s u e.1 e.2.1 m m.known else u) s

/-- A write of the places `ps` for context `ctx` led from `s` to `t` (R413). One that stays in a first-level cache is seen
when its line reaches the home slice; another is seen now, after what a first-level cache held of its lines. -/
def monitored (s : State) (ctx : Nat) (wide : Bool) (ps : List Nat) (t : State) : State :=
  let stays := !wide && ps.any (· < 2 ^ 41)
  (allMonitors s).foldl (fun u e =>
    let (k, num, m) := e
    let qs := monitorPlaces s m
    let near := qs.any fun q => (ps.map lineOf).contains (lineOf q)
    let dirty := near && qs.any fun q => s.mem.l1Dirty.any fun x => x.2 = lineOf q
    if stays then
      if near && !dirty then
        modDebug u k fun y => { y with monitors := mset y.monitors num { m with known := monitorHolds s m } }
      else u
    else
      let u := if dirty then seeMonitor s u k num m m.known else u
      if m.ctx = ctx && qs.any ps.contains then seeMonitor t u k num m (monitorHolds s m) else u) t

/-- Writes bytes at places for a context: memory, poison, dirty lines and monitors. -/
def storeAt (s : State) (ctx core : Nat) (wide : Bool) (ps : List Nat) (bs : List Byte) (marked : Bool := false) : State :=
  monitored s ctx wide ps (rawStore s core wide ps bs marked)

/-! ## Spans and samples (R409, R411) -/

/-- The span match of an identifier whose bit is set (R406). -/
def spanMatch (t : Trace) (id b : Nat) : Bool :=
  t.spans.any fun w => field w.toNat 0 16 == id && id != 0 && bit w.toNat b

end Sys2Proof.Machine
end

