-- ==== Sys2Proof/Machine/Access.lean ====
section
/-! DEFINITION. Performing one lane's global access: at once at its home, held, retired into the side log, sent to
another package, or faulting (R50 to R54, R69, R75, R224, R228 to R236, R356, R384 to R390, R434, R435); and the
accesses of a transaction (R71, R237). -/

namespace Sys2Proof.Machine

/-! ## Programmable routines (R236, R337) -/

/-- The state of an RV32 routine: x10 to x14 (the others hold what they were given, 0 at entry) and the window. -/
structure Rv where
  pc : Nat
  regs : List (Nat × W32)
  line : List Byte
  deriving DecidableEq, Repr

def rvReg (m : Rv) (i : Nat) : W32 := if i = 0 then 0 else rget m.regs i
def rvSet (m : Rv) (i : Nat) (x : W32) : Rv :=
  { m with regs := if i = 0 then m.regs else rset m.regs i x, pc := m.pc + 4 }

inductive RvEnd where
  | exit (m : Rv)
  | stop
  deriving DecidableEq, Repr

/-- Register and immediate arithmetic of RV32I by funct3 and the alternate bit. -/
def rvAlu (f3 : Nat) (alt : Bool) (a b : W32) : W32 :=
  match f3 with
  | 0 => if alt then a - b else a + b
  | 1 => a <<< (b.toNat % 32)
  | 2 => if a.toInt < b.toInt then 1 else 0
  | 3 => if a.toNat < b.toNat then 1 else 0
  | 4 => a ^^^ b
  | 5 => if alt then a.sshiftRight (b.toNat % 32) else a >>> (b.toNat % 32)
  | 6 => a ||| b
  | _ => a &&& b

def rvTaken (f3 : Nat) (a b : W32) : Option Bool :=
  match f3 with
  | 0 => some (a == b)
  | 1 => some (a != b)
  | 4 => some (decide (a.toInt < b.toInt))
  | 5 => some (!decide (a.toInt < b.toInt))
  | 6 => some (decide (a.toNat < b.toNat))
  | 7 => some (!decide (a.toNat < b.toNat))
  | _ => none

/-- One instruction of a routine: the next state, the exit, or a stop (R236, R337). -/
def rvStep (code : List W32) (m : Rv) : Rv ⊕ RvEnd :=
  match (if m.pc % 4 = 0 then code[m.pc / 4]? else none) with
  | none => .inr .stop
  | some w =>
    let x := w.toNat
    let op := x % 128
    let rd := field x 7 5
    let f3 := field x 12 3
    let a := rvReg m (field x 15 5)
    let b := rvReg m (field x 20 5)
    let f7 := field x 25 7
    let immI : Int := sval 12 (field x 20 12)
    let bimm : Int := sval 13 (field x 8 4 * 2 + field x 25 6 * 32 + field x 7 1 * 2048 + field x 31 1 * 4096)
    let jimm : Int := sval 21 (field x 21 10 * 2 + field x 20 1 * 2048 + field x 12 8 * 4096 + field x 31 1 * 2 ^ 20)
    let simm : Int := sval 12 (field x 7 5 + f7 * 32)
    let jump := fun (o : Int) =>
      let t : Int := m.pc + o
      if t < 0 || t ≥ 4 * code.length then Sum.inr RvEnd.stop else Sum.inl { m with pc := t.toNat }
    let word := fun (i : Int) => BitVec.ofInt 32 i
    match op with
    | 0x33 => if f7 = 0 || (f7 = 32 && (f3 = 0 || f3 = 5)) then .inl (rvSet m rd (rvAlu f3 (f7 = 32) a b)) else .inr .stop
    | 0x13 =>
      if f3 = 1 && f7 ≠ 0 then .inr .stop
      else if f3 = 5 && f7 ≠ 0 && f7 ≠ 32 then .inr .stop
      else .inl (rvSet m rd (rvAlu f3 (f3 = 5 && f7 = 32) a (word immI)))
    | 0x37 => .inl (rvSet m rd (BitVec.ofNat 32 (x / 4096 * 4096)))
    | 0x63 => match rvTaken f3 a b with
      | none => .inr .stop
      | some t => if t then jump bimm else .inl { m with pc := m.pc + 4 }
    | 0x6F => if rd = 0 then jump jimm else .inr .stop
    | 0x03 =>
      let addr : Int := a.toInt + immI
      let n : Nat := 2 ^ (f3 % 4)
      if f3 = 3 || f3 > 5 || addr < 0 || addr + n > 128 || addr % n ≠ 0 then .inr .stop
      else
        let v := ofBytes ((m.line.drop addr.toNat).take n)
        .inl (rvSet m rd (if f3 < 3 then word (sval (8 * n) v) else BitVec.ofNat 32 v))
    | 0x23 =>
      let addr : Int := a.toInt + simm
      let n : Nat := 2 ^ f3
      if f3 > 2 || addr < 0 || addr + n > 128 || addr % n ≠ 0 then .inr .stop
      else .inl { m with pc := m.pc + 4,
                         line := m.line.take addr.toNat ++ toBytes n b.toNat ++ m.line.drop (addr.toNat + n) }
    | 0x73 => if x = 0x73 then .inr (.exit m) else .inr .stop
    | _ => .inr .stop

/-- Runs a routine; retiring more than 64 instructions stops it (R236). -/
def rvRun (code : List W32) : Nat → Rv → RvEnd
  | 0, _ => .stop
  | fuel + 1, m => match rvStep code m with
    | .inl m' => rvRun code fuel m'
    | .inr e => e

def chunk4 : Nat → List Byte → List W32
  | 0, _ => []
  | n + 1, bs => BitVec.ofNat 32 (ofBytes (bs.take 4)) :: chunk4 n (bs.drop 4)

/-- The code of table entry `index` (R336): none where the entry is not valid. Its reserved bits are ignored (R7). -/
def routineCode (s : State) (d : District) (index : Nat) : Option (List W32) :=
  match d.routines[index]? with
  | none => none
  | some e =>
    let len := ofBytes ((e.drop 8).take 1)
    let fl := ofBytes ((e.drop 9).take 1)
    let va := ofBytes (e.take 8)
    if !bit fl 0 || len = 0 || len > 16 || va % 4 ≠ 0 then none
    else match codeBytes s d va (4 * len) with
      | .bytes bs => some (chunk4 len bs)
      | _ => none

/-! ## Performing at the home -/

/-- What became of a lane's access. -/
inductive Did where
  | done (s : State) (ws : List (Target × W32))
  /-- retired into the side log -/
  | logged (s : State)
  | fault (f : FaultRec)
  /-- held: the lane waits, by remote reply when `remote` -/
  | held (s : State) (remote : Bool)

/-- The value a load writes, by size and sign (R227). -/
def loadValue (size : Nat) (signed : Bool) (x : Nat) : Nat :=
  if size < 4 && signed then wrap 32 (sval (8 * size) x) else x

def regsFor (size : Nat) : Nat := if size ≤ 4 then 1 else size / 4

/-- The request changes memory when it is performed at places that hold `old`: a failed compare does not (R234). -/
def writesNow (r : MemReq) (old : Nat) : Bool :=
  match r.op with
  | .load _ | .replsync => false
  | .cas | .casgt _ | .casver | .casptr =>
    (casValue r.op (8 * r.size) old (r.data.toNat % 2 ^ (8 * r.size)) (r.cmp.toNat % 2 ^ (max (8 * r.size) 32))).1
  | _ => true

/-- Address of the first byte that lies in a poisoned line (R293, R389). -/
def poisonAddr (s : State) (va : Nat) (ps : List Nat) : Nat :=
  (va + (ps.takeWhile fun p => !linePoisoned s (lineOf p)).length) % 2 ^ 64

/-- Performs a request at the places of its bytes (R228, R233, R234, R236). -/
def performAt (s : State) (r : MemReq) (ps : List Nat) : Did :=
  let old := ofBytes (seenBytes s ps 0)
  let w := 8 * r.size
  let n := regsFor r.size
  let wide := r.scope ≥ 3
  let put := fun (s : State) (x : Nat) => storeAt s r.ctx r.core wide ps (toBytes r.size x) r.marked
  let ret := fun (x : Nat) => r.dst.zip (wordsOf n x)
  let bad : FaultRec := { cause := 25, access := accessCode r.op, addr := poisonAddr s r.va.toNat ps }
  match r.op with
  | .load sg => if poisoned s ps then .fault bad else .done (tookShared s s ps) (ret (loadValue r.size sg old))
  | .store | .multicast => .done (put s r.data.toNat) []
  | .atom a | .red a =>
    if poisoned s ps then .fault bad
    else
      let (x, fl) := atomValue a w old (r.data.toNat % 2 ^ w)
      .done (tookShared s (put s x) ps) (ret old ++ r.status.zip [BitVec.ofNat 32 fl])
  | .cas | .casgt _ | .casver | .casptr =>
    if poisoned s ps then .fault bad
    else
      let (ok, x) := casValue r.op w old (r.data.toNat % 2 ^ w) (r.cmp.toNat % 2 ^ (max w 32))
      .done (tookShared s (if ok then put s x else s) ps) (ret old)
  | .pcall index =>
    match districtAt s r.district with
    | none => .fault { cause := 10, access := 3, addr := r.va.toNat }
    | some d =>
      match routineCode s d index with
      | none => .fault { cause := 10, access := 3, addr := r.va.toNat }
      | some code =>
        if poisoned s ps then .fault bad
        else
          let base := (ps.headD 0) / 128 * 128
          let line := seenBytes s ((List.range 128).map (base + ·)) 0
          let m : Rv := ⟨0, rset (rset (rset (rset (rset [] 10 (BitVec.ofNat 32 (ps.headD 0 % 128)))
            11 (BitVec.ofNat 32 r.data.toNat)) 12 (if r.size = 8 then BitVec.ofNat 32 (r.data.toNat / 2 ^ 32) else 0))
            13 (BitVec.ofNat 32 r.cmp.toNat)) 14 (if r.size = 8 then BitVec.ofNat 32 (r.cmp.toNat / 2 ^ 32) else 0), line⟩
          match rvRun code 65 m with
          | .stop => .fault { cause := 10, access := 3, addr := r.va.toNat }
          | .exit e =>
            .done (storeAt s r.ctx r.core true ((List.range 128).map (base + ·)) e.line) (r.dst.zip [rvReg e 10, rvReg e 11])
  | .replsync => .done s []

/-- A page that an access did not find is reported once until named (R383, R303). -/
def reportMiss (s : State) (p ctx ia flags : Nat) : State :=
  let page := ia / 65536 * 65536
  modPart s p fun x =>
    if x.reported.any fun m => m.ctx = ctx && m.ia = page then x
    else { x with reported := ⟨ctx, page, flags⟩ :: x.reported, toPost := x.toPost ++ [⟨ctx, page, flags⟩] }

/-- Holds a lane's access (R54, R69, R390, R434, R435). -/
def holdReq (s : State) (r : MemReq) (why : HoldWhy) : State :=
  let (n, s) := takeSerial s
  modCore s r.core fun c => { c with held := c.held ++ [⟨r, why, n, false⟩] }

/-- Retires a lane's access into the core's side log (R54, R384). -/
def logReq (s : State) (r : MemReq) : State :=
  let (n, s) := takeSerial s
  modCore s r.core fun c => { c with log := c.log ++ [⟨r, .page, n, false⟩] }

/-- An owned line (R69): the location of R53, a context and a line of the intermediate address. -/
def ownKey (ctx ia : Nat) : Nat := (if field ia 48 4 = 8 then 0 else ctx) * 2 ^ 45 + ia / 128

/-- Where an owned line lies now. -/
def keyLine (s : State) (key : Nat) : Option Nat :=
  match byteAtIa s (key / 2 ^ 45) .home false (key % 2 ^ 45 * 128) with
  | .mem p _ => some (lineOf p)
  | _ => none

/-- A line of the places is owned by an engine operation (R69). -/
def engineOwns (s : State) (ps : List Nat) : Bool :=
  let ls := ps.map lineOf
  s.cores.any fun c => c.2.ops.any fun o => o.owns.any fun k => (keyLine s k).any ls.contains

/-- The location of a byte (R53): the node that holds it, the context that tags it there, and its intermediate address. -/
def locationOf (s : State) (d : District) (va : Nat) : Option (Nat × Nat × Nat) :=
  (rangeOf d va).map fun g =>
    let ia := (va + g.offset.toNat) % 2 ^ 52
    (if g.node = 0x1FFF then s.fabric.node else g.node, if field ia 48 4 < 8 then d.ctx else 0, ia)

/-- The locations of `n` bytes. -/
def locations (s : State) (k va n : Nat) : List (Nat × Nat × Nat) :=
  match districtAt s k with
  | none => []
  | some d => (List.range n).filterMap fun i => locationOf s d ((va + i) % 2 ^ 64)

def reqLocations (s : State) (r : MemReq) : List (Nat × Nat × Nat) := locations s r.district r.va.toNat r.size

/-- An entry of a side log that `core` or one of its fibres put there, from an instruction issued before flight `n`. -/
def logged (core n at_ : Nat) (h : Held) : Bool := h.req.flight < n && (at_ = core || h.req.core = core)

/-- Side logs hold bytes of the access, stored by the core earlier (R64), or by the fibre before it came to this core
(R58, R79). -/
def logHolds (s : State) (core n : Nat) (ls : List (Nat × Nat × Nat)) : Bool :=
  s.cores.any fun c => c.2.log.any fun h => logged core n c.1 h && (reqLocations s h.req).any ls.contains

/-- Home partition of an intermediate address, for a partition in reset (R390). -/
def homeReset (s : State) (d : District) (va : Nat) : Bool :=
  match rangeOf d va with
  | none => false
  | some g =>
    let ia := (va + g.offset.toNat) % 2 ^ 52
    let p := if field ia 48 4 < 8 then field ia 48 3 else field ia 32 3
    (g.node = s.fabric.node || g.node = 0x1FFF) && field ia 48 4 < 9 && !partReady s p

def writesMem : MemOp → Bool
  | .load _ => false
  | _ => true

/-! ## Order (R56, R57, R63, R64) -/

/-- A release at `.cluster` or wider has the core's earlier writes performed there; a narrower one leaves the
core's mark at the directory (R57, R64). -/
def releaseWrites (s : State) (core scope : Nat) (lines : List Nat) : State :=
  if scope ≥ 3 then
    let ls := (s.mem.l1Dirty.filter (·.1 = core)).map (·.2)
    homeSees { s with mem := { s.mem with
      sliceDirty := ls ++ s.mem.sliceDirty,
      l1Dirty := s.mem.l1Dirty.filter (·.1 ≠ core) } } ls
  else { s with mem := { s.mem with
      released := (lines.map fun l => (l, core)) ++ s.mem.released.filter fun e => !lines.contains e.1 } }

/-- Cores whose mark stands at one of the lines. -/
def markedCores (s : State) (lines : List Nat) : List Nat :=
  ((s.mem.released.filter fun e => lines.contains e.1).map Prod.snd).eraseDups

/-- A wide acquire that reads from these cores' narrow releases has their writes performed first (R57). -/
def promoteCores (s : State) (cs : List Nat) : State := cs.foldl (fun s c => releaseWrites s c 4 []) s

/-- A wide acquire of a line that a core released into narrowly (R57). -/
def promote (s : State) (scope : Nat) (lines : List Nat) : State :=
  if scope < 4 then s
  else
    let s := promoteCores s (markedCores s lines)
    { s with mem := { s.mem with released := s.mem.released.filter fun e => !lines.contains e.1 } }

def readsMem : MemOp → Bool
  | .store | .multicast | .replsync => false
  | _ => true

/-- Before an access is performed: its acquire, or what a later acquire fence of the fibre has to know (R63). -/
def beforeAccess (s : State) (r : MemReq) (lines : List Nat) : State :=
  if !readsMem r.op then s
  else if r.order % 2 = 1 && r.scope ≥ 4 then promote s r.scope lines
  else match markedCores s lines with
    | [] => s
    | cs => modWave s r.core r.slot fun w => modFibre w r.lane fun f => { f with heard := (f.heard ++ cs).eraseDups }

/-- After it: its release (R64), or that of a fence before it (R63). -/
def afterAccess (s : State) (r : MemReq) (wrote : Bool) (lines : List Nat) : State :=
  let fenced := match waveAt s r.core r.slot with
    | some w => match mget w.fibres r.lane with
      | some f => f.fenced
      | none => false
    | none => false
  if !wrote then s
  else if r.order ≥ 2 then releaseWrites s r.core r.scope lines
  else if fenced then releaseWrites s r.core 1 lines else s

/-- Performs a request with the order that its instruction gives it. -/
def performOrdered (s : State) (r : MemReq) (ps : List Nat) : Did :=
  let lines := (ps.map lineOf).eraseDups
  let wrote := writesNow r (ofBytes (seenBytes s ps 0))
  match performAt (beforeAccess s r lines) r ps with
  | .done t ws => .done (afterAccess t r wrote lines) ws
  | x => x

/-! ## Global accesses outside a transaction -/

/-- The first byte of a list that its owner, the host, denies to an operation that has not retired (R356). -/
def firstDenied (r : MemReq) : List (Nat × ByteAt) → Option (Nat × Nat)
  | [] => none
  | (a, .permission) :: _ => some (3, a)
  | (a, .range) :: _ => some (4, a)
  | (a, .hostOwned _ _) :: l => if retires r then firstDenied r l else some (3, a)
  | _ :: l => firstDenied r l

/-- A write of a lane that needs no reply goes to another node (R434). -/
def sendWrite (s : State) (node : Nat) (r : MemReq) : State :=
  let (n, s) := takeSerial s
  let same := s.fabric.writes.find? fun w => r.line && w.2.req.line && w.2.req.flight = r.flight
  match same with
  | some w => { s with fabric := { s.fabric with writes := mset s.fabric.writes n ⟨node, r, w.2.due⟩ } }
  | none =>
    let (w, s) := takeDelay s
    { s with fabric := { s.fabric with writes := mset s.fabric.writes n ⟨node, r, s.clock + 1 + w⟩ } }

/-- Permissions of a request: inside a transaction T as well (R50). -/
def reqNeed (r : MemReq) : Nat := needOf r.op + (if r.serial then permT else 0)

/-- Words that a serial lane writes in place (R226). -/
def noteInPlace (s : State) (r : MemReq) (wrote : Bool) : State :=
  if !(r.serial && wrote) then s
  else
    let words := (reqLocations s r).map fun e => e.2.2 / 8 * 8
    modWave s r.core r.slot fun w => modLane w r.lane fun x =>
      { x with tx := { x.tx with inPlace := words.foldl (fun l a => if l.contains a then l else l ++ [a]) x.tx.inPlace } }

/-- Some byte of the access lies at home in a partition that is resetting (R390). -/
def anyReset (s : State) (d : District) (va n : Nat) : Bool :=
  homeReset s d va || homeReset s d ((va + n - 1) % 2 ^ 64)

/-- Performs a request at this package's memory, on every replica for a multicast store (R75, R229). -/
def performHere (s : State) (d : District) (r : MemReq) (ps : List Nat) : Did :=
  let va := r.va.toNat
  let s := markAccess s d (writesMem r.op) va r.size
  let reps := (List.range r.size).map fun i => replicaPlaces s d ((va + i) % 2 ^ 64)
  match r.op with
  | .multicast =>
    if reps.all (·.isEmpty) then performOrdered s { r with op := .store } ps
    else
      let all := [0, 1, 2, 3].map fun k => ps.mapIdx fun i p => ((reps[i]?.getD [])[k]?).getD p
      let s := all.foldl (fun s qs => storeAt s r.ctx r.core true qs (toBytes r.size r.data.toNat)) s
      .done (afterAccess s r true (all.flatten.map lineOf).eraseDups) []
  | _ => performOrdered s r ps

/-- One lane's global access outside a transaction. -/
def performReq (s : State) (r : MemReq) : Did :=
  match districtAt s r.district with
  | none => .fault { cause := 4, access := accessCode r.op, addr := r.va.toNat }
  | some d =>
    let va := r.va.toNat
    let reach : Reach := match r.op with | .load _ => .near (dieOfCore r.core) | _ => .home
    let acc := accessCode r.op
    let bs := bytesAt s d reach (reqNeed r) va r.size
    match firstDenied r bs with
    | some (c, a) => .fault { cause := c, access := acc, addr := a }
    | none =>
      if isAtomicOp r.op && va % r.size ≠ 0 then .fault { cause := 6, access := acc, addr := va }
      else match reachAll bs with
      | .fault c a => .fault { cause := c, access := acc, addr := a }
      | .noPage p ia fl =>
        let s := reportMiss s p d.ctx ia fl
        if retires r && (coreOf s r.core).log.length < 64 then .logged (noteInPlace (logReq s r) r true)
        else .held (holdReq s r .page) false
      | .hostOwned p _ => .done (postFault s r.district
          { event := 3, code := 2, part := p, core := r.core, slot := r.slot, lanes := 2 ^ r.lane, ctx := d.ctx, va := va }) []
      | .readOnly p _ =>
        let s := postFault s r.district
          { event := 3, code := 1, part := p, core := r.core, slot := r.slot, lanes := 2 ^ r.lane, ctx := d.ctx, va := va }
        -- the write is discarded; a returned value is the old one
        match access s d reach 0 va r.size with
        | .places ps => .done s (r.dst.zip (wordsOf (regsFor r.size) (ofBytes (readPlaces s ps))))
        | _ => .done s []
      | .remote node ps =>
        (match r.op with
        | .pcall _ => .fault { cause := 9, access := acc, addr := va }
        | _ =>
          let lines := ps.map lineOf
          if writesMem r.op && !r.ret then
            .done (noteInPlace (afterAccess (sendWrite s node r) { r with scope := 5 } true lines) r true) []
          else .held (holdReq s r .remote) (match r.op with | .load _ => true | _ => false))
      | .host ps =>
        if !hostAdmits r.op then .fault { cause := 9, access := acc, addr := va }
        else if writesMem r.op && !r.ret then
          match performOrdered s { r with scope := 5, op := if r.op = .multicast then .store else r.op } ps with
          | .done t ws => .done (noteInPlace t r true) ws
          | x => x
        else
          let s := if writesMem r.op then markHostPlaces s ps else s
          .held (holdReq s { r with marked := writesMem r.op } .remote) (match r.op with | .load _ => true | _ => false)
      | .places ps =>
        if anyReset s d va r.size then .held (holdReq s r .partition) false
        else if engineOwns s ps then .held (holdReq s r .engine) false
        else if logHolds s r.core r.flight (reqLocations s r) then .held (holdReq s r .log) false
        else
          let wrote := writesNow r (ofBytes (seenBytes s ps 0))
          match performHere s d r ps with
          | .done t ws => .done (noteInPlace t r wrote) ws
          | x => x

/-! ## Accesses of a transaction (R71, R237) -/

/-- Byte `i` of a word. -/
def byteOfWord (x i : Nat) : Byte := BitVec.ofNat 8 (x / 2 ^ (8 * i))

/-- The byte at an intermediate address as the lane sees it: a written byte from its log, another from memory (R237). -/
def txByte (ws : List TxWrite) (ia : Nat) (mem : Byte) : Byte :=
  match ws.find? fun e => e.ia = ia / 8 * 8 with
  | some e => if bit e.mask.toNat (ia % 8) then byteOfWord e.bytes.toNat (ia % 8) else mem
  | none => mem

/-- Adds a byte to the write log. -/
def txPut (ws : List TxWrite) (ia : Nat) (b : Byte) : List TxWrite :=
  let w := ia / 8 * 8
  let upd := fun (e : TxWrite) => TxWrite.mk w (e.mask ||| BitVec.ofNat 8 (2 ^ (ia % 8)))
    (BitVec.ofNat 64 (ofBytes ((List.range 8).map fun i => if i = ia % 8 then b else byteOfWord e.bytes.toNat i)))
  if ws.any fun e => e.ia = w then ws.map fun e => if e.ia = w then upd e else e
  else ws ++ [upd ⟨w, 0, 0⟩]

def txPutAll (ws : List TxWrite) : List (Nat × Byte) → List TxWrite
  | [] => ws
  | (ia, b) :: r => txPutAll (txPut ws ia b) r

/-- What a transactional access does: an abort cause, a fault, or the new log and the register writes. -/
inductive TxDid where
  | abort (cause : Nat) (s : State)
  | fault (f : FaultRec)
  /-- the home cannot serve it yet: an engine owns the line (R69), its partition is in reset (R390) or the side log
  holds its bytes (R64) -/
  | wait
  | done (s : State) (tx : LaneTx) (ws : List (Target × W32))

/-- The intermediate address of a global access. -/
def iaOf (d : District) (va : Nat) : Nat :=
  match rangeOf d va with
  | some g => (va + g.offset.toNat) % 2 ^ 52
  | none => 0

/-- Whether an operation writes memory, its new value and its flags, from the old one (R228, R233, R234). -/
def newValue (r : MemReq) (old : Nat) : Bool × Nat × Nat :=
  let w := 8 * r.size
  match r.op with
  | .store => (true, r.data.toNat % 2 ^ w, 0)
  | .atom a | .red a => let y := atomValue a w old (r.data.toNat % 2 ^ w); (true, y.1, y.2)
  | .cas | .casgt _ | .casver | .casptr =>
    let y := casValue r.op w old (r.data.toNat % 2 ^ w) (r.cmp.toNat % 2 ^ (max w 32)); (y.1, y.2, 0)
  | _ => (false, 0, 0)

/-- Register writes of an operation in a transaction. -/
def txResults (r : MemReq) (old flags : Nat) : List (Target × W32) :=
  match r.op with
  | .load sg => r.dst.zip (wordsOf (regsFor r.size) (loadValue r.size sg old))
  | .store => []
  | _ => r.dst.zip (wordsOf (regsFor r.size) old) ++ r.status.zip [BitVec.ofNat 32 flags]

/-- One lane's access inside a transaction that does not hold the token: each byte by its own range, misalignment
(R296), then the logs, then poisoned data. -/
def txAccess (s : State) (tx : LaneTx) (r : MemReq) : TxDid :=
  match districtAt s r.district with
  | none => .abort 4 s
  | some d =>
    let va := r.va.toNat
    -- a read-only page is met only at the commit (R72)
    match (match access s d .home (needOf r.op + permT) va r.size with
      | .readOnly _ _ => access s d .home 0 va r.size
      | x => x) with
    | .noPage p ia fl => .abort 4 (reportMiss s p d.ctx ia (fl / 2 * 2))
    | .places ps =>
      if isAtomicOp r.op && va % r.size ≠ 0 then .fault { cause := 6, access := accessCode r.op, addr := va }
      else if engineOwns s ps || anyReset s d va r.size || logHolds s r.core r.flight (reqLocations s r) then .wait
      else
        let ias := (List.range r.size).map fun i => iaOf d ((va + i) % 2 ^ 64)
        let words := (ias.map fun ia => ia / 8 * 8).eraseDups
        let memWord := fun w => match byteAtIa s d.ctx .home false w with
          | .mem p _ => ofBytes (readBytes s.mem.bytes p 8)
          | _ => 0
        let reads := match r.op with | .store => [] | _ => words
        -- one read entry per word that has none
        let newReads := reads.filter fun w => !tx.reads.any fun e => e.ia = w
        let old := ofBytes ((ias.zip (seenBytes s ps 0)).map fun e => txByte tx.writes e.1 e.2)
        let (wr, x, fl) := newValue r old
        let writes := if wr then txPutAll tx.writes (ias.zip (toBytes r.size x)) else tx.writes
        if tx.reads.length + newReads.length > 32 then .abort 2 s
        else if writes.length > 16 then .abort 3 s
        else if poisoned s ps && reads ≠ [] then
          .fault { cause := 25, access := accessCode r.op, addr := poisonAddr s va ps }
        else
          let lines := (ps.map lineOf).eraseDups
          .done (tookShared s (beforeAccess s { r with order := 0 } lines) ps)
            { tx with reads := tx.reads ++ newReads.map fun w => ⟨w, BitVec.ofNat 64 (memWord w)⟩, writes := writes }
            (txResults r old fl)
    | _ => .abort 4 s

end Sys2Proof.Machine
end

