-- ==== Sys2Proof/Machine/Hazard.lean ====
section
/-! DEFINITION. The checking scoreboard (R313, R314): producers along each fibre's own path, and the hazard check. -/

namespace Sys2Proof.Machine

/-- The window base under which an instruction names its destinations: `call` and `callr` move it first (R193). -/
def dstWindow (i : Instr) (win : Nat) : Nat :=
  match i with
  | .call _ f => win + 8 * f.a.toNat
  | .callr _ f => win + 8 * f.sub.toNat
  | _ => win

/-- Register and mask sources in a lane. DESIGN CHOICE (log 73): the vector operand of `shfl` and `bcast` counts as a
source of every active lane's own register, whichever lane the value comes from. -/
def readTargets (sh : Shape) (lane win : Nat) : List Target :=
  sh.opds.flatMap fun o => match o.use with
    | .src r _ | .upd r _ => targetsOf lane win o.enc r
    | _ => []

/-- Predicate sources: the guard, the instruction's own, and all of them for PREDWORD (R155). -/
def readPreds (sh : Shape) (lane : Nat) : List Target :=
  let word := sh.opds.any fun o => match o.use with
    | .src _ _ => o.enc == 0xF9
    | _ => false
  ((if word then List.range 7 else sh.psrc).filter (· < 7)).map (Target.p lane)

/-- Registers, masks and predicates that the instruction writes in a lane. -/
def writeTargets (sh : Shape) (lane dwin : Nat) : List Target :=
  (sh.opds.flatMap fun o => match o.use with
    | .dst r _ | .upd r _ => targetsOf lane dwin o.enc r
    | _ => []) ++ sh.pdst.map (Target.p lane)

/-- The nearest earlier fixed-latency producer of a target. -/
def fixedProducer (p : Path) (t : Target) : Option Producer :=
  (p.producers.filter fun x => x.target = t && x.lat.isSome).getLast?

/-- Cases 1 and 3: the source fails R307 or R309 at the path clock. -/
def sourceHazard (p : Path) (pd idx : Nat) (t : Target) : Bool :=
  match fixedProducer p t with
  | none => false
  | some x =>
    let l := x.at_ + x.lat.getD 0
    if x.landed then false
    else if p.clock < l then true
    else isRegTarget t && p.clock < l + 3 && !(pd != 0 && x.visit == p.visit && x.slot + pd == idx)

/-- Case 2: pd names no fixed-latency producer of a source in the same clause. -/
def pdHazard (p : Path) (pd idx : Nat) (ts : List Target) : Bool :=
  pd != 0 && !ts.any fun t => isRegTarget t && match fixedProducer p t with
    | some x => x.visit == p.visit && x.slot + pd == idx
    | none => false

/-- Case 4: a pending variable-latency producer whose tag is not waited on. -/
def tagHazard (p : Path) (waits : Nat) (ts : List Target) : Bool :=
  p.producers.any fun x => x.lat.isNone && ts.contains x.target && (x.tag == 0 || !bit waits (x.tag - 1))

/-- The hazard check of one fibre (R313): its guard always, the rest where the guard holds. -/
def fibreHazard (i : Instr) (sh : Shape) (waits idx lane : Nat) (f : Fibre) : Bool :=
  let h := sh.ctl
  let guard := if h.gpred.toNat < 7 then [Target.p lane h.gpred.toNat] else []
  let regs := readTargets sh lane f.win
  let srcs := regs ++ readPreds sh lane
  guard.any (sourceHazard f.path h.pd.toNat idx) || tagHazard f.path waits guard ||
  (guardHolds h f &&
    (srcs.any (sourceHazard f.path h.pd.toNat idx) || pdHazard f.path h.pd.toNat idx regs ||
      tagHazard f.path waits (srcs ++ writeTargets sh lane (dstWindow i f.win))))

/-- R313: the instruction raises the hazard-check fault. -/
def hazard (w : Wave) (i : Instr) (sh : Shape) (waits idx : Nat) (lanes : List Nat) : Bool :=
  bit w.regs.check.toNat 0 && lanes.any fun l => match mget w.fibres l with
    | some f => fibreHazard i sh waits idx l f
    | none => false

/-- The producers that an issued instruction adds to a fibre's path. A scalar or mask is written by any active lane
of the convoy, a register or predicate of the lane only where the guard holds. -/
def addProducers (i : Instr) (sh : Shape) (idx lane : Nat) (anyAct : Bool) (f : Fibre) (p : Path) : Path :=
  let act := guardHolds sh.ctl f
  let ts := (writeTargets sh lane (dstWindow i f.win)).filter fun t => match t with
    | .s _ | .k _ => anyAct
    | _ => act
  let keep := p.producers.filter fun x => !(ts.contains x.target && (match x.lat, sh.lat with
    | some _, some _ => true
    | none, none => x.tag == sh.ctl.alloc.toNat
    | _, _ => false))
  { p with producers := keep ++ ts.map fun t => ⟨t, sh.lat, p.clock, sh.ctl.alloc.toNat, p.visit, idx, false⟩ }

/-- Drops producers that no later check can find: those on whose tags the instruction waited (R314), and fixed ones
of earlier clause visits that stand in the register file by every later path clock. -/
def prune (waits : Nat) (p : Path) : Path :=
  { p with producers := p.producers.filter fun x => match x.lat with
      | none => !(x.tag != 0 && bit waits (x.tag - 1))
      | some l => x.visit == p.visit || (!x.landed && p.clock < x.at_ + l + 3) }

/-- The fibre's path past an instruction at path clock `p.clock`: R304's earliest clock of the next one. -/
def pathNext (stall : Nat) (last : Bool) (p : Path) : Path :=
  { p with clock := p.clock + 1 + stall + (if last then 1 else 0), visit := if last then p.visit + 1 else p.visit }

/-- A fibre's path after the instruction issued for it. -/
def pathAfter (i : Instr) (sh : Shape) (waits idx lane : Nat) (anyAct last : Bool) (f : Fibre) : Path :=
  pathNext sh.ctl.stall.toNat last (prune 0 (addProducers i sh idx lane anyAct f (prune waits f.path)))

/-- The path of a fibre whose lane the instruction aborted: it leaves for a clause start (R239), with no new producer. -/
def pathAborted (sh : Shape) (waits : Nat) (p : Path) : Path :=
  pathNext sh.ctl.stall.toNat true (prune 0 (prune waits p))

/-- After a restore every producer counts as completed (R314). -/
def allComplete (f : Fibre) : Fibre :=
  { f with path := { f.path with
      producers := (f.path.producers.filter (·.lat.isSome)).map fun p => { p with landed := true } } }

end Sys2Proof.Machine
end

