-- ==== Sys2Proof/Machine/Issue.lean ====
section
/-! DEFINITION. Selection and issue (R17, R18, R147 to R150, R164, R304, R310, R317): which wave of which quarter
issues, what its convoy is, and what issuing an instruction does around its own effect. -/

namespace Sys2Proof.Machine

/-! ## What holds a wave back -/

/-- A duty of `d` sixteenths admits this clock (R401, R403). -/
def dutyAdmits (d clock : Nat) : Bool := clock % 16 < d

/-- The cores of this partition run (R390, R397, R403). -/
def partRuns (s : State) (p : Nat) : Bool := partReady s p && !s.power.tripped

/-- A quarter of the core may issue in this clock (R77, R401, R403). -/
def coreMayIssue (s : State) (core : Nat) : Bool :=
  !(coreOf s core).gated && partRuns s (partOfCore core) &&
  dutyAdmits (min (s.power.duty.getD 3 16) ((mget s.power.clusterDuty (clusterOf core)).getD 16)) s.clock

/-- All tags of a wait mask stand at 0 (R310). -/
def tagsClear (w : Wave) (waits : Nat) : Bool :=
  (List.range 6).all fun t => !bit waits t || w.sched.tags.getD t 0 == 0

/-- The tag that the instruction allocates stands below 15 (R310). -/
def tagRoom (w : Wave) (alloc : Nat) : Bool := alloc == 0 || alloc > 6 || w.sched.tags.getD (alloc - 1) 0 < 15

/-- Vector FP64 arithmetic (R304). -/
def isFp64 : Instr → Bool
  | .add _ f | .sub _ f | .mul _ f | .fma _ f | .min _ f | .max _ f | .abs _ f | .neg _ f | .cpsgn _ f | .scale _ f
  | .frnd _ f | .div _ f | .rcp _ f | .rsq _ f | .sqrt _ f => f.dtype == 11
  | .addImm _ f | .mulImm _ f => f.isel == 3
  | _ => false

/-- The convoy's fibres that still stand at its next instruction. -/
def runLanes (clock : Nat) (w : Wave) : List Nat :=
  match w.sched.run with
  | none => []
  | some r => (lanesOf r.lanes.toNat).filter fun l => match mget w.fibres l with
    | some f => fibreReady clock f && !f.fell && f.pc = r.clause + BitVec.ofNat 64 r.slot
    | none => false

/-- Whether the instruction at `pc` may issue for the wave now, as far as the wave goes. -/
inductive Ready where
  | yes
  | no
  /-- its page is missing, and the miss has to be reported -/
  | report (part ia flags : Nat)
  deriving DecidableEq, Repr

/-- The miss stands reported already (R383). -/
def missReported (s : State) (p ctx ia : Nat) : Bool :=
  (partOf s p).reported.any fun m => m.ctx = ctx && m.ia = ia / 65536 * 65536

/-- A `brk` or `trap` in its clause's last slot needs the PC past the pool blocks there (R291). -/
def needsFall : Instr → Bool
  | .brk .. | .trap .. => true
  | _ => false

/-- The missing page that keeps such an instruction from its next PC. -/
def fallNeeded (s : State) (d : District) (pc : Nat) (h : Header) (x : BitVec 80) : Option (Nat × Nat × Nat) :=
  match decodeAt h pc x with
  | .instr _ i _ idx =>
    if needsFall i && idx + 1 == h.count then (skipPools s d (clauseEnd (clauseOf pc) h.count)).miss else none
  | _ => none

/-- R17, R304, R310: the clause gap, then the scoreboard waits. -/
def pcReady (s : State) (d : District) (w : Wave) (pc : Nat) : Ready :=
  if (slotOf pc = 0 && s.clock < w.sched.nextClause) || homeReset s d pc then .no
  else match fetchWord s d pc with
    | .fault .. => .yes
    | .missing p ia f => if missReported s p d.ctx ia then .no else .report p ia f
    | .word h x =>
      if !(tagsClear w (waitsAt h (slotOf pc) x) && tagRoom w (x.extractLsb' 70 3).toNat) then .no
      else match fallNeeded s d pc h x with
        | none => .yes
        | some (p, ia, f) => if missReported s p d.ctx ia then .no else .report p ia f

/-- PCs of the ready fibres, each once, by lowest lane. -/
def readyPcs (clock : Nat) (w : Wave) : List Nat :=
  ((w.fibres.filter fun e => fibreReady clock e.2 && !e.2.fell).map fun e => e.2.pc.toNat).eraseDups

def lanesAt (clock : Nat) (w : Wave) (pc : Nat) : List Nat :=
  (w.fibres.filter fun e => fibreReady clock e.2 && !e.2.fell && e.2.pc.toNat = pc).map Prod.fst

/-- The greatest age of a group (R17). -/
def groupAge (w : Wave) (ls : List Nat) : Nat :=
  ls.foldl (fun m l => match mget w.fibres l with | some f => max m f.age | none => m) 0

/-- R17: the group of greatest age, of equal ones that with the lowest lane; `pcs` rise by lowest lane. -/
def pickGroup (clock : Nat) (w : Wave) : List Nat → Option Nat
  | [] => none
  | pc :: r => match pickGroup clock w r with
    | none => some pc
    | some q => if groupAge w (lanesAt clock w q) > groupAge w (lanesAt clock w pc) then some q else some pc

def groupsReady (s : State) (d : District) (w : Wave) : List Nat :=
  (readyPcs s.clock w).filter fun pc => pcReady s d w pc = .yes

/-- The effect of a selection on a wave: the convoy, and the ages (R17). The bypass entries of a clause that the
convoy goes on in stay. -/
def selectWave (s : State) (d : District) (w : Wave) : Option Wave :=
  let pcs := groupsReady s d w
  match pickGroup s.clock w pcs with
  | none => none
  | some pc =>
    let ls := lanesAt s.clock w pc
    let others := (pcs.filter (· != pc)).flatMap (lanesAt s.clock w)
    let clause := BitVec.ofNat 64 (clauseOf pc)
    let byp := match w.sched.run with
      | some r => if r.clause = clause && slotOf pc ≠ 0 then r.bypass else []
      | none => []
    let w := ls.foldl (fun w l => modFibre w l fun f => { f with age := 0, wait := .ready }) w
    let w := others.foldl (fun w l => modFibre w l fun f => { f with age := min 255 (f.age + 1) }) w
    some (modSched w fun q => { q with run := some ⟨BitVec.ofNat 32 (maskOf ls), clause, slotOf pc, byp⟩ })

/-! ## The choice of a wave -/

/-- What a wave could do in this clock. -/
inductive WaveAct where
  | nothing
  | select
  | issue (pc : Nat) (lanes : List Nat)
  /-- fibres that reached unread code by fall-through go on past pool blocks (R149) -/
  | settle
  | report (part ia flags : Nat)
  deriving DecidableEq, Repr

def firstReport (s : State) (d : District) (w : Wave) : List Nat → WaveAct
  | [] => .nothing
  | pc :: r => match pcReady s d w pc with
    | .report p ia f => .report p ia f
    | _ => firstReport s d w r

/-- A fibre whose fall-through can be settled now. -/
def canSettle (s : State) (d : District) (w : Wave) : Bool :=
  w.fibres.any fun e => fibreReady s.clock e.2 && e.2.fell && (skipPools s d e.2.pc.toNat).miss.isNone

/-- A page that fall-through has met missing and that still has to be reported (R149, R383). -/
def fallenMiss (s : State) (d : District) (w : Wave) : Option (Nat × Nat × Nat) :=
  w.fibres.findSome? fun e =>
    if fibreReady s.clock e.2 && e.2.fell then
      match (skipPools s d e.2.pc.toNat).miss with
      | some (p, ia, f) => if missReported s p d.ctx ia then none else some (p, ia, f)
      | none => none
    else none

/-- The district of a wave's crew. -/
def waveDistrict (s : State) (w : Wave) : Option District :=
  match crewAt s w.id.crew with
  | some c => if c.ending then none else districtAt s c.district
  | none => none

/-- What a wave could do now. A QPUT on a full window stalls its wave (R25). -/
def waveAct (s : State) (w : Wave) : WaveAct :=
  match waveDistrict s w with
  | none => .nothing
  | some d =>
    let stalled := w.fibres.any fun e => e.2.wait == .qput
    if w.ended || stalled || s.clock < w.sched.nextIssue || s.clock < w.sched.delayed then .nothing
    else if canSettle s d w then .settle
    else match fallenMiss s d w with
    | some (p, ia, f) => .report p ia f
    | none => match runLanes s.clock w, w.sched.run with
      | l :: ls, some r =>
        let pc := r.clause.toNat + r.slot
        (match pcReady s d w pc with
        | .yes => .issue pc (l :: ls)
        | .no => .nothing
        | .report p ia f => .report p ia f)
      | _, _ =>
        if groupsReady s d w ≠ [] then .select else firstReport s d w (readyPcs s.clock w)

/-- The instruction at `pc` needs the FP64 pipe, and it is not free (R304). -/
def fp64Blocked (s : State) (d : District) (core slot pc : Nat) : Bool :=
  match fetchWord s d pc with
  | .word h x => match decodeAt h pc x with
    | .instr _ i _ _ => isFp64 i && s.clock < (coreOf s core).fp64.getD (quarterOf slot) 0
    | _ => false
  | _ => false

/-- The wave can act in this clock: its core and quarter may issue, and it has something to do. -/
def waveActs (s : State) (core slot : Nat) (w : Wave) : WaveAct :=
  if coreMayIssue s core && slot < 64 && (coreOf s core).issued.getD (quarterOf slot) 0 ≤ s.clock then
    match waveAct s w with
    | .issue pc ls => match waveDistrict s w with
      | some d => if fp64Blocked s d core slot pc then .nothing else .issue pc ls
      | none => .nothing
    | a => a
  else .nothing

/-- Cores in order, in a core its quarters in order (R251, R276), in a quarter the wave that could issue first, then
the lowest slot (R40). -/
def issueOrder (k : Nat) (w : Wave) : Nat × Nat × Nat := (wkCore k, quarterOf (wkSlot k), w.sched.nextIssue)

/-- The first order comes before the second. -/
def orderBefore (a b : Nat × Nat × Nat) : Bool :=
  decide (a.1 < b.1) || (a.1 == b.1 && (decide (a.2.1 < b.2.1) || (a.2.1 == b.2.1 && decide (a.2.2 < b.2.2))))

/-- Of the waves that can act, the first by `issueOrder`; of equal ones the lowest slot. -/
def pickWave (s : State) : List (Nat × Wave) → Option (Nat × WaveAct × (Nat × Nat × Nat))
  | [] => none
  | (k, w) :: r =>
    match waveActs s (wkCore k) (wkSlot k) w with
    | .nothing => pickWave s r
    | a => match pickWave s r with
      | none => some (k, a, issueOrder k w)
      | some (k', a', n) => if orderBefore n (issueOrder k w) then some (k', a', n) else some (k, a, issueOrder k w)

/-! ## Issuing -/

/-- The record of the issue and the timing of R304; the convoy's fibres stand at the next PC. -/
def beginIssue (s : State) (core slot pc : Nat) (h : Header) (i : Instr) (sh : Shape) (waits : Nat) (ls : List Nat)
    (d : District) : State :=
  let idx := slotOf pc
  let last := idx + 1 == h.count
  let fall := if last then skipPools s d (clauseEnd (clauseOf pc) h.count) else ⟨pc + 1, none⟩
  let next := BitVec.ofNat 64 fall.pc
  let stall := sh.ctl.stall.toNat
  let q := quarterOf slot
  let s := modCore s core fun c => { c with
    issued := c.issued.set q (s.clock + 1), fp64 := if isFp64 i then c.fp64.set q (s.clock + 2) else c.fp64 }
  let s := modWave s core slot fun w =>
    let anyAct := ls.any fun l => match mget w.fibres l with
      | some f => guardHolds sh.ctl f
      | none => false
    let w := ls.foldl (fun w l => modFibre w l fun f => { f with
      pc := next, fell := fall.miss.isSome, path := pathAfter i sh waits idx l anyAct last f }) w
    modSched w fun x => { x with
      nextIssue := s.clock + 1 + stall, nextClause := s.clock + 2 + stall,
      lastIssue := some (s.clock, BitVec.ofNat 64 pc, BitVec.ofNat 32 (maskOf ls)),
      run := x.run.map fun r => { r with slot := idx + 1, lanes := if last then 0 else r.lanes } }
  { s with cur := ⟨core, slot, BitVec.ofNat 32 (maskOf ls), BitVec.ofNat 64 (clauseOf pc), idx, next, none⟩ }

/-- The convoy faults as one sub-wave: fetch, decode and hazard faults (R149, R164, R293, R313). -/
def convoyFault (s : State) (core slot pc : Nat) (ls : List Nat) (f : FaultRec) : State :=
  let s := modCore s core fun c => { c with issued := c.issued.set (quarterOf slot) (s.clock + 1) }
  let s := modWave s core slot fun w => endRun (modSched w fun x => { x with nextIssue := s.clock + 1 })
  takeFaults s core slot (BitVec.ofNat 64 pc) (ls.map fun l => (l, f))

/-- What a step does with a wave that acts. -/
inductive Issued where
  | run (i : Instr) (waits : Nat) (s : State)
  | done (s : State)

/-- The clocks of inserted delay that a wave of the district owes (R416). -/
def owes (d : District) (w : Wave) : Nat := d.dbg.causal.owed - w.sched.paid

/-- R416: a `ppt` of a wave that owes inserted delay is held. -/
def holdsPpt (i : Instr) (d : District) (w : Wave) : Bool :=
  match i with
  | .ppt .. => owes d w != 0
  | _ => false

/-- The wave is held from issue for the delay that it owes, which is then paid (R416). -/
def payDelay (clock : Nat) (d : District) (w : Wave) : Wave :=
  modSched w fun q => { q with delayed := clock + owes d w, paid := q.paid + owes d w }

def issueAt (s : State) (core slot pc : Nat) (ls : List Nat) (w : Wave) (d : District) : Issued :=
  match fetchWord s d pc with
  | .fault p f => .done (convoyFault s core slot p ls f)
  | .missing p ia f => .done (reportMiss s p d.ctx ia f)
  | .word h x => match decodeAt h pc x with
    | .fault p f => .done (convoyFault s core slot p ls f)
    | .missing p ia f => .done (reportMiss s p d.ctx ia f)
    | .instr _ i _ idx => match shape i with
      | none => .done s
      | some sh =>
        let waits := waitsAt h idx x
        if hazard w i sh waits idx ls then .done (convoyFault s core slot pc ls { cause := 21 })
        else if holdsPpt i d w then .done (setWave s core slot (payDelay s.clock d w))
        else .run i waits (beginIssue s core slot pc h i sh waits ls d)

/-- A lane left its transaction by an abort. -/
def leftTx (i : Instr) (lb la : Lane) : Bool :=
  lb.tx.depth ≠ 0 && la.tx.depth = 0 && (match i with | .txend .. | .quit .. => false | _ => true)

/-- The path of a fibre after the instruction issued for its lane (R313, R314): a lane that faulted at `pc` keeps the
path it had before, one that was aborted gets no producer. -/
def pathIssued (i : Instr) (sh : Shape) (waits : Nat) (pc : W64) (f0 fb fa : Fibre) (lb la : Lane) : Path :=
  if fa.wait = .parked && la.trap.pc = pc then f0.path
  else if leftTx i lb la then pathAborted sh waits f0.path
  else if fa.wait = .parked then fb.path
  else fa.path

/-- After the instruction's own effect: `w0` is the wave as it stood before the issue, `before` the state in which
the instruction was performed. -/
def endIssue (w0 : Wave) (i : Instr) (waits : Nat) (before after : State) : State :=
  let c := before.cur
  let pc := c.clause + BitVec.ofNat 64 c.index
  let after := { after with cur := noIssue }
  match waveAt before c.core c.slot, shape i with
  | some wb, some sh => modWave after c.core c.slot fun w =>
    (lanesOf c.lanes.toNat).foldl (fun w l => match mget w0.fibres l, mget wb.fibres l, mget w.fibres l with
      | some f0, some fb, some fa => modFibre w l fun f => { f with path := pathIssued i sh waits pc f0 fb fa (laneAt wb l) (laneAt w l) }
      | _, _, _ => w) w
  | _, _ => after

/-- After an instruction that went on in lanes that waited. -/
def endAgain (after : State) : State := { after with cur := noIssue }

/-- Fibres that fell into unread code move past the pool blocks that can be read now (R149). -/
def settleWave (s : State) (d : District) (w : Wave) : Wave :=
  w.fibres.foldl (fun w e =>
    let fall := skipPools s d e.2.pc.toNat
    if fibreReady s.clock e.2 && e.2.fell && fall.miss.isNone then
      modFibre w e.1 fun f => { f with pc := BitVec.ofNat 64 fall.pc, fell := false } else w) w

/-! ## Time -/

/-- The clock advances by one; register and predicate writes due land (R305, R306, R309). Mask writes land by
MASK_WRITE_ARRIVAL. The clocks in which array work may start are counted for themselves (R402). -/
def tick (s : State) : State :=
  let c := s.clock + 1
  let array := s.power.arrayClocks + (if dutyAdmits (s.power.duty.getD 0 16) s.clock then 1 else 0)
  { s with
    clock := c
    power := { s.power with arrayClocks := array }
    waves := s.waves.map fun e =>
      (e.1, if e.2.sched.pend.any (fun p => p.land ≤ c && !isMaskTarget p.target) then
        landPend e.2 fun p => p.land ≤ c && !isMaskTarget p.target else e.2) }

end Sys2Proof.Machine
end

