-- ==== Sys2Proof/Machine/MemFamily.lean ====
section
/-! DEFINITION. The meanings of class 1: loads, stores, fences, atomics, compare-and-swaps, programmable calls and
transactions (R175, R222 to R242). -/

namespace Sys2Proof.Machine

/-- The space of an access (R46). -/
inductive Space where
  | global
  | scratch
  | peer (rank : Nat)
  deriving DecidableEq, Repr

/-- What one lane of a memory instruction asks for. -/
structure MemCall where
  space : Space
  va : Nat
  size : Nat
  op : MemOp
  data : Nat := 0
  cmp : Nat := 0
  scope : Nat := 0
  /-- destination field and its registers; 0xFF discards the value -/
  dst : BitVec 8 := 0xFF
  regs : Nat := 1
  status : BitVec 8 := 0xFF
  /-- low byte of the opcode, for a replay record (R419); 0 writes none -/
  code : Nat := 0

/-- The lanes of an instruction as they are worked through in increasing order (R223). -/
structure LaneRun where
  s : State
  ws : List (Target × W32)
  faults : List (Nat × FaultRec)
  /-- lanes that wait for a replay-log stall (R421) -/
  again : List Nat := []
  /-- lanes that wait until the home can serve them -/
  later : List Nat := []
  /-- a page that they wait for -/
  page : Option (Nat × Nat) := none
  /-- the lane whose value a scalar or mask takes, once known (R156) -/
  lead : Option Nat

/-- Lane `l` gives the value of a scalar or mask, as no lower active lane completes (R156). -/
def LaneRun.first (a : LaneRun) (l : Nat) : Bool := a.lead.isNone || a.lead == some l

/-- Lane `l` completes, now or later. -/
def LaneRun.leads (a : LaneRun) (l : Nat) : LaneRun := { a with lead := a.lead <|> some l }

/-- Lane `l` faults. -/
def LaneRun.fault (a : LaneRun) (l : Nat) (f : FaultRec) : LaneRun :=
  { a with faults := a.faults ++ [(l, f)], lead := if a.lead = some l then none else a.lead }

/-- The lanes have been worked through: their results join the flight, some wait, some park. -/
def LaneRun.finish (i : Instr) (v : View) (n : Nat) (wait : List Nat) (a : LaneRun) : State :=
  let lead := a.lead <|> (a.again ++ a.later ++ wait).head?
  let s := flightWrites a.s n a.ws 0
  let s := deferLanes i v n lead .replay a.again s
  let s := waitsPage n a.page (deferLanes i v n lead (.hold 0) (a.later ++ wait) s)
  takeFaults s v.core v.slot v.pc a.faults

/-- Places of `n` scratchpad bytes of a crew at offset `o` (R47). -/
def scratchPlaces (core base o n : Nat) : List Nat := (List.range n).map fun i => scratchPlace core (base + o + i)

/-- The member of rank `r` of the crew's gang: its crew key (R48). -/
def gangMember (s : State) (c : Crew) (r : Nat) : Option Nat :=
  match c.gang with
  | none => none
  | some g => (s.crews.find? fun e => e.2.gang = some g && e.2.rank = r).map Prod.fst

/-- The replay record of an atomic (R226, R419). -/
def atomRecord (r : MemReq) (node object old : Nat) : RRec :=
  let x := match r.op with | .red _ => r.data.toNat % 2 ^ (8 * r.size) | _ => old
  { kind := 1, check := xor16 8 x, core := r.core, slot := r.slot, lane := r.lane,
    detail := r.code % 256 * 2 ^ 16 + node, object := object, second := 0 }

/-- The value that stands at a global access now, for a record. -/
def peek (s : State) (d : Nat) (va size : Nat) : Nat :=
  match placesFor s d va size with
  | some ps => ofBytes (readPlaces s ps)
  | none => 0

/-- The node that performs a global access (R419). -/
def nodeOf (s : State) (d : Nat) (va : Nat) : Nat :=
  match districtAt s d with
  | some x => match rangeOf x va with
    | some g => if g.node = 0x1FFF then s.fabric.node else g.node
    | none => s.fabric.node
  | none => s.fabric.node

/-- The replay record of a request that is performed now. -/
def reqRecord (s : State) (r : MemReq) : RRec :=
  atomRecord r (nodeOf s r.district r.va.toNat) (((districtAt s r.district).map fun x => iaOf x r.va.toNat).getD 0)
    (peek s r.district r.va.toNat r.size)

/-- The request of a lane; one that holds the serial token accesses at `.device` (R74). -/
def reqOf (v : View) (first : Bool) (flight l : Nat) (ctx order : Nat) (line : Bool) (m : MemCall) : MemReq :=
  let tg := fun e r => if regClass e == .vec || first then targetsOf l (v.win l) e r else []
  { core := v.core, slot := v.slot, lane := l, district := v.copy, ctx := ctx, va := BitVec.ofNat 64 m.va,
    size := m.size, op := m.op, data := BitVec.ofNat 128 m.data, cmp := BitVec.ofNat 128 m.cmp,
    scope := if v.serial l then 4 else m.scope, order := if v.inTx l then 0 else order, serial := v.serial l, line := line,
    marked := false, ret := match m.op with
      | .store | .multicast | .red _ | .replsync => false
      | _ => m.dst != 0xFF || m.status != 0xFF
    dst := tg m.dst m.regs, status := tg m.status 1, flight := flight, code := m.code }

/-- A compare-and-swap and a `pcall` always hold their lane, whatever vd (R54, R435). -/
def fixRet (r : MemReq) : MemReq :=
  match r.op with
  | .cas | .casgt _ | .casver | .casptr | .pcall _ | .load _ => { r with ret := true }
  | _ => r

/-- The widest scope of scratchpad (R46, R47). -/
def scratchScope (c : Crew) : Nat := if c.gang.isSome then 3 else 2

/-- A scratchpad access of a lane (R47, R48): performed at once, in the grant at `base` of `core`; a release acts at no
wider scope than the space has. -/
def scratchAccess (s : State) (v : View) (core base grant flight l order : Nat) (first : Bool) (m : MemCall) : Did :=
  let acc := accessCode m.op
  let r := reqOf v first flight l 0 order false m
  if m.va + m.size > grant then .fault { cause := 5, access := acc, addr := max m.va grant }
  else if isAtomicOp m.op && m.va % m.size ≠ 0 then .fault { cause := 6, access := acc, addr := m.va }
  else match performAt s { r with scope := 0 } (scratchPlaces core base m.va m.size) with
    | .done t ws => .done (afterAccess t
        { r with order := order, scope := match m.space with | .peer _ => 3 | _ => min m.scope (scratchScope v.crew) }
        (writesMem m.op) []) ws
    | x => x

/-- One active lane of a memory instruction (R228, R233, R234, R296). -/
def memLane (sh : Shape) (v : View) (flight order : Nat) (line : Bool) (mk : View → Nat → MemCall) (a : LaneRun) (l : Nat) :
    LaneRun :=
  if !windowOk sh v.wave.id.allot (v.win l) (v.win l) then a.fault l faultWindow
  else
    let m := mk v l
    let s := a.s
    let d := v.copy
    let first := a.first l
    let again := { a with again := a.again ++ [l] }.leads l
    let hold := fun (s : State) (remote : Bool) =>
      { a with s := waitLanes s v flight (fun _ => if remote then .remote else .hold flight) [l] }.leads l
    let local_ := fun (core base grant : Nat) =>
      let obj := 2 ^ 63 + m.va
      let old := ofBytes (readPlaces s (scratchPlaces core base m.va m.size))
      let rec_ := atomRecord (reqOf v first flight l 0 order false m) s.fabric.node obj old
      let recorded := m.code != 0 && (!v.inTx l || v.serial l)
      let ok := m.va + m.size ≤ grant && m.va % m.size = 0
      if recorded && ok && replayGate s d rec_ = .stall then again
      else match scratchAccess s v core base grant flight l order first m with
        | .done s ws => { a with s := if recorded then (replayLog s d rec_).1 else s, ws := a.ws ++ ws }.leads l
        | .logged s => { a with s := s }.leads l
        | .fault f => a.fault l f
        | .held s r => hold s r
    match m.space with
    | .scratch => local_ v.core v.crew.scratchBase v.crew.scratch
    | .peer r =>
      if v.crew.gang.isNone || r ≥ v.crew.gangSize then a.fault l { cause := 7, access := 2, addr := m.va }
      else if r = v.crew.rank then local_ v.core v.crew.scratchBase v.crew.scratch
      else match gangMember s v.crew r with
        | none => a.fault l { cause := 7, access := 2, addr := m.va }
        | some k => match crewAt s k with
          | none => a.fault l { cause := 7, access := 2, addr := m.va }
          | some c => local_ (k / 16) c.scratchBase c.scratch
    | .global =>
      let lane := match waveAt s v.core v.slot with | some w => laneAt w l | none => laneInit
      let ctx := ((districtAt s d).map (·.ctx)).getD 0
      let r := fixRet (reqOf v first flight l ctx order line m)
      if lane.tx.depth ≠ 0 && !lane.tx.serial then
        match txAccess s lane.tx r with
        | .abort c s => { a with s := abortLane s v.core v.slot l c 0 }
        | .fault f => a.fault l f
        | .wait => { a with later := a.later ++ [l] }.leads l
        | .done s tx ws =>
          { a with s := modWave s v.core v.slot fun w => modLane w l fun x => { x with tx := tx }, ws := a.ws ++ ws }.leads l
      else
        let rec_ := reqRecord s r
        let recorded := m.code != 0
        if recorded && m.va % m.size = 0 && replayGate s d rec_ = .stall then again
        else match performReq s r with
          | .done s ws => { a with s := if recorded then (replayLog s d rec_).1 else s, ws := a.ws ++ ws }.leads l
          -- its record, if any, is written when the log is replayed
          | .logged s => { a with s := s }.leads l
          | .fault f => a.fault l f
          | .held s r => hold s r

/-- A fibre still owes accesses that a release must wait for (R64, R434). -/
def owesRelease (s : State) (core slot lane : Nat) : Bool :=
  s.cores.any (fun c => c.2.log.any fun h => h.req.core = core && h.req.slot = slot && h.req.lane = lane) ||
  s.fabric.writes.any fun e => e.2.req.core = core && e.2.req.slot = slot && e.2.req.lane = lane

/-- The lanes that can act, and from the first lane on whose release has to wait, the lanes that act after it: lanes
act in increasing order (R64, R223, R245). `free l` says that lane `l` makes no release. -/
def splitRelease (release : Bool) (free : Nat → Bool) (v : View) (s : State) : View × List Nat :=
  if !release then (v, [])
  else
    let now := v.act.takeWhile fun l => free l || !owesRelease s v.core v.slot l
    ({ v with act := now }, v.act.drop now.length)

/-- The active lanes make one whole-line access (R66). -/
def wholeLine (v : View) (mk : View → Nat → MemCall) : Bool :=
  v.act.length = 32 && v.act.all fun l =>
    let m := mk v l
    m.size = 4 && (match m.op with | .load _ | .store => true | _ => false) && m.va = (mk v 0).va + 4 * l &&
    (mk v 0).va % 128 = 0

/-- A memory instruction: aborts that come first (R296), waits of a release (R64), then its lanes in order. Inside a
transaction a global access has no order of its own (R228, R233). A load lands at least 12 clocks after issue (R323). -/
def execMem (i : Instr) (txCause : Option Nat) (order floor : Nat) (mk : View → Nat → MemCall) (s : State) : State :=
  match shape i with
  | none => s
  | some sh =>
    let v := viewOf sh.ctl s
    let (v, s) := match txCause with
      | some c => refuseTx c v s
      | none => (v, s)
    let (v, wait) := splitRelease (order ≥ 2) (fun l => v.inTx l && (mk v l).space == .global) v s
    let (n, s) := newFlight sh.ctl v floor s
    let line := wholeLine v mk
    (v.act.foldl (memLane sh v n order line mk) { s := s, ws := [], faults := [], lead := v.lead }).finish i v n wait

/-- A global or scratchpad address with the displacement of format M (R161). -/
def addrM (v : View) (l : Nat) (f : MF) (global : Bool) : Nat :=
  if global then wrap 64 (v.opd l f.base 2 + sval 16 f.disp.toNat)
  else wrap 32 (v.opd l f.base 1 + sval 16 f.disp.toNat)
def sizeOf_ (size : BitVec 3) : Nat := 2 ^ size.toNat
def dataOf (v : View) (l : Nat) (e : BitVec 8) (size : Nat) : Nat := v.opd l e (regsFor size)

def callLoad (f : MF) (global : Bool) (v : View) (l : Nat) : MemCall :=
  let n := sizeOf_ f.size
  { space := if global then .global else .scratch, va := addrM v l f global, size := n,
    op := .load (f.sub == 1), scope := f.scope.toNat, dst := f.dst, regs := regsFor n }
def callStore (f : MF) (space : Space) (op : MemOp) (v : View) (l : Nat) : MemCall :=
  let n := sizeOf_ f.size
  { space := space, va := addrM v l f (space == .global), size := n, op := op, data := dataOf v l f.data n,
    scope := f.scope.toNat }

/-- R228. -/
def execLd (h : Ctl) (f : MF) (s : State) : Out :=
  .next (execMem (.ld h f) none f.order.toNat 12 (callLoad f true) s)
/-- R228. -/
def execSt (h : Ctl) (f : MF) (s : State) : Out :=
  .next (execMem (.st h f) none f.order.toNat 1 (callStore f .global .store) s)
/-- R228, R47. -/
def execLds (h : Ctl) (f : MF) (s : State) : Out :=
  .next (execMem (.lds h f) none f.order.toNat 12 (callLoad f false) s)
/-- R228, R47. -/
def execSts (h : Ctl) (f : MF) (s : State) : Out :=
  .next (execMem (.sts h f) none f.order.toNat 1 (callStore f .scratch .store) s)
/-- R228, R48: the rank stands in sub; inside a transaction it aborts with cause 7. -/
def execStp (h : Ctl) (f : MF) (s : State) : Out :=
  .next (execMem (.stp h f) (some 7) f.order.toNat 1 (callStore f (.peer f.sub.toNat) .store) s)
/-- R229, R75. -/
def execStm (h : Ctl) (f : MF) (s : State) : Out :=
  .next (execMem (.stm h f) (some 7) f.order.toNat 1 (callStore f .global .multicast) s)
/-- R227: the rank is a scalar. -/
def execStpScalarRank (h : Ctl) (f : MXF) (s : State) : Out :=
  .next (execMem (.stpScalarRank h f) (some 7) f.order.toNat 1 (fun v l =>
    let n := sizeOf_ f.size
    { space := .peer (v.opd l f.second 1), va := v.opd l f.base 1, size := n, op := .store, data := dataOf v l f.data n,
      scope := f.scope.toNat }) s)

/-- R175: the literal is read through the instruction cache in every lane alike; a missing page holds the lanes. -/
def execLdl (h : Ctl) (f : GIF) (s : State) : Out :=
  let v := viewOf h s
  let a := literalAddr v.clause.toNat f.imm
  let n := literalSize f.isel
  let regs := match f.isel.toNat with | 1 => 2 | 2 => 4 | _ => 1
  match shape (.ldl h f), districtAt s v.copy with
  | some sh, some d =>
    let give := fun (r : LaneRes) => Host.Outcome.next (commitVar h 12 v (resultsOf sh v fun _ _ => r) s)
    match codeBytes s d a n with
    | .bytes bs => give (outReg f.dst regs (ofBytes bs))
    | .fault c x => give (.trap { cause := c, access := 1, addr := x })
    | .missing p ia fl =>
      let good := v.act.filter fun l => windowOk sh v.wave.id.allot (v.win l) (v.win l)
      let (m, t) := newFlight h v 12 s
      let t := if good = [] then t else reportMiss t p d.ctx ia fl
      let t := waitsPage m (some (d.ctx, ia)) (deferLanes (.ldl h f) v m (v.lead <|> good.head?) (.hold 0) good t)
      .next (takeFaults t v.core v.slot v.pc ((v.act.filter fun l => !good.contains l).map fun l => (l, faultWindow)))
  | _, _ => .next s

/-! ## Replica synchronisation and fences -/

/-- One line of a `replsync`: the home replica to the other three (R75, R230). -/
def syncLine (s : State) (d : District) (core va : Nat) : State :=
  match access s d .home 0 va 1 with
  | .places (p :: _) =>
    let line := p / 128 * 128
    let reps := (replicaPlaces s d va).map fun q => q / 128 * 128
    if reps.length ≤ 1 then s
    else
      let bs := readBytes s.mem.bytes line 128
      reps.foldl (fun s q => if q = line then s else
        storeAt s d.ctx core true ((List.range 128).map (q + ·)) bs) s
  | _ => s

/-- Lines that overlap [a, a + n), by their first addresses. -/
def linesOfRange (a n : Nat) : List Nat :=
  if n = 0 then [] else (List.range ((a % 128 + n + 127) / 128)).map fun i => (a / 128 + i) * 128 % 2 ^ 64

/-- R230 in one lane: every line is translated with R and W before any is copied; a page that is missing or a line that
an engine owns (R69) holds the lane. -/
def replLane (sh : Shape) (v : View) (f : MF) (a : LaneRun) (l : Nat) : LaneRun :=
  if !windowOk sh v.wave.id.allot (v.win l) (v.win l) then a.fault l faultWindow
  else match districtAt a.s v.copy with
    | none => a
    | some d =>
      let va := addrM v l f true
      let ls := linesOfRange va (v.opd l f.data 1)
      let at_ := fun x => access a.s d .home (permR + permW + (if v.serial l then permT else 0)) x 1
      let bad := ls.findSome? fun x => match at_ x with
        | .fault c _ => some (c, x)
        | .hostOwned .. => some (3, x)
        | _ => none
      let miss := ls.findSome? fun x => match at_ x with
        | .noPage p ia fl => some (p, ia, fl)
        | _ => none
      let owned := ls.any fun x => match at_ x with
        | .places ps => engineOwns a.s (ps ++ replicaPlaces a.s d x)
        | _ => false
      match bad, miss with
      | some (c, x), _ => a.fault l { cause := c, access := 2, addr := max x va }
      | none, some (p, ia, fl) => { a with s := reportMiss a.s p d.ctx ia fl, later := a.later ++ [l], page := some (d.ctx, ia) }
      | none, none =>
        if owned then { a with later := a.later ++ [l] }
        else { a with s := ls.foldl (fun s x => syncLine s d v.core x) a.s }

/-- R230. -/
def execReplsync (h : Ctl) (f : MF) (s : State) : Out :=
  match shape (.replsync h f) with
  | none => .next s
  | some sh =>
    let (v, s) := refuseTx 7 (viewOf h s) s
    let (n, s) := newFlight h v 1 s
    .next ((v.act.foldl (replLane sh v f) { s := s, ws := [], faults := [], lead := none }).finish (.replsync h f) v n [])

/-- A fence in lane `l` (R63, R64): a wide acquire has the releases that the fibre's loads read performed (R57), a
narrow release makes its later stores releases. -/
def fenceLane (core slot order scope : Nat) (s : State) (l : Nat) : State :=
  match (waveAt s core slot).bind fun w => mget w.fibres l with
  | none => s
  | some fb =>
    let s := if order % 2 = 1 && scope ≥ 4 then
        modWave (promoteCores s fb.heard) core slot fun w => modFibre w l fun f => { f with heard := [] }
      else s
    if order ≥ 2 then
      modWave (releaseWrites s core scope []) core slot fun w => modFibre w l fun f => { f with fenced := decide (scope < 4) }
    else s

/-- R231, R63, R64: a release fence waits for what the fibre owes; inside a transaction a fence does nothing. -/
def execFence (h : Ctl) (f : MF) (s : State) : Out :=
  let v := viewOf h s
  let acts := v.act.filter fun l => !v.inTx l
  let wait := if f.order.toNat ≥ 2 then acts.filter fun l => owesRelease s v.core v.slot l else []
  let (n, s) := newFlight h v 1 s
  let s := (acts.filter fun l => !wait.contains l).foldl (fenceLane v.core v.slot f.order.toNat f.scope.toNat) s
  .next (deferLanes (.fence h f) v n v.lead (.hold 0) wait s)

/-! ## Atomics -/

/-- The call of an atomic or reduction (R232, R233). -/
def callAtom (f : MXF) (code : Nat) (global red : Bool) (v : View) (l : Nat) : MemCall :=
  let n := sizeOf_ f.size
  { space := if global then .global else .scratch, va := v.opd l f.base (if global then 2 else 1), size := n,
    op := if red then .red f.aop.toNat else .atom f.aop.toNat, data := dataOf v l f.data n, scope := f.scope.toNat,
    dst := f.dst, regs := regsFor n, status := f.second, code := code }

/-- R233. -/
def execAtom (h : Ctl) (f : MXF) (s : State) : Out :=
  .next (execMem (.atom h f) none f.order.toNat 12 (callAtom f 0x90 true false) s)
/-- R233, R47. -/
def execAtoms (h : Ctl) (f : MXF) (s : State) : Out :=
  .next (execMem (.atoms h f) none f.order.toNat 12 (callAtom f 0x91 false false) s)
/-- R233. -/
def execRed (h : Ctl) (f : MXF) (s : State) : Out :=
  .next (execMem (.red h f) none f.order.toNat 1 (callAtom f 0x92 true true) s)
/-- R233, R47. -/
def execReds (h : Ctl) (f : MXF) (s : State) : Out :=
  .next (execMem (.reds h f) none f.order.toNat 1 (callAtom f 0x93 false true) s)

/-- The call of a compare-and-swap (R234). -/
def callCas (f : MXF) (code : Nat) (op : MemOp) (cmp : View → Nat → Nat) (v : View) (l : Nat) : MemCall :=
  let n := sizeOf_ f.size
  { space := .global, va := v.opd l f.base 2, size := n, op := op, data := dataOf v l f.data n, cmp := cmp v l,
    scope := f.scope.toNat, dst := f.dst, regs := regsFor n, code := code }

/-- R234. -/
def execCas (h : Ctl) (f : MXF) (s : State) : Out :=
  .next (execMem (.cas h f) none f.order.toNat 12
    (callCas f 0x94 .cas fun v l => dataOf v l f.second (sizeOf_ f.size)) s)
/-- R234. -/
def execCasgt (h : Ctl) (f : MXF) (s : State) : Out :=
  .next (execMem (.casgt h f) none f.order.toNat 12 (callCas f 0x95 (.casgt (f.sub == 1)) fun _ _ => 0) s)
/-- R234. -/
def execCasver (h : Ctl) (f : MXF) (s : State) : Out :=
  .next (execMem (.casver h f) none f.order.toNat 12
    (callCas f 0x96 .casver fun v l => v.opd l f.second 1) s)
/-- R234. -/
def execCasptr (h : Ctl) (f : MXF) (s : State) : Out :=
  .next (execMem (.casptr h f) none f.order.toNat 12
    (callCas f 0x97 .casptr fun v l => dataOf v l f.second (sizeOf_ f.size)) s)
/-- R235, R236: bits 17:10 hold the routine index. -/
def execPcall (h : Ctl) (f : MXF) (s : State) : Out :=
  .next (execMem (.pcall h f) (some 7) f.order.toNat 12
    (callCas f 0x98 (.pcall (f.aop.toNat * 4 + f.rsv.toNat)) fun v l => dataOf v l f.second (sizeOf_ f.size)) s)

/-! ## Transactions (R237 to R242) -/

/-- The B-format target (R162). -/
def targetB (clause : W64) (disp : BitVec 24) : W64 :=
  BitVec.ofNat 64 (wrap 64 (clause.toNat + 16 * sval 24 disp.toNat))

/-- One lane of `txbegin` (R240); the second value says that the lane waits for the token. -/
def txBeginLane (s : State) (v : View) (target : W64) (serial : Bool) (l : Nat) : State × Bool :=
  let x := v.lane l
  if x.tx.depth = 255 then (abortLane s v.core v.slot l 7 0, false)
  else if x.tx.depth > 0 then
    (modWave s v.core v.slot fun w => modLane w l fun y => { y with tx := { y.tx with depth := y.tx.depth + 1 } }, false)
  else
    let s := modWave s v.core v.slot fun w => modLane w l fun y =>
      { y with tx := ⟨1, target, false, [], [], []⟩ }
    if serial && abortCount x.abort ≥ 4 then
      (modDistrict s v.crew.district fun d => { d with tokenWaiters := d.tokenWaiters ++ [(v.core, v.slot, l)] }, true)
    else (s, false)

def txBeginLanes (v : View) (target : W64) (serial : Bool) : List Nat → State → List Nat → State × List Nat
  | [], s, ws => (s, ws)
  | l :: ls, s, ws =>
    let (s, wait) := txBeginLane s v target serial l
    txBeginLanes v target serial ls s (if wait then ws ++ [l] else ws)

/-- R240. -/
def execTxbegin (h : Ctl) (f : BF) (s : State) : Out :=
  let v := viewOf h s
  let (n, s) := newFlight h v 1 s
  let (s, ws) := txBeginLanes v (targetB v.clause f.disp) (f.sub == 1) v.act s []
  .next (waitLanes s v n (fun _ => .token) ws)

/-- The place of a logged word at the commit (R72); a page that is missing is reported as a load's would be (R303). -/
def commitWord (s : State) (d : District) (write : Bool) (ia : Nat) : State × Option Nat :=
  match byteAtIa s d.ctx .home write ia with
  | .mem p _ => (s, some p)
  | .noPage p a fl => (reportMiss s p d.ctx a (fl / 2 * 2), none)
  | _ => (s, none)

/-- A logged word by its intermediate address, in a list with rising ones. -/
def insertWord (x : Bool × Nat) : List (Bool × Nat) → List (Bool × Nat)
  | [] => [x]
  | y :: r => if x.2 ≤ y.2 then x :: y :: r else y :: insertWord x r

/-- The words of both logs by rising intermediate address, in which their lines are locked (R72). -/
def lockOrder (tx : LaneTx) : List (Bool × Nat) :=
  (tx.reads.map (fun e => (false, e.ia)) ++ tx.writes.map fun e => (true, e.ia)).foldl (fun l x => insertWord x l) []

/-- Whether no page forbids the commit; the first that does ends the locking (R72). -/
def commitPages (d : District) : List (Bool × Nat) → State → State × Bool
  | [], s => (s, true)
  | (wr, ia) :: r, s => match commitWord s d wr ia with
    | (s, none) => (s, false)
    | (s, some _) => commitPages d r s

/-- The place of a logged word whose page stands. -/
def wordPlace (s : State) (d : District) (ia : Nat) : Nat :=
  match byteAtIa s d.ctx .home false ia with
  | .mem p _ => p
  | _ => 0

/-- Applies the write log at the places of its words. -/
def applyLog (m : Memory) : List (Nat × TxWrite) → Memory
  | [] => m
  | (p, e) :: r =>
    let m := (List.range 8).foldl (fun m i =>
      if bit e.mask.toNat i then writeByte m (p + i) (BitVec.ofNat 8 (e.bytes.toNat / 2 ^ (8 * i))) else m) m
    applyLog m r

/-- The result of a lane's outermost `txend`: its mask bit, the cause; or it must issue again. -/
inductive Commit where
  | committed (s : State)
  | failed (s : State) (cause : Nat)
  /-- it waits, at the replay log or for the home -/
  | again (stall : Bool)
  | nested

/-- R241, R72, R74, R226. -/
def commitLane (s : State) (core slot l : Nat) (dk : Nat) : Commit :=
  match waveAt s core slot, districtAt s dk with
  | some w, some d =>
    let x := laneAt w l
    let rec_ := fun (n obj reads : Nat) =>
      ({ kind := 2, check := n, core := core, slot := slot, lane := l, detail := reads, object := obj, second := 0 } : RRec)
    if x.tx.depth > 1 then .nested
    else if x.tx.depth = 0 then .failed s 9
    else if x.tx.serial then
      let r := rec_ (x.tx.inPlace.length % 65536) (x.tx.inPlace.foldl min (x.tx.inPlace.headD 0)) 0
      match replayGate s dk r with
      | .stall => .again true
      | .diverge => .failed (diverge s dk core) 6
      | .go => match replayLog s dk r with
        | (s, true) => .failed s 6
        | (s, false) => .committed s
    else
      match commitPages d (lockOrder x.tx) s with
      | (s, false) => .failed s 4
      | (s, true) =>
        let rp := x.tx.reads.map fun e => wordPlace s d e.ia
        let wp := x.tx.writes.map fun e => wordPlace s d e.ia
        let ps := rp ++ wp
        let same := (rp.zip x.tx.reads).all fun e => readNat s.mem.bytes e.1 8 = e.2.bytes.toNat
        let token := match d.token with | some t => t ≠ (core, slot, l) | none => false
        if engineOwns s ps then .again false
        else if token || !same then .failed s 1
        else
          let obj := x.tx.writes.foldl (fun m e => min m e.ia) ((x.tx.writes.map (·.ia)).headD 0)
          let r := rec_ x.tx.writes.length obj x.tx.reads.length
          let apply := fun (s : State) =>
            let s := promote s 4 (ps.map lineOf).eraseDups
            monitored s d.ctx true (wp.flatMap fun p => (List.range 8).map (p + ·))
              (dirtyAtSlice (clearPoison (modMem s fun m => applyLog m (wp.zip x.tx.writes))
                ((wp.zip x.tx.writes).flatMap fun e => ((List.range 8).filter (bit e.2.mask.toNat)).map (e.1 + ·))) wp)
          match replayGate s dk r with
          | .stall => .again true
          | .diverge => .failed (diverge s dk core) 6
          | .go =>
            match replayLog s dk r with
            | (s, true) => .failed s 6
            | (s, false) => .committed (apply s)
  | _, _ => .failed s 9

/-- Ends the lane's transaction with an outcome (R238, R241). -/
def txOutcome (s : State) (core slot l dk : Nat) (ok : Bool) (cause : Nat) : State :=
  let s := freeToken s dk core slot l
  modWave s core slot fun w => modLane w l fun x =>
    if cause = 9 then
      { x with abort := (x.abort &&& ~~~ 0xFF00F#32) ||| 9 }
    else
      { x with tx := { laneTxInit with target := x.tx.target },
               abort := abortWord false 0 (if ok then 0 else abortCount x.abort + 1) cause }

/-- What the lanes of a `txend` have done: mask bits written and which, the lanes that wait, and that one waits, so that
no higher lane commits before it (R72). -/
structure TxEnd where
  s : State
  bits : Nat := 0
  which : Nat := 0
  wait : List Nat := []
  stall : Bool := false

/-- One lane of a `txend` (R241). An outermost one is a release, which waits for what the fibre owes (R64). -/
def txEndLane (core slot dk : Nat) (a : TxEnd) (l : Nat) : TxEnd :=
  let outer := match waveAt a.s core slot with
    | some w => (laneAt w l).tx.depth = 1
    | none => false
  if outer && (a.wait ≠ [] || owesRelease a.s core slot l) then { a with wait := a.wait ++ [l] }
  else match commitLane a.s core slot l dk with
    | .nested => { a with
        s := modWave a.s core slot fun w => modLane w l fun x => { x with tx := { x.tx with depth := x.tx.depth - 1 } } }
    | .committed s => { a with
        s := fenceLane core slot 3 4 (txOutcome s core slot l dk true 0) l, bits := a.bits + 2 ^ l, which := a.which + 2 ^ l }
    | .failed s c => { a with s := txOutcome s core slot l dk false c, which := a.which + 2 ^ l }
    | .again st => { a with wait := a.wait ++ [l], stall := a.stall || st }

/-- Adds mask bits to what a flight writes at its completion. -/
def flightMask (s : State) (n k which bits : Nat) : State :=
  modFlight s n fun f =>
    let old := match f.mask with
      | some (_, w, b) => (w, b)
      | none => (0, 0)
    { f with mask := some (k, old.1 ||| BitVec.ofNat 32 which, old.2 ||| BitVec.ofNat 32 bits) }

/-- R241: `txend` writes only its active lanes' bits of km, when it completes. -/
def execTxend (h : Ctl) (f : GF) (s : State) : Out :=
  let v := viewOf h s
  let (n, s) := newFlight h v 1 s
  let a := v.act.foldl (txEndLane v.core v.slot v.crew.district) { s := s }
  let s := flightMask a.s n (f.dst.toNat - 0xE0) a.which a.bits
  .next (deferLanes (.txend h f) v n none (if a.stall then .replay else .hold 0) a.wait s)

/-- R242. -/
def execTxabort (h : Ctl) (f : GF) (s : State) : Out :=
  match shape (.txabort h f) with
  | none => .next s
  | some sh =>
    let v := viewOf h s
    let (_, s) := newFlight h v 1 s
    let s := v.act.foldl (fun s l =>
      if windowOk sh v.wave.id.allot (v.win l) (v.win l) && v.inTx l then
        abortLane s v.core v.slot l 5 (v.opd l f.a 1 % 256) else s) s
    .next (takeFaults s v.core v.slot v.pc
      ((v.act.filter fun l => !windowOk sh v.wave.id.allot (v.win l) (v.win l)).map fun l => (l, faultWindow)))

end Sys2Proof.Machine
end

