-- ==== Sys2Proof/Machine/Control.lean ====
section
/-! DEFINITION. Control transfer and fibres (R15, R16, R20 to R25, R192 to R197), and the events of the wave scheduler:
selection, completion, mask arrival and the releases of JOIN and WAITM. -/

namespace Sys2Proof.Machine

/-! ## Branches, calls and loops -/

/-- R192. -/
def execBra (h : Ctl) (f : BF) (s : State) : Out :=
  .next (perLane (.bra h f) (fun v _ => .done { goto := some (targetB v.clause f.disp) }) s)

/-- A register-indirect target that is not a clause start is reason 8 (R162). -/
def gotoReg (x : Nat) (o : LaneOut) : LaneRes :=
  if x % 16 ≠ 0 then .trap (faultIllegal 8) else .done { o with goto := some (BitVec.ofNat 64 x) }

/-- R192, R162. -/
def execJmp (h : Ctl) (f : GF) (s : State) : Out :=
  .next (perLane (.jmp h f) (fun v l => gotoReg (v.opd l f.a 2) {}) s)

/-- A call in one lane: the new window base, the link named under it, the target (R193). -/
def callLane (sh : Shape) (v : View) (inc : Nat) (dst : BitVec 8) (target : Nat) (l : Nat) : LaneRes :=
  let w := v.win l + 8 * inc
  if w ≥ v.wave.id.allot || !windowOk sh v.wave.id.allot (v.win l) w then .trap faultWindow
  else gotoReg target { wr := [⟨dst, 2, clauseEnd v.clause.toNat (v.index + 1)⟩], win := some w }

/-- R193. -/
def execCall (h : Ctl) (f : BF) (s : State) : Out :=
  match shape (.call h f) with
  | none => .next s
  | some sh =>
    let v := viewOf h s
    .next (commitFixed 2 v (v.act.map fun l =>
      (l, callLane sh v f.a.toNat f.dst (targetB v.clause f.disp).toNat l)) s)

/-- R193. -/
def execCallr (h : Ctl) (f : GF) (s : State) : Out :=
  match shape (.callr h f) with
  | none => .next s
  | some sh =>
    let v := viewOf h s
    .next (commitFixed 2 v (v.act.map fun l => (l, callLane sh v f.sub.toNat f.dst (v.opd l f.a 2) l)) s)

/-- R193. -/
def execRet (h : Ctl) (f : GF) (s : State) : Out :=
  .next (perLane (.ret h f) (fun v l =>
    if v.win l < 8 * f.sub.toNat then .trap faultWindow
    else gotoReg (v.opd l f.a 2) { win := some (v.win l - 8 * f.sub.toNat) }) s)

/-- R194: a scalar counter is written once, by the lowest active lane, and every lane sees its value. -/
def execLoop (h : Ctl) (f : BF) (s : State) : Out :=
  .next (perLane (.loop h f) (fun v l =>
    let x := (v.opd l f.dst 1 + (2 ^ 32 - 1)) % 2 ^ 32
    .done { wr := [⟨f.dst, 1, x⟩], goto := if x = 0 then none else some (targetB v.clause f.disp) }) s)

/-! ## Fibres -/

/-- The lanes of a FORK as they take free slots in increasing order (R15, R195). -/
structure Forking where
  run : LaneRun
  free : List Nat
  made : List Nat

/-- One lane of a FORK. Its new fibre's v0 is written in the clock of issue. DESIGN CHOICE (log 62). -/
def forkLane (sh : Shape) (v : View) (flight : Nat) (target : W64) (f : BF) (a : Forking) (l : Nat) : Forking :=
  let wb := v.opd l f.b 1
  if !windowOk sh v.wave.id.allot (v.win l) (v.win l) || wb % 8 ≠ 0 || wb ≥ v.wave.id.allot then
    { a with run := a.run.fault l faultWindow }
  else
    let dst := if regClass f.dst == .vec || a.run.first l then targetsOf l (v.win l) f.dst 1 else []
    let res := fun (s : State) (x : Nat) =>
      { a.run with s := s, ws := a.run.ws ++ dst.zip [BitVec.ofNat 32 x] }.leads l
    match a.free with
    | [] => { a with run := res a.run.s 0xFFFFFFFF }
    | m :: free =>
      let fb : Fibre := { fibreInit with
        pc := target, next := target, preds := (v.fibre l).preds, win := wb, wait := .fresh, flight := flight }
      let s := modWave a.run.s v.core v.slot fun w =>
        let w := { w with fibres := mset w.fibres m fb }
        landWrite w (.v m wb) (BitVec.ofNat 32 (v.opd l f.a 1))
      { run := res s m, free := free, made := a.made ++ [m] }

/-- R15, R195: a release at `.wave` (R64); the new fibres become ready when the FORK completes. -/
def execFork (h : Ctl) (f : BF) (s : State) : Out :=
  match shape (.fork h f) with
  | none => .next s
  | some sh =>
    let (v, wait) := splitRelease true (fun _ => false) (viewOf h s) s
    let (n, s) := newFlight h v 1 s
    let free := (List.range 32).filter fun m => (mget v.wave.fibres m).isNone
    let a := v.act.foldl (forkLane sh v n (targetB v.clause f.disp) f) ⟨{ s := s, ws := [], faults := [], lead := v.lead }, free, []⟩
    let s := a.run.finish (.fork h f) v n wait
    .next (modFlight s n fun x => { x with wake := x.wake ||| BitVec.ofNat 32 (maskOf a.made) })

/-- A wave that holds no fibre has ended (R16). -/
def endWave (s : State) (core slot : Nat) (pc : W64) (ls : List Nat) : State :=
  modWave s core slot fun w =>
    let w := modSched w fun q => { q with lastQuit := pc, quitLanes := BitVec.ofNat 32 (maskOf ls) }
    if w.fibres = [] then { w with ended := true, sched := { w.sched with run := none } } else w

/-- The fibres of lanes quit at `pc`: two clocks later their bits in k0 to k11 clear and their slots free (R16, R20). -/
def quitLanes (s : State) (core slot : Nat) (pc : W64) (ls : List Nat) : State :=
  modWave s core slot fun w =>
    let w := ls.foldl (fun w l => modFibre w l fun f => { f with wait := .quit (s.clock + 2), pc := pc }) w
    if ls = [] then w
    else endRun ((List.range 12).foldl (fun w k => pendClear w s.clock k (BitVec.ofNat 32 (maskOf ls))) w)

/-- Fibres that have quit and whose slots free by `clock`. -/
def quitDue (clock : Nat) (w : Wave) : List Nat :=
  (w.fibres.filter fun e => match e.2.wait with
    | .quit u => u ≤ clock
    | _ => false).map Prod.fst

/-- Their slots free (R16, R20). -/
def freeQuit (s : State) (core slot : Nat) : State :=
  match waveAt s core slot with
  | none => s
  | some w => match quitDue s.clock w with
    | [] => s
    | l :: ls =>
      let pc := ((mget w.fibres l).map (·.pc)).getD 0
      endWave ((l :: ls).foldl (fun s l => quitLane s core slot l) s) core slot pc (l :: ls)

/-- R16, R196. -/
def execQuit (h : Ctl) (_f : GF) (s : State) : Out :=
  let v := viewOf h s
  .next (quitLanes s v.core v.slot v.pc v.act)

/-- R21. -/
def execLeave (h : Ctl) (f : GF) (s : State) : Out :=
  let v := viewOf h s
  if v.act = [] then .next s
  else .next (modWave s v.core v.slot fun w => pendClear w s.clock (f.a.toNat - 0xE0) (BitVec.ofNat 32 (maskOf v.act)))

/-- R20: lanes whose own bit is clear pass; the others wait. -/
def execJoin (h : Ctl) (f : GF) (s : State) : Out :=
  let v := viewOf h s
  let k := f.a.toNat - 0xE0
  let m := (rget v.wave.regs.k k).toNat
  let (n, s) := releaseFlight h v s
  .next (waitLanes s v n (fun _ => .join k) (v.act.filter (bit m)))

/-- R22, R23: every active lane takes a snapshot and waits; a blocking point aborts a transaction (R238). -/
def execWaitm (h : Ctl) (f : GF) (s : State) : Out :=
  let (v, s) := refuseTx 8 (viewOf h s) s
  let wait := v.act.filter fun l => owesRelease s v.core v.slot l
  let (n, s) := releaseFlight h v s
  let s := waitLanes s v n (fun _ => .waitm (rget v.wave.regs.k (f.a.toNat - 0xE0))) (v.act.filter fun l => !wait.contains l)
  .next (deferLanes (.waitm h f) v n none (.hold 0) wait s)

/-! ## Releases -/

/-- G of a district's causal experiment (R416). -/
def causalOwed (s : State) (d : Nat) : Nat := ((districtAt s d).map (·.dbg.causal.owed)).getD 0

/-- Lane `l` goes on after its wait: its part of the instruction is done (R310, R314). -/
def endWait (s : State) (core slot l : Nat) : State :=
  match (waveAt s core slot).bind fun w => mget w.fibres l with
  | none => s
  | some f => modWave (flightLaneDone s f.flight l) core slot fun w => releaseLane w l

/-- Lane `l` goes on after its wait with these results: they are written, its part of the instruction is done, and
the wave owes no inserted delay (R22, R310, R416). -/
def wakeLane (s : State) (core slot l : Nat) (ws : List (Target × W32)) : State :=
  match waveAt s core slot with
  | none => s
  | some w => match mget w.fibres l with
    | none => s
    | some f =>
      let s := flightLaneDone s f.flight l
      let owed := causalOwed s (districtOfWave s core slot)
      modWave s core slot fun w => releaseLane (modSched (landAll w ws) fun q => { q with paid := owed }) l

def wakeLanes (s : State) (core slot : Nat) : List (Nat × List (Target × W32)) → State
  | [] => s
  | (l, ws) :: r => wakeLanes (wakeLane s core slot l ws) core slot r

/-- Lanes that wait at a JOIN of mask `k` at `pc`. -/
def joinWaiters (w : Wave) (k : Nat) (pc : W64) : List Nat :=
  (w.fibres.filter fun e => e.2.wait = .join k && e.2.pc = pc).map Prod.fst

/-- R20: every slot of the live mask is empty or waits at this JOIN. -/
def joinHolds (w : Wave) (k : Nat) (pc : W64) : Bool :=
  (lanesOf (rget w.regs.k k).toNat).all fun m => match mget w.fibres m with
    | none => true
    | some f => f.wait = .join k && f.pc = pc

/-- Lanes whose JOIN is complete. -/
def joinReady (w : Wave) : List Nat :=
  (w.fibres.filter fun e => match e.2.wait with
    | .join k => joinHolds w k e.2.pc
    | _ => false).map Prod.fst

/-- R22: lanes whose snapshot holds only empty slots and slots that wait at a WAITM, all judged together. -/
def waitmReady (w : Wave) : List Nat :=
  (w.fibres.filter fun e => match e.2.wait with
    | .waitm snap => (lanesOf snap.toNat).all fun m => match mget w.fibres m with
      | none => true
      | some f => match f.wait with | .waitm _ => true | _ => false
    | _ => false).map Prod.fst

def execJoinRelease (core slot : Nat) (s : State) : Out :=
  match waveAt s core slot with
  | none => .next s
  | some w => .next (wakeLanes s core slot ((joinReady w).map fun l => (l, [])))

def execWaitmRelease (core slot : Nat) (s : State) : Out :=
  match waveAt s core slot with
  | none => .next s
  | some w => .next (wakeLanes s core slot ((waitmReady w).map fun l => (l, [])))

/-! ## Scheduler events -/

/-- R17: a selection, enabled when the wave has no convoy under way and a group is ready. A wave that owes inserted
delay is held first (R416). -/
def execWaveSelection (core slot : Nat) (s : State) : Out :=
  match waveAt s core slot with
  | none => if core < 768 && slot < 64 then .next s else .fault .noSuchUnit
  | some w =>
    match waveDistrict s w with
    | none => .next s
    | some d =>
      if runLanes s.clock w ≠ [] then .next s
      else if owes d w ≠ 0 then .next (setWave s core slot (payDelay s.clock d w))
      else match selectWave s d w with
        | none => .next s
        | some w => .next (setWave s core slot w)

/-- A core number that stands for crews or waves that no longer have a place on a core. -/
def noCore : Nat := 2 ^ 40

/-- An operation may complete (R310, R323); those of a saved crew, on cores from 1,024, wait for its restore. -/
def flightDone (s : State) (f : Flight) : Bool := f.waits == 0 && f.due ≤ s.clock && (f.core < 1024 || noCore ≤ f.core)

/-- R310. -/
def execVariableLatencyCompletion (flight : Nat) (s : State) : Out :=
  match mget s.flights flight with
  | none => .next s
  | some f => if flightDone s f then .next (endFlight s flight) else .next s

/-- R20, R191: mask writes that are due reach their masks, and the slots of fibres that have quit free. -/
def execMaskWriteArrival (core slot : Nat) (s : State) : Out :=
  .next (freeQuit (modWave s core slot fun w => landPend w fun p => p.land ≤ s.clock && isMaskTarget p.target) core slot)

/-- R240: the district's token goes to the lane that has waited longest. -/
def execSerialTokenGrant (district : Nat) (s : State) : Out :=
  match districtAt s district with
  | none => .next s
  | some d =>
    match d.token, d.tokenWaiters with
    | none, (c, t, l) :: r =>
      let s := modDistrict s district fun x => { x with token := some (c, t, l), tokenWaiters := r }
      let s := modWave s c t fun w => modLane w l fun x =>
        { x with tx := { x.tx with serial := true }, abort := x.abort ||| 0x100000#32 }
      .next (endWait s c t l)
    | _, _ => .next s

end Sys2Proof.Machine
end

