-- ==== Sys2Proof/Machine/Sync.lean ====
section
/-! DEFINITION. Barrier objects (R243 to R246), belfry tags (R247, R364), queue windows (R25, R248) and service calls
(R249, R361 to R363), with the events that end their waits. -/

namespace Sys2Proof.Machine

/-! ## Barrier objects -/

/-- A word of a barrier object in a memory that holds the grant from `base`. -/
def objWord (m : Memory) (base off i : Nat) : Nat := readNat m (base + off + 4 * i) 4

/-- Whether the next arrival completes the phase (R245). -/
def objCompletes (m : Memory) (base off : Nat) : Bool := objWord m base off 1 == 1

/-- One arrival in a memory: the phase arrived in and the new contents (R245). DESIGN CHOICE (log 74): it goes on from
the bytes that stand there, also after a racing store (R243). -/
def objArrive (m : Memory) (base off : Nat) : Nat × Memory :=
  let count := objWord m base off 0 % 65536
  let remaining := (objWord m base off 1 + (2 ^ 32 - 1)) % 2 ^ 32
  let phase := objWord m base off 2
  if remaining = 0 then
    (phase, writeNat (writeNat m (base + off + 8) 4 ((phase + 1) % 2 ^ 32)) (base + off + 4) 4 count)
  else (phase, writeNat m (base + off + 4) 4 remaining)

/-- Base of a resident crew's grant among the places of memory (R26, R47). -/
def grantBase (k : Nat) (c : Crew) : Nat := scratchPlace (k / 16) c.scratchBase

/-- The record of a phase completion (R226, R419). -/
def barRecord (s : State) (k : Nat) (c : Crew) (off : Nat) : RRec :=
  { kind := 3, check := (objWord s.mem.bytes (grantBase k c) off 2 + 1) % 65536, core := k / 16, slot := 0xFF,
    lane := k % 16, detail := objWord s.mem.bytes (grantBase k c) off 0 % 65536, object := off, second := 0 }

/-- An arrival at an object of crew `k`: none when it would complete a phase whose record must wait (R421, R422). -/
def barArrive (s : State) (k : Nat) (c : Crew) (off : Nat) : Option (Nat × State) :=
  let base := grantBase k c
  let r := barRecord s k c off
  let done := objCompletes s.mem.bytes base off
  if done && replayGate s c.district r = .stall then none
  else
    let (ph, m) := objArrive s.mem.bytes base off
    let s := modMem s fun _ => m
    some (ph, if done then (replayLog s c.district r).1 else s)

/-- R244, R296: bounds, then alignment, of an object in a grant. -/
def objFault (grant acc off : Nat) : Option FaultRec :=
  if off + 16 > grant then some { cause := 5, access := acc, addr := max off grant }
  else if off % 16 ≠ 0 then some { cause := 6, access := acc, addr := off }
  else none

/-- R244 in one lane. -/
def binitLane (sh : Shape) (v : View) (f : GF) (a : State × List (Nat × FaultRec)) (l : Nat) : State × List (Nat × FaultRec) :=
  let off := v.opd l f.a 1
  let n := v.opd l f.b 1
  let fault := fun x => (a.1, a.2 ++ [(l, x)])
  if !windowOk sh v.wave.id.allot (v.win l) (v.win l) then fault faultWindow
  else if n = 0 || n > 65535 then fault { cause := 11 }
  else match objFault v.crew.scratch 2 off with
    | some x => fault x
    | none =>
      let at_ := scratchPlace v.core v.crew.scratchBase + off
      (modMem a.1 fun m => writeNat (writeNat m at_ 8 (n + n * 2 ^ 32)) (at_ + 8) 8 0, a.2)

/-- R244. -/
def execBinit (h : Ctl) (f : GF) (s : State) : Out :=
  match shape (.binit h f) with
  | none => .next s
  | some sh =>
    let v := viewOf h s
    let (_, s) := newFlight h v 1 s
    let (s, fs) := v.act.foldl (binitLane sh v f) (s, [])
    .next (takeFaults s v.core v.slot v.pc fs)

/-- The crew whose object a lane names: its own, or a gang member's (R245, R48). -/
def barTarget (s : State) (v : View) (f : GF) (l : Nat) : Option (Nat × Crew) :=
  if bit f.sub.toNat 1 then
    let r := v.opd l f.b 1
    if v.crew.gang.isNone || r ≥ v.crew.gangSize then none
    else match gangMember s v.crew r with
      | none => none
      | some k => (crewAt s k).map fun c => (k, c)
  else some (v.wave.id.crew, v.crew)

/-- Arrivals in increasing lane order; `outs` are the lanes that receive the arrival's phase (R245). -/
def barLanes (sh : Shape) (v : View) (f : GF) (outs : Nat → List Nat) :
    List Nat → LaneRun → LaneRun
  | [], a => a
  | l :: ls, a =>
    let fault := fun x => barLanes sh v f outs ls (a.fault l x)
    if !windowOk sh v.wave.id.allot (v.win l) (v.win l) then fault faultWindow
    else
      let off := v.opd l f.a 1
      match barTarget a.s v f l with
      | none => fault { cause := 7, access := 3, addr := off }
      | some (k, c) => match objFault c.scratch 3 off with
        | some x => fault x
        | none => match barArrive a.s k c off with
          | none => { a with again := l :: ls, lead := a.lead <|> some l }
          | some (ph, s) =>
            let ws := allWrites v (a.first l) ((outs l).map fun m => (m, { wr := [⟨f.dst, 1, ph⟩] }))
            barLanes sh v f outs ls ({ a with s := s, ws := a.ws ++ ws }.leads l)

/-- R245: each arrival is a release at the object's scope (R64). With `.once` the lowest active lane arrives for all,
and its phase goes to every active lane in its window (R13); the whole instruction waits for its one arrival. -/
def execBarr (h : Ctl) (f : GF) (s : State) : Out :=
  match shape (.barr h f) with
  | none => .next s
  | some sh =>
    let once := bit f.sub.toNat 0
    let v := viewOf h s
    let ok := fun l => windowOk sh v.wave.id.allot (v.win l) (v.win l)
    let outs := if once then v.act.filter ok else v.act
    let go := if once then outs.take 1 else v.act
    let (w, wait) := splitRelease true (fun _ => false) { v with act := go } s
    let wait := if once && wait ≠ [] then outs else wait
    let (n, s) := newFlight h v 1 s
    let s := if w.act = [] then s else releaseWrites s v.core (scratchScope v.crew) []
    let bad := if once then (v.act.filter fun l => !ok l).map fun l => (l, faultWindow) else []
    let a := barLanes sh v f (fun l => if once then outs else [l]) w.act { s := s, ws := [], faults := bad, lead := v.lead }
    let faults := if once && a.faults.length ≠ bad.length then
        bad ++ outs.flatMap fun l => (a.faults.drop bad.length).map fun e => (l, e.2)
      else a.faults
    .next ({ a with faults := faults, again := if once && a.again ≠ [] then outs else a.again }.finish (.barr h f) v n wait)

/-- The phase of an object of the wave's crew (R246). -/
def objPhase (s : State) (core : Nat) (c : Crew) (off : Nat) : Nat :=
  objWord s.mem.bytes (scratchPlace core c.scratchBase) off 2

/-- What the active lanes of a wait do: pass with results, begin to wait, or fault. -/
structure Waiting where
  ws : List (Target × W32) := []
  wait : List (Nat × Wait) := []
  faults : List (Nat × FaultRec) := []
  first : Bool := true

/-- The destination that a lane's wait will write: a scalar takes the lowest lane only (R156). -/
def waitDst (first : Bool) (e : BitVec 8) : BitVec 8 := if regClass e == .vec || first then e else 0xFF

def startWaits (s : State) (v : View) (n : Nat) (a : Waiting) : State :=
  let s := flightWrites s n a.ws 0
  let s := a.wait.foldl (fun s e => waitLanes s v n (fun _ => e.2) [e.1]) s
  takeFaults s v.core v.slot v.pc a.faults

/-- R246: a blocking point. -/
def execBwait (h : Ctl) (f : GF) (s : State) : Out :=
  match shape (.bwait h f) with
  | none => .next s
  | some sh =>
    let (v, s) := refuseTx 8 (viewOf h s) s
    let (n, s) := newFlight h v 1 s
    let a := v.act.foldl (fun (a : Waiting) l =>
      if !windowOk sh v.wave.id.allot (v.win l) (v.win l) then { a with faults := a.faults ++ [(l, faultWindow)] }
      else
        let off := v.opd l f.a 1
        match objFault v.crew.scratch 1 off with
        | some x => { a with faults := a.faults ++ [(l, x)] }
        | none =>
          let ph := objPhase s v.core v.crew off
          let want := v.opd l f.b 1
          let dst := waitDst a.first f.dst
          if ph ≠ want then
            { a with ws := a.ws ++ (targetsOf l (v.win l) dst 1).zip [BitVec.ofNat 32 ph], first := false }
          else { a with wait := a.wait ++ [(l, .bwait off (BitVec.ofNat 32 want) dst)], first := false }) {}
    .next (startWaits s v n a)

/-! ## Belfry tags -/

def belfryInit : Belfry := ⟨none, 0, 0, 0, [0, 0, 0, 0], [], 0⟩
def belfryAt (s : State) (t : Nat) : Belfry := (mget s.belfry t).getD belfryInit
def modBelfry (s : State) (t : Nat) (f : Belfry → Belfry) : State :=
  { s with belfry := mset s.belfry t (f (belfryAt s t)) }
/-- The phase of a tag as a core of die `d` sees it (R247). -/
def belfrySeen (s : State) (t d : Nat) : W32 := (belfryAt s t).visible.getD d 0

/-- One arrival from die `die` (R247): the phase of a completion is on its way to every die. -/
def belfryArrive (clock die : Nat) (b : Belfry) : Belfry :=
  if b.arrived + 1 < b.count then { b with arrived := b.arrived + 1 }
  else
    let p := b.phase + 1
    { b with arrived := 0, phase := p,
             coming := b.coming ++ (List.range 4).map fun d => (d, clock + (if d = die then 40 else 96), p) }

/-- R247: one arrival per instruction, a release at `.device`. -/
def execBfarr (h : Ctl) (f : GF) (s : State) : Out :=
  let v := viewOf h s
  let t := f.sub.toNat
  let b := belfryAt s t
  let wait := v.act.filter fun l => owesRelease s v.core v.slot l
  let (n, s) := newFlight h v 1 s
  let r : RRec := { kind := 4, check := (b.phase.toNat + 1) % 65536, core := 0xFFFF, slot := 0xFF, lane := 0xFF,
                    detail := t, object := 0, second := 0 }
  let completes := b.arrived + 1 ≥ b.count
  match shape (.bfarr h f) with
  | none => .next s
  | some sh =>
    let seen := (belfrySeen s t (dieOfCore v.core)).toNat
    let rs := resultsOf sh v fun _ _ => if b.district = some v.crew.district then outReg f.dst 1 seen else .trap { cause := 12 }
    let ok := (doneOf rs).map Prod.fst
    let bad := fun (s : State) => takeFaults s v.core v.slot v.pc (trapsOf rs)
    -- an arrival needs a lane that does not fault
    if ok = [] then .next (bad s)
    else if wait ≠ [] then .next (bad (deferLanes (.bfarr h f) v n none (.hold 0) ok s))
    else if completes && replayGate s v.crew.district r = .stall then
      .next (bad (deferLanes (.bfarr h f) v n none .replay ok s))
    else
      let s := modBelfry (releaseWrites s v.core 4 []) t (belfryArrive s.clock (dieOfCore v.core))
      let s := if completes then (replayLog s v.crew.district r).1 else s
      .next (bad (flightWrites s n (allWrites v true (doneOf rs)) 0))

/-- R247: a blocking point. -/
def execBfwait (h : Ctl) (f : GF) (s : State) : Out :=
  match shape (.bfwait h f) with
  | none => .next s
  | some sh =>
    let (v, s) := refuseTx 8 (viewOf h s) s
    let (n, s) := newFlight h v 1 s
    let t := f.sub.toNat
    let seen := belfrySeen s t (dieOfCore v.core)
    let a := v.act.foldl (fun (a : Waiting) l =>
      if !windowOk sh v.wave.id.allot (v.win l) (v.win l) then { a with faults := a.faults ++ [(l, faultWindow)] }
      else if (belfryAt s t).district ≠ some v.crew.district then { a with faults := a.faults ++ [(l, { cause := 12 })] }
      else
        let want := BitVec.ofNat 32 (v.opd l f.a 1)
        let dst := waitDst a.first f.dst
        if seen ≠ want then { a with ws := a.ws ++ (targetsOf l (v.win l) dst 1).zip [seen], first := false }
        else { a with wait := a.wait ++ [(l, .bfwait t want dst)], first := false }) {}
    .next (startWaits s v n a)

/-- Results of lanes of a wave whose `bwait` or `bfwait` is over (R246, R247). -/
def phaseReady (s : State) (core : Nat) (w : Wave) : List (Nat × List (Target × W32)) :=
  match crewAt s w.id.crew with
  | none => []
  | some c => w.fibres.filterMap fun e => match e.2.wait with
    | .bwait off ph dst =>
      let now := BitVec.ofNat 32 (objPhase s core c off)
      if now ≠ ph then some (e.1, (targetsOf e.1 e.2.win dst 1).zip [now]) else none
    | .bfwait t ph dst =>
      let now := belfrySeen s t (dieOfCore core)
      if now ≠ ph then some (e.1, (targetsOf e.1 e.2.win dst 1).zip [now]) else none
    | _ => none

def execBwaitRelease (core slot : Nat) (s : State) : Out :=
  match waveAt s core slot with
  | none => .next s
  | some w => .next (wakeLanes s core slot (phaseReady s core w))

/-- R247: a completion's phase becomes visible on a die, 40 or 96 clocks after it, unless a later one is already. -/
def execBelfryPhaseVisible (tag die : Nat) (s : State) : Out :=
  if tag > 7 || die > 3 then .fault .noSuchUnit
  else
    let b := belfryAt s tag
    match b.coming.find? fun e => e.1 = die && e.2.1 ≤ s.clock with
    | none => .next s
    | some e => .next (modBelfry s tag fun b =>
        let old := b.visible.getD die 0
        { b with visible := b.visible.set die (if (b.phase - e.2.2).toNat < (b.phase - old).toNat then e.2.2 else old),
                 coming := b.coming.erase e })

/-! ## Queue windows -/

/-- The slot of the wave with WAVEID `i` of a crew on a core. -/
def slotOfWave (s : State) (k i : Nat) : Option Nat :=
  (s.waves.find? fun e => wkCore e.1 = k / 16 && e.2.id.crew = k && e.2.id.index = i).map fun e => wkSlot e.1

/-- A slot that no wave has. -/
def noSlot : Nat := 2 ^ 40

/-- The paired wave of a wave that plays the given role (R25); one whose slot has been given up is in no slot. -/
def pairSlot (s : State) (w : Wave) (lantern : Bool) : Option Nat :=
  if w.id.lantern != lantern then none else w.id.pair.map fun i => (slotOfWave s w.id.crew i).getD noSlot

/-- A wave has ended or holds no fibre. -/
def waveGone (s : State) (core slot : Nat) : Bool :=
  match waveAt s core slot with
  | some w => w.ended
  | none => true

def qRecord (core slot get idx : Nat) : RRec :=
  { kind := 5, check := idx, core := core, slot := slot, lane := 0xFF, detail := get, object := 0, second := 0 }

/-- Fills the next slot of the window that compute wave `cs` holds (R25). -/
def qFill (s : State) (core slot cs d : Nat) (data : List W32) : State :=
  match waveAt s core cs with
  | none => s
  | some c =>
    let s := (replayLog s d (qRecord core slot 0 (c.puts % 8))).1
    modWave s core cs fun w => { w with window := w.window ++ [data], puts := w.puts + 1 }

/-- What a QPUT can do now: 0 complete without filling, 1 fill, 2 wait. -/
def qputState (s : State) (core slot cs d : Nat) : Nat :=
  if waveGone s core cs then 0
  else match waveAt s core cs with
    | none => 0
    | some c =>
      if c.window.length ≥ 8 then 2
      else if replayGate s d (qRecord core slot 0 (c.puts % 8)) = .stall then 2 else 1

/-- R248. -/
def execQput (h : Ctl) (f : GF) (s : State) : Out :=
  match shape (.qput h f) with
  | none => .next s
  | some sh =>
    let v := viewOf h s
    let (n, s) := newFlight h v 1 s
    let bad := v.act.filter fun l => !windowOk sh v.wave.id.allot (v.win l) (v.win l)
    let ok := v.act.filter fun l => windowOk sh v.wave.id.allot (v.win l) (v.win l)
    let done := fun (s : State) (fs : List (Nat × FaultRec)) => Host.Outcome.next (takeFaults s v.core v.slot v.pc fs)
    match pairSlot s v.wave true with
    | none => done s (v.act.map fun l => (l, if bad.contains l then faultWindow else { cause := 13 }))
    | some cs =>
      let fs := bad.map fun l => (l, faultWindow)
      let data := (List.range 32).map fun l => if ok.contains l then BitVec.ofNat 32 (v.opd l f.a 1) else 0
      if ok = [] then done s fs
      else match qputState s v.core v.slot cs v.crew.district with
        | 0 => done s fs
        | 1 => done (qFill s v.core v.slot cs v.crew.district data) fs
        | _ => done (waitLanes (modFlight s n fun x => { x with data := data }) v n (fun _ => .qput) ok) fs

/-- What a QGET can do now: 0 the lantern has ended and the window is empty, 1 take, 2 wait. -/
def qgetState (s : State) (core slot ls d : Nat) : Nat :=
  match waveAt s core slot with
  | none => 2
  | some w =>
    if w.window = [] then (if waveGone s core ls then 0 else 2)
    else if replayGate s d (qRecord core slot 1 ((w.puts - w.window.length) % 8)) = .stall then 2 else 1

/-- Takes the oldest filled slot. -/
def qTake (s : State) (core slot d : Nat) : List W32 × State :=
  match waveAt s core slot with
  | none => ([], s)
  | some w =>
    let s := (replayLog s d (qRecord core slot 1 ((w.puts - w.window.length) % 8))).1
    (w.window.headD [], modWave s core slot fun w => { w with window := w.window.drop 1 })

/-- Results of a QGET in a lane: the entry and pn true, or pn false. -/
def qgetWrites (l win : Nat) (dst : BitVec 8) (pn : Nat) (entry : Option (List W32)) : List (Target × W32) :=
  let p := if pn < 7 then [(Target.p l pn, if entry.isSome then (1 : W32) else 0)] else []
  match entry with
  | some e => (targetsOf l win dst 1).zip [e.getD l 0] ++ p
  | none => p

/-- R248: an empty window is a blocking point. -/
def execQget (h : Ctl) (f : GF) (s : State) : Out :=
  match shape (.qget h f) with
  | none => .next s
  | some sh =>
    let (v, s) := refuseTx 8 (viewOf h s) s
    let (n, s) := newFlight h v 1 s
    let bad := v.act.filter fun l => !windowOk sh v.wave.id.allot (v.win l) (v.win l)
    let ok := v.act.filter fun l => windowOk sh v.wave.id.allot (v.win l) (v.win l)
    let pn := f.sub.toNat
    let done := fun (s : State) (fs : List (Nat × FaultRec)) => Host.Outcome.next (takeFaults s v.core v.slot v.pc fs)
    match pairSlot s v.wave false with
    | none => done s (v.act.map fun l => (l, if bad.contains l then faultWindow else { cause := 13 }))
    | some ls =>
      let fs := bad.map fun l => (l, faultWindow)
      let give := fun (s : State) (e : Option (List W32)) =>
        flightWrites s n (ok.flatMap fun l => qgetWrites l (v.win l) f.dst pn e) 0
      if ok = [] then done s fs
      else match qgetState s v.core v.slot ls v.crew.district with
        | 0 => done (give s none) fs
        | 1 =>
          let (e, s) := qTake s v.core v.slot v.crew.district
          done (give s (some e)) fs
        | _ => done (waitLanes s v n (fun _ => .qget f.dst pn) ok) fs

/-- Lanes of the earliest operation of a wave that waits at a queue window. -/
def queueWaiters (w : Wave) : List (Nat × Fibre) :=
  let q := w.fibres.filter fun e => match e.2.wait with | .qput | .qget .. => true | _ => false
  match q with
  | [] => []
  | (_, f) :: _ =>
    let n := q.foldl (fun m e => min m e.2.flight) f.flight
    q.filter fun e => e.2.flight = n

/-- What the earliest window wait of a wave can do now; 2 when it goes on waiting. -/
def queueWaitState (s : State) (core slot : Nat) (w : Wave) : Nat :=
  let d := districtOfWave s core slot
  match queueWaiters w with
  | [] => 2
  | (_, f) :: _ => match f.wait with
    | .qput => match pairSlot s w true with
      | some cs => qputState s core slot cs d
      | none => 0
    | _ => match pairSlot s w false with
      | some ls => qgetState s core slot ls d
      | none => 0

/-- R25, R248: the wait at a queue window ends. -/
def execQueueWindowWaitEnd (core slot : Nat) (s : State) : Out :=
  match waveAt s core slot with
  | none => .next s
  | some w =>
    let d := districtOfWave s core slot
    let ls := queueWaiters w
    match ls, queueWaitState s core slot w with
    | [], _ => .next s
    | _, 2 => .next s
    | (_, f) :: _, st => match f.wait with
      | .qput =>
        let data := ((mget s.flights f.flight).map (·.data)).getD []
        let s := match st, pairSlot s w true with
          | 1, some cs => qFill s core slot cs d data
          | _, _ => s
        .next (wakeLanes s core slot (ls.map fun e => (e.1, [])))
      | .qget dst pn =>
        if st = 1 then
          let (e, s) := qTake s core slot d
          .next (wakeLanes s core slot (ls.map fun x => (x.1, qgetWrites x.1 x.2.win dst pn (some e))))
        else .next (wakeLanes s core slot (ls.map fun x => (x.1, qgetWrites x.1 x.2.win dst pn none)))
      | _ => .next s

/-! ## Service calls -/

/-- R249: posts one request per active lane and waits; the request is a release. -/
def execSvc (h : Ctl) (f : GF) (s : State) : Out :=
  match shape (.svc h f) with
  | none => .next s
  | some sh =>
    let (v, s) := refuseTx 8 (viewOf h s) s
    let (n, s) := newFlight h v 1 s
    let good := v.act.filter fun l => windowOk sh v.wave.id.allot (v.win l) (v.win l)
    let fs := (v.act.filter fun l => !good.contains l).map fun l => (l, faultWindow)
    let wait := good.filter fun l => owesRelease s v.core v.slot l
    let ok := good.filter fun l => !wait.contains l
    let lead := v.lead <|> good.head?
    let chip := f.sub == 1
    let s := deferLanes (.svc h f) v n lead (.hold 0) wait s
    let s := if ok = [] then s else releaseWrites s v.core (if chip then 5 else 2) []
    let s := ok.foldl (fun s l =>
      let s := modWave s v.core v.slot fun w => modLane w l fun x => { x with svc := { x.svc with
        number := BitVec.ofNat 32 (v.opd l f.a 1), arg := BitVec.ofNat 64 (v.opd l f.b 2), reply := 0,
        answered := false } }
      waitLanes s v n (fun l => .svc chip (waitDst (lead == some l) f.dst)) [l]) s
    let s := if ok = [] || chip then s else notify s v.core (noticeBytes 2 v.slot (maskOf ok) 0)
    .next (takeFaults s v.core v.slot v.pc fs)

/-- The destination of a lane that waits on a service reply. -/
def svcWait (w : Wave) (l : Nat) : Option (Bool × BitVec 8) :=
  match mget w.fibres l with
  | some f => match f.wait with
    | .svc chip dst => some (chip, dst)
    | _ => none
  | none => none

/-- Where a wave stands that waits on a service reply: in a slot of its core, its own or that of a wave evicted alone,
or in the image of a saved crew by WAVEID (R372, R373). -/
inductive SvcAt where
  | live (slot : Nat)
  | image (n i : Nat)
  deriving DecidableEq, Repr

/-- Lane `l` waits on a reply, of the processor chiplet when `chip`. -/
def svcLane (w : Wave) (chip : Bool) (l : Nat) : Bool :=
  match svcWait w l with
  | some (c, _) => c == chip
  | none => false

/-- The wave of a saved crew that left this core and slot, when it has `p`. -/
def imageAt (s : State) (core slot : Nat) (p : Wave → Bool) : Option (SvcAt × Wave) :=
  s.saved.findSome? fun e =>
    if e.2.core = core then
      e.2.left.findSome? fun x =>
        if x.2 = slot then match mget e.2.waves x.1 with
          | some w => if p w then some (.image e.1 x.1, w) else none
          | none => none
        else none
    else none

/-- The wave of this slot that has `p`, wherever it is by now: in the slot, evicted alone, or in an image. -/
def waveFind (s : State) (core slot : Nat) (p : Wave → Bool) : Option (SvcAt × Wave) :=
  let live := fun (j : Nat) => match waveAt s core j with
    | some w => if p w then some (SvcAt.live j, w) else none
    | none => none
  live slot <|> live (64 + slot) <|> imageAt s core slot p

/-- The wave that made a request from this slot. -/
def svcFind (s : State) (chip : Bool) (core slot l : Nat) : Option (SvcAt × Wave) :=
  waveFind s core slot fun w => svcLane w chip l

def modSvc (s : State) (core : Nat) (a : SvcAt) (f : Wave → Wave) : State :=
  match a with
  | .live j => modWave s core j f
  | .image n i => { s with saved := mmod s.saved n fun x => { x with waves := mmod x.waves i f } }

def svcDistrict (s : State) (core : Nat) : SvcAt → Nat
  | .live j => districtOfWave s core j
  | .image n _ => ((mget s.saved n).map (·.crew.district)).getD 0

/-- A lane's reply is posted and its `svc` completes (R249, R362). -/
def svcComplete (s : State) (chip : Bool) (core slot l : Nat) (reply : W64) : State :=
  match svcFind s chip core slot l with
  | none => s
  | some (a, w) => match mget w.fibres l, svcWait w l with
    | some f, some (_, dst) =>
      let ws := (targetsOf l f.win dst 2).zip (wordsOf 2 reply.toNat)
      let s := modSvc s core a fun w => modLane w l fun x => { x with svc := { x.svc with reply := reply } }
      match a with
      | .live j => wakeLane s core j l ws
      | .image _ _ => modSvc (flightLaneDone s f.flight l) core a fun w => releaseLane (landAll w ws) l
    | _, _ => s

/-- A pending request of a lane to the supervisor core: its number, its argument and its district. -/
def svcPending (s : State) (core slot l : Nat) : Option (Nat × Nat × Nat) :=
  match svcFind s false core slot l with
  | none => none
  | some (a, w) => some ((laneAt w l).svc.number.toNat, (laneAt w l).svc.arg.toNat, svcDistrict s core a)

def allOnes : W64 := 0xFFFFFFFFFFFFFFFF

/-- R363: service 0 replies with the argument. -/
def execSvcEcho (core slot lane : Nat) (s : State) : Out :=
  match svcPending s core slot lane with
  | some (0, x, _) => .next (svcComplete s false core slot lane (BitVec.ofNat 64 x))
  | _ => .next s

/-- The tag bits of a district's block (R333, R364). -/
def setTagBit (s : State) (d t : Nat) (on : Bool) : State :=
  modDistrict s d fun x =>
    let b := blkNat x 0x034 1
    let b := if on then b ||| 2 ^ t else b &&& (255 - 2 ^ t)
    { x with block := x.block.take 0x034 ++ [BitVec.ofNat 8 b] ++ x.block.drop 0x035 }

/-- R363, R364: service 1 allocates the lowest free tag. -/
def execAllocateBelfryTag (core slot lane : Nat) (s : State) : Out :=
  match svcPending s core slot lane with
  | some (1, x, d) =>
    let n := x % 65536
    match (List.range 8).find? fun t => (belfryAt s t).district.isNone with
    | some t =>
      if n = 0 then .next (svcComplete s false core slot lane allOnes)
      else
        let s := modBelfry s t fun _ => { belfryInit with district := some d, count := n, part := partOfCore core }
        let s := setTagBit s d t true
        .next (svcComplete s false core slot lane (BitVec.ofNat 64 t))
    | none => .next (svcComplete s false core slot lane allOnes)
  | _ => .next s

/-- The fibres of a wave that wait on a tag. -/
def tagWaiters (w : Wave) (t : Nat) : List (Nat × Fibre) :=
  w.fibres.filter fun x => match x.2.wait with
    | .bfwait t' _ _ => t' = t
    | _ => false

/-- They take the belfry-tag fault, those of one instruction as one sub-wave (R293). -/
def faultTagWaiters (s : State) (core slot t : Nat) : State :=
  match waveAt s core slot with
  | none => s
  | some w =>
    let ws := tagWaiters w t
    ((ws.map fun e => e.2.flight).eraseDups).foldl (fun s n =>
      let ls := ws.filter fun e => e.2.flight = n
      takeFaults (ls.foldl (fun s e => flightLaneDone s n e.1) s) core slot ((ls.head?.map (·.2.pc)).getD 0)
        (ls.map fun e => (e.1, { cause := 12 }))) s

/-- A tag is freed; lanes that wait on it take the belfry-tag fault, one of the two outcomes of R364. -/
def freeTag (s : State) (t : Nat) : State :=
  match (belfryAt s t).district with
  | none => s
  | some d =>
    let s := setTagBit s d t false
    let s := { s with belfry := mdel s.belfry t }
    (mkeys s.waves).foldl (fun s k => faultTagWaiters s (wkCore k) (wkSlot k) t) s

/-- R363, R364: service 2 frees a tag of the district. -/
def execFreeBelfryTag (core slot lane : Nat) (s : State) : Out :=
  match svcPending s core slot lane with
  | some (2, x, d) =>
    let t := x % 8
    if (belfryAt s t).district = some d then
      .next (svcComplete (freeTag s t) false core slot lane 0)
    else .next (svcComplete s false core slot lane allOnes)
  | _ => .next s

/-- The tenant of a district has a running plug-in (R359). -/
def hasPlugin (s : State) (d : Nat) : Bool :=
  match districtAt s d with
  | some d => match mget s.functions d.tenant with
    | some f => f.plugins ≠ []
    | none => false
  | none => false

/-- R363: numbers 256 to 65,535 go to the tenant's plug-in, whose reply is its own; all ones without one. -/
def execPluginService (core slot lane : Nat) (reply : W64) (s : State) : Out :=
  match svcPending s core slot lane with
  | some (n, _, d) =>
    if 256 ≤ n && n ≤ 65535 then
      .next (svcComplete s false core slot lane (if hasPlugin s d then reply else allOnes))
    else .next s
  | none => .next s

/-- R363: numbers 3 to 255 and those above 65,535 are answered all ones. -/
def execReservedService (core slot lane : Nat) (s : State) : Out :=
  match svcPending s core slot lane with
  | some (n, _, _) =>
    if (3 ≤ n && n ≤ 255) || n > 65535 then .next (svcComplete s false core slot lane allOnes) else .next s
  | none => .next s

/-- R249: the software of the processor chiplet answers an `svc.chip`. -/
def execChipServiceReply (core slot lane : Nat) (reply : W64) (s : State) : Out :=
  if bit s.secure.readiness.toNat 17 then .next (svcComplete s true core slot lane reply) else .next s

end Sys2Proof.Machine
end

