-- ==== Sys2Proof/Machine/Records.lean ====
section
/-! DEFINITION. Completion records and the event queue of a district (R42, R43, R45), and engine signals (R252). -/

namespace Sys2Proof.Machine

/-- A completion record (R42), 16 bytes. -/
def completionBytes (t : Task) (kind rank status : Nat) : List Byte :=
  toBytes 4 (kind % 16 * 2 ^ 28 + rank % 4 * 2 ^ 26 + status % 1024 * 2 ^ 16 + t.type % 65536) ++
    toBytes 4 t.x.toNat ++ toBytes 4 t.y.toNat ++ toBytes 4 t.z.toNat

/-- A record is ready to post: it joins the district's line in that order (R45). -/
def queueRecord (s : State) (d : Nat) (e : EventRec) : State :=
  modDistrict s (realDistrict d) fun x => { x with evWaiting := x.evWaiting ++ [e] }

/-- The event queue of a district: address and entries (R45, R333). -/
def eventQueue (d : District) : Nat × Nat := (blkNat d 0x068 8, blkNat d 0x070 4)

/-- The district's next record can be posted: its queue has room. -/
def canPost (d : District) : Bool := d.evWaiting ≠ [] && d.evPosted - d.evConsumed < (eventQueue d).2

/-! ## Saved images (R372, R374) -/

def modSaved (s : State) (n : Nat) (f : Saved → Saved) : State := { s with saved := mmod s.saved n f }

/-- The crew of an operation, resident or saved. -/
def opCrew (s : State) (o : EngineOp) : Option Crew :=
  match o.saved with
  | some n => (mget s.saved n).map (·.crew)
  | none => crewAt s o.crew

/-- Scratchpad bytes of an operation's crew: in the saved image while the crew is saved (R374). -/
def opScratchRead (s : State) (o : EngineOp) (off n : Nat) : List Byte :=
  match o.saved with
  | some k => match mget s.saved k with
    | some x => readBytes x.scratch off n
    | none => []
  | none => match crewAt s o.crew with
    | some c => readBytes s.mem.bytes (grantBase o.crew c + off) n
    | none => []
def opScratchWrite (s : State) (o : EngineOp) (off : Nat) (bs : List Byte) : State :=
  match o.saved with
  | some k => modSaved s k fun x => { x with scratch := writeBytes x.scratch off bs }
  | none => match crewAt s o.crew with
    | some c => modMem s fun m => writeBytes m (grantBase o.crew c + off) bs
    | none => s

/-- An engine's arrival at object `off` of its crew: none while the record of a completion must wait. -/
def opArrive (s : State) (o : EngineOp) (off : Nat) : Option State :=
  match o.saved with
  | none => match crewAt s o.crew with
    | none => some s
    | some c => (barArrive s o.crew c off).map Prod.snd
  | some k => match mget s.saved k with
    | none => some s
    | some x =>
      let r : RRec := { kind := 3, check := (objWord x.scratch 0 off 2 + 1) % 65536, core := o.crew / 16, slot := 0xFF,
                        lane := o.crew % 16, detail := objWord x.scratch 0 off 0 % 65536, object := off, second := 0 }
      let done := objCompletes x.scratch 0 off
      if done && replayGate s (realDistrict o.district) r = .stall then none
      else
        let s := modSaved s k fun y => { y with scratch := (objArrive y.scratch 0 off).2 }
        some (if done then (replayLog s (realDistrict o.district) r).1 else s)

/-- The signal of R252: the status word, then one arrival. Index 0xFFFF names no barrier. -/
def opSignal (s : State) (o : EngineOp) (word status : Nat) : Option State :=
  let i := word % 65536
  if i = 0xFFFF then some s
  else opArrive (opScratchWrite s o (16 * i + 12) (toBytes 4 status)) o (16 * i)

/-- The status word (R253). -/
def statusWord (detail flags result kind : Nat) : Nat :=
  detail % 65536 * 2 ^ 16 + flags % 32 * 2 ^ 8 + result % 16 * 2 ^ 4 + kind % 16

end Sys2Proof.Machine
end

