-- ==== Sys2Proof/Machine/EngineOps.lean ====
section
/-! DEFINITION. What the matrix unit, the load pipes and the copy engine of a core do with the operations they have
accepted (R68, R69, R250 to R273): order, source and destination accesses, tiles, products, loads, flushes, copies. -/

namespace Sys2Proof.Machine

/-! ## Order of acceptance (R251, R260) -/

/-- The engine that carries out an instruction: 0 matrix unit, 1 load pipes, 2 copy engine, 3 reservations. -/
def opUnit : Instr → Nat
  | .mma .. | .mzero .. | .mmov .. | .mflush .. | .mstest .. => 0
  | .mmam .. | .mld .. => 1
  | .cpy .. | .cpyt .. | .rcfence .. => 2
  | _ => 3

/-- The tiles an instruction names (R255). -/
def opTiles : Instr → List Nat
  | .mma _ f | .mmam _ f | .mzero _ f | .mld _ f | .mstest _ f => [f.zd.toNat]
  | .mmov _ f => [f.zd.toNat, f.zs.toNat]
  | .mflush _ f => [f.zs.toNat]
  | _ => []

def resRange (r : Option Reservation) : List (Nat × Nat) :=
  match r with
  | some x => [(x.offset, x.offset + x.size)]
  | none => []

/-- Operand-buffer bytes of two operations of one crew overlap. -/
def opOverlap (o p : EngineOp) : Bool :=
  o.crew = p.crew && o.saved = p.saved &&
  (resRange o.resA ++ resRange o.resB).any fun a => (resRange p.resA ++ resRange p.resB).any fun b =>
    a.1 < b.2 && b.1 < a.2

/-- An earlier operation of the core that `p` must follow. -/
def opBlocks (o p : EngineOp) : Bool :=
  !o.consumed && (opUnit o.instr = opUnit p.instr || (opTiles o.instr).any (opTiles p.instr).contains || opOverlap o p)

def isTileLoad (i : Instr) : Bool := opUnit i = 1

/-- Partials to the near-cache adders of several operations are not ordered by ownership (R97, R98). -/
def isAddFlush : Instr → Bool
  | .mflush _ f => 2 ≤ f.sub.toNat
  | _ => false

/-- An operation accepted earlier owns a line that this one writes (R69). -/
def ownedBefore (s : State) (p : EngineOp) : Bool :=
  s.cores.any fun c => c.2.ops.any fun o =>
    o.flight < p.flight && !(isAddFlush o.instr && isAddFlush p.instr) && o.owns.any p.owns.contains

/-- The operation is at the head of what it has to follow. -/
def opInOrder (s : State) (c : Core) (p : EngineOp) : Bool :=
  (c.ops.takeWhile fun o => o.flight ≠ p.flight).all (fun o => !opBlocks o p) && !ownedBefore s p

/-- Array work of a matrix product starts only in the clocks of stage 1, in which its own are counted (R401, R402). -/
def arrayAdmits (s : State) (p : EngineOp) : Bool :=
  match p.instr with
  | .mma .. | .mmam .. => p.arrayDue ≤ s.power.arrayClocks && dutyAdmits (s.power.duty.getD 0 16) s.clock
  | _ => true

/-- The lines under `n` bytes from `va` that one range register translates, as an operation owns them; none beyond this
package (R69). -/
def ownPart (s : State) (d : District) (va n : Nat) : List Nat :=
  match rangeOf d va with
  | none => []
  | some g =>
    let ia := iaOf d va
    if n = 0 || field ia 48 4 > 8 || !(g.node = s.fabric.node || g.node = 0x1FFF) then []
    else (List.range ((ia % 128 + n + 127) / 128)).map fun i => ownKey d.ctx (ia + 128 * i)

/-- The lines under `n` bytes from `va`, each byte by its own range register, which begins and ends at a multiple of
64 KiB (R50, R334). -/
def ownKeys (s : State) (dk va n : Nat) : List Nat :=
  match districtAt s dk with
  | none => []
  | some d => (List.range ((va % 65536 + n + 65535) / 65536)).flatMap fun i =>
      let lo := max va (va / 65536 * 65536 + 65536 * i)
      ownPart s d (lo % 2 ^ 64) (min (va + n) (va / 65536 * 65536 + 65536 * (i + 1)) - lo)

/-! ## Accesses of an engine -/

/-- What a read or write of an engine meets: its state, or a page that is missing and that the state has reported;
`again` says that it had been reported before, and `page` which it is, by context and intermediate address. -/
inductive EngGot where
  | bytes (s : State) (bs : List Byte)
  | missing (s : State) (again : Bool) (page : Option (Nat × Nat) := none)

/-- A missing page, reported once (R383). -/
def engMiss (s : State) (p ctx ia fl : Nat) : EngGot :=
  .missing (reportMiss s p ctx ia fl) (missReported s p ctx ia) (some (ctx, ia))

/-- A write of the bytes that stands in a side log or has not been acknowledged by another package, of an instruction of
the core before number `no` (R64, R68, R434). -/
def writesBefore (s : State) (core no dk va n : Nat) : Bool :=
  logHolds s core no (locations s dk va n) ||
  s.fabric.writes.any fun w => w.2.req.core = core && w.2.req.flight < no &&
    (reqLocations s w.2.req).any (locations s dk va n).contains

/-- Operation `no` of the core is held, and a page of the bytes still waits to be named by a MAP or RETRY: it does not walk
again (R380). -/
def stillHeld (s : State) (core no : Nat) (d : District) (va n : Nat) : Option (Nat × Nat) :=
  if (coreOf s core).ops.any fun o => o.flight = no && o.held then
    ([iaOf d va, iaOf d ((va + n - 1) % 2 ^ 64)].find? fun ia => field ia 48 4 < 8 && missReported s (field ia 48 4) d.ctx ia).map
      fun ia => (d.ctx, ia)
  else none

/-- Source bytes for operation `no`, which observes the writes of the issuing fibre before it (R68). A poisoned line is
reported as event 5 and gives unspecified bytes (R389). -/
def engRead (s : State) (core no dk va n : Nat) : EngGot :=
  match districtAt s dk with
  | none => .bytes s (copies n 0)
  | some d =>
    if writesBefore s core no dk va n then .missing s true
    else match stillHeld s core no d va n with
    | some page => .missing s true (some page)
    | none => match access s d (.near (dieOfCore core)) permR va n with
    | .places ps =>
      if homeReset s d va then .missing s true
      else if poisoned s ps then
        .bytes (postFault s dk { event := 5, part := partOfCore core, ctx := d.ctx, va := iaOf d va })
          (ps.map fun p => if linePoisoned s (lineOf p) then Config.poisonByte p else readByte s.mem.bytes p)
      else .bytes (tookShared s (markAccess s d false va n) ps) (seenBytes s ps 0)
    | .host ps | .remote _ ps => .bytes s (readPlaces s ps)
    | .noPage p ia fl => engMiss s p d.ctx ia fl
    | _ => .bytes s (copies n 0)

/-- Destination bytes of operation `no`: discarded with a report where the page has become host-owned or read-only (R386,
R388). -/
def engWrite (s : State) (core no dk va : Nat) (bs : List Byte) : EngGot :=
  match districtAt s dk with
  | none => .bytes s []
  | some d =>
    let discard := fun code p ia => EngGot.bytes (postFault s dk
      { event := 3, code := code, part := p, core := core, ctx := d.ctx, va := ia }) []
    match stillHeld s core no d va bs.length with
    | some page => .missing s true (some page)
    | none => match access s d .home permW va bs.length with
    | .places ps =>
      if homeReset s d va then .missing s true
      else .bytes (storeAt (markAccess s d true va bs.length) d.ctx core true ps bs) []
    | .host ps => .bytes (rawStore s core true ps bs) []
    | .remote _ ps => .bytes (rawStore s core true ps bs) []
    | .noPage p ia fl => engMiss s p d.ctx ia fl
    | .hostOwned p ia => discard 2 p ia
    | .readOnly p ia => discard 1 p ia
    | .fault .. => .bytes s []

/-! ## Tiles and operand buffers -/

def tileRow (s : State) (core z r : Nat) : List Byte := readBytes s.mem.tiles (tilePlace core z r 0) 256
def setTileRow (s : State) (core z r : Nat) (bs : List Byte) : State :=
  { s with mem := { s.mem with tiles := writeBytes s.mem.tiles (tilePlace core z r 0) bs } }

/-- Rows 2L and 2L + 1 of the active lanes, rising (R250). -/
def activeRows (o : EngineOp) : List Nat := (lanesOf o.active.toNat).flatMap fun l => [2 * l, 2 * l + 1]

/-- A byte of the operand buffer; one never written is a free value (R259). -/
def obRead (s : State) (core base off n : Nat) : List Byte :=
  (List.range n).map fun i => (mget s.mem.ob (obPlace core (base + off + i))).getD (Config.obByte (obPlace core (base + off + i)))
def obWrite (s : State) (core base off : Nat) (bs : List Byte) : State :=
  { s with mem := { s.mem with ob :=
      (bs.mapIdx fun i b => (i, b)).foldl (fun m e => mset m (obPlace core (base + off + e.1)) e.2) s.mem.ob } }
def opObBase (s : State) (o : EngineOp) : Nat := ((opCrew s o).map (·.obBase)).getD 0

/-! ## Products -/

/-- The B operand of a product, decoded once. -/
inductive BRows where
  | fp (rows : List (List FV))
  | int (rows : List (List Int))

/-- Elements of a failing sub-array that is not fenced hold what it computed (R267). -/
def failElems (c : Core) (free r : Nat) (xs : List Nat) (bytes : Nat) : List Nat :=
  xs.mapIdx fun j x =>
    let sub := 4 * (r / 16) + j / 16
    if bit c.failing.toNat sub && !bit c.fenced.toNat sub then
      (Config.failWord (free * 4096 + r * 64 + j)).toNat * (if bytes = 8 then 2 ^ 32 + 1 else 1)
    else x

/-- One output row: the new bytes and the flags (R262). -/
def productRow (c : Core) (free fmtA k : Nat) (new : Bool) (r : Nat) (old a : List Byte) : BRows → List Byte × Nat
  | .int bs =>
    let ra := rowInt fmtA a
    let acc := chunks 4 64 old
    let xs := bs.mapIdx fun j b => mmaInt (if new then 0 else acc.getD j 0) ra b
    (((failElems c free r xs 4).map (toBytes 4)).flatten, 0)
  | .fp bs =>
    let f : Fmt := if fmtA = 0 then .f64 else .f32
    let n := fmtBits f / 8
    let ra := rowFV fmtA a
    let acc := chunks n 64 old
    let ys := bs.mapIdx fun j b => mmaElem f k (if new then 0 else acc.getD j 0) ra b
    (((failElems c free r (ys.map Prod.fst) n).map (toBytes n)).flatten, mmaFlags (ys.foldl (fun m y => m ||| y.2) 0))

/-- Accumulates the given rows of A into tile `z`. -/
def productRows (core free z fmtA k : Nat) (new : Bool) (b : BRows) :
    List (Nat × List Byte) → State → Nat → State × Nat
  | [], s, fl => (s, fl)
  | (r, a) :: rs, s, fl =>
    let (bs, f) := productRow (coreOf s core) free fmtA k new r (tileRow s core z r) a b
    productRows core free z fmtA k new b rs (setTileRow s core z r bs) (fl ||| f)

/-- B rows of bytes in a format. -/
def decodeB (fmtB : Nat) (rows : List (List Byte)) : BRows :=
  if fmtB = 6 || fmtB = 7 then .int (rows.map (rowInt fmtB)) else .fp (rows.map (rowFV fmtB))

/-- The operand words a, b and c as numbers. -/
def EngineOp.va (o : EngineOp) : Nat := ofWords o.a
def EngineOp.vb (o : EngineOp) : Nat := ofWords o.b
def EngineOp.vc (o : EngineOp) (i : Nat) : Nat := (o.c.getD i 0).toNat

/-- `mma`: reads its operands and writes its rows; the result code and flags (R262). -/
def mmaCompute (s : State) (core : Nat) (o : EngineOp) (f : TF) : State × Nat × Nat :=
  match o.resA, o.resB, mmaPair f.fmtA f.fmtB false with
  | some ra, some rb, some p =>
    let base := opObBase s o
    let wide := if f.fmtB == 8 then 512 else 256
    let (free, s) := takeFree s
    let rowsA := (activeRows o).map fun r => (r, obRead s core base (ra.offset + o.va + r * wide) wide)
    let rowsB := (List.range p.n).map fun j => obRead s core base (rb.offset + o.vb + 256 * j) 256
    let new := f.sub == 1
    if f.fmtB == 8 then
      let heads := (List.range p.n).map fun j => shelfOf (obRead s core base (rb.offset + 16 * rb.meta_ + 1040 * j) 1040)
      if heads.all shelfOk then
        let b := BRows.fp ((heads.zip rowsB).map fun e => rowQn e.1 f.zs.toNat e.2)
        let (s, fl) := productRows core free f.zd.toNat f.fmtA.toNat p.k new b rowsA s 0
        (s, 0, fl)
      else (s, 1, 0)
    else
      let (s, fl) := productRows core free f.zd.toNat f.fmtA.toNat p.k new (decodeB f.fmtB.toNat rowsB) rowsA s 0
      (s, 0, fl)
  | _, _, _ => (s, 0, 0)

/-! ## Completion -/

def modOp (s : State) (core n : Nat) (f : EngineOp → EngineOp) : State :=
  modCore s core fun c => { c with ops := c.ops.map fun o => if o.flight = n then f o else o }

/-- The operation is over: it leaves the core, its lines are owned no more and its tag may clear. -/
def opRemove (s : State) (core n : Nat) : State :=
  modCore s core fun c => { c with ops := c.ops.filter fun o => o.flight ≠ n }
def opDone (s : State) (core n : Nat) : State :=
  wakeDeferred isDeferred (modFlight (opRemove s core n) n fun f => { f with waits := 0 })

/-- Signals and completes, unless the record of a phase completion must wait (R252, R421). -/
def opFinish (s : State) (core : Nat) (o : EngineOp) (word detail result kind : Nat) : Option State :=
  match opSignal s o word (statusWord detail o.flags result kind) with
  | none => none
  | some s => some (opDone s core o.flight)

/-! ## Loads from memory -/

/-- An attempt that found a page missing: nothing more happens until it has been mapped, once it is reported. -/
def heldStep (s : State) (core : Nat) (o : EngineOp) (again moved : Bool) : Option State :=
  if again && !moved then none else some (modOp s core o.flight fun p => { p with held := true })

def patchBytes (buf : List Byte) (off : Nat) (bs : List Byte) : List Byte :=
  buf.take off ++ bs ++ buf.drop (off + bs.length)

/-- Reads the parts of a list, line by line: offset `x` of the buffer comes from address `at_ x`, contiguous up to the
next multiple of `cell` behind `base`. Lines whose page is missing stay in the list (R385). The answer is the state, the
buffer, the parts that are left and whether anything happened. -/
def gather (core no dk : Nat) (at_ : Nat → Nat) (base cell : Nat) :
    Nat → List (Nat × Nat) → State → List Byte → List (Nat × Nat) → Bool → State × List Byte × List (Nat × Nat) × Bool
  | 0, todo, s, buf, left, moved => (s, buf, left ++ todo, moved)
  | _, [], s, buf, left, moved => (s, buf, left, moved)
  | fuel + 1, (x, n) :: r, s, buf, left, moved =>
    if n = 0 then gather core no dk at_ base cell fuel r s buf left moved
    else
      let k := max 1 (min n (min (cell - (x - base) % cell) (128 - at_ x % 128)))
      match engRead s core no dk (at_ x % 2 ^ 64) k with
      | .bytes s bs => gather core no dk at_ base cell fuel ((x + k, n - k) :: r) s (patchBytes buf x bs) left true
      | .missing s again _ =>
        gather core no dk at_ base cell fuel ((x + k, n - k) :: r) s buf (left ++ [(x, k)]) (moved || !again)

/-- A bound on the pieces of a list of parts. -/
def pieceFuel (todo : List (Nat × Nat)) : Nat := (todo.map fun e => e.2 + 1).foldl (· + ·) 1

/-- Stays held with what has been read and the parts that are left. -/
def gatherHeld (s : State) (core : Nat) (o : EngineOp) (row : Nat) (buf : List Byte) (left : List (Nat × Nat))
    (moved : Bool) : Option State :=
  if moved then some (modOp s core o.flight fun p => { p with row := row, buf := buf, todo := left, held := true })
  else none

/-- MROWP once an operation has written all its rows (R263). -/
def rowsDone (s : State) (core : Nat) (o : EngineOp) (f : TF) : State :=
  modCore s core fun c => { c with mrowp := BitVec.ofNat 32 (f.zd.toNat * 256 + (activeRows o).length) }

/-- The A rows of an mmam from its next row on (R263). The buffer holds the B rows and then the A row that is being
read; `parts` are what is left of that row. -/
def mmamRows (core free : Nat) (o : EngineOp) (f : TF) (p : Pair) (b : BRows) :
    List Nat → Nat → State → List Byte → List (Nat × Nat) → Nat → Bool → Option State
  | [], _, s, _, _, fl, _ => opFinish (rowsDone s core o f) core { o with flags := o.flags ||| fl } (o.vc 2) o.wave 0 2
  | r :: rs, i, s, buf, parts, fl, moved =>
    let n := 256 * p.n
    let (s, buf, left, went) := gather core o.flight o.district (fun x => o.va + r * o.vc 0 + (x - n)) n 256 (pieceFuel parts)
      parts s buf [] moved
    if left ≠ [] then
      gatherHeld (modOp s core o.flight fun p => { p with flags := p.flags ||| fl }) core o i buf left went
    else
      let (s, fl') := productRows core free f.zd.toNat f.fmtA.toNat p.k (f.sub == 1) b
        [(r, (buf.drop n).take 256)] s 0
      mmamRows core free o f p b rs (i + 1) s buf [(n, 256)] (fl ||| fl') true

/-- `mmam`: B first, then A rows in increasing order. A load that was held before its first row was accumulated, and one
whose crew was evicted, starts with the B rows again (R263). -/
def mmamStep (s : State) (core : Nat) (o : EngineOp) (f : TF) : Option State :=
  match mmaPair f.fmtA f.fmtB true with
  | none => none
  | some p =>
    let n := 256 * p.n
    let fresh := o.buf = []
    let partsB := if fresh || (o.row = 0 && o.todo.all fun e => n ≤ e.1) then [(0, n)]
      else o.todo.filter fun e => e.1 < n
    let partsA := if fresh then [(n, 256)] else o.todo.filter fun e => n ≤ e.1
    let buf := if fresh then copies (n + 256) 0 else o.buf
    let (s, buf, left, moved) := gather core o.flight o.district (fun x => o.vb + x / 256 * o.vc 1 + x % 256) 0 256
      (pieceFuel partsB) partsB s buf [] false
    if left ≠ [] then gatherHeld s core o o.row buf (left ++ partsA) moved
    else
      let (free, s) := takeFree s
      let b := decodeB f.fmtB.toNat ((List.range p.n).map fun j => (buf.drop (256 * j)).take 256)
      mmamRows core free o f p b ((activeRows o).drop o.row) o.row s buf partsA 0 false

/-- `mld`: tile rows in increasing order; `parts` are what is left of the row that is being read (R265). -/
def mldRows (core : Nat) (o : EngineOp) (f : TF) :
    List Nat → Nat → State → List Byte → List (Nat × Nat) → Bool → Option State
  | [], _, s, _, _, _ => opFinish (rowsDone s core o f) core o (o.vc 0) o.wave 0 3
  | r :: rs, i, s, buf, parts, moved =>
    if f.sub == 1 then
      mldRows core o f rs (i + 1) (setTileRow s core f.zd.toNat r (opScratchRead s o (o.va + r * o.vb) 256)) buf parts true
    else
      let (s, buf, left, moved) := gather core o.flight o.district (fun x => o.va + r * o.vb + x) 0 256 (pieceFuel parts)
        parts s buf [] moved
      if left ≠ [] then gatherHeld s core o i buf left moved
      else mldRows core o f rs (i + 1) (setTileRow s core f.zd.toNat r buf) buf [(0, 256)] true

def mldStep (s : State) (core : Nat) (o : EngineOp) (f : TF) : Option State :=
  mldRows core o f ((activeRows o).drop o.row) o.row s (if o.buf = [] then copies 256 0 else o.buf)
    (if o.buf = [] then [(0, 256)] else o.todo) false

/-! ## Line by line transfers (R385) -/

/-- The next piece of a transfer of `n` bytes, within one source and one destination line. -/
def pieceLen (src dst n : Nat) : Nat := min n (min (128 - src % 128) (128 - dst % 128))

/-- Does the pieces of a list of parts; `f` does one piece of at most the length it is given and says how it went.
Missing pieces stay in the list. -/
def doPieces (len : Nat → Nat → Nat) (f : State → Nat → Nat → EngGot) :
    Nat → List (Nat × Nat) → State → List (Nat × Nat) → Bool → State × List (Nat × Nat) × Bool
  | 0, todo, s, left, moved => (s, left ++ todo, moved)
  | _, [], s, left, moved => (s, left, moved)
  | fuel + 1, (o, n) :: r, s, left, moved =>
    if n = 0 then doPieces len f fuel r s left moved
    else
      let k := max 1 (min n (len o n))
      match f s o k with
      | .bytes s _ => doPieces len f fuel ((o + k, n - k) :: r) s left true
      | .missing s again _ => doPieces len f fuel ((o + k, n - k) :: r) s (left ++ [(o, k)]) (moved || !again)

/-- The operation owns the lines that its parts have still to write, and no others (R69). -/
def keepOwned (keys : List Nat) (o : EngineOp) : EngineOp := { o with owns := o.owns.filter keys.contains }

/-- Goes on with an operation's parts: it is over (`done`), or it moved, or nothing can be done now. `lines` are the
lines under parts that are still to be written. -/
def partsStep (s : State) (core : Nat) (o : EngineOp) (len : Nat → Nat → Nat) (f : State → Nat → Nat → EngGot)
    (lines : State → List (Nat × Nat) → List Nat) (done : State → EngineOp → Option State) : Option State :=
  let (s, left, moved) := doPieces len f (pieceFuel o.todo) o.todo s [] false
  if left = [] then done (modOp s core o.flight fun p => { p with todo := [] }) { o with todo := [] }
  else if moved then
    some (wakeDeferred isDeferred
      (modOp s core o.flight fun p => keepOwned (lines s left) { p with todo := left, held := true }))
  else none

/-! ## Flushes -/

/-- Plain `mflush`: offset 256 r + b of the tile goes to va + r × vb + b (R266). -/
def flushPiece (core : Nat) (o : EngineOp) (f : TF) (s : State) (off n : Nat) : EngGot :=
  let bs := ((tileRow s core f.zs.toNat (off / 256)).drop (off % 256)).take n
  let at_ := o.va + off / 256 * o.vb + off % 256
  if f.sub == 1 then .bytes (opScratchWrite s o at_ bs) [] else engWrite s core o.flight o.district (at_ % 2 ^ 64) bs
def flushLen (o : EngineOp) (off n : Nat) : Nat :=
  min (256 - off % 256) (pieceLen (o.va + off / 256 * o.vb + off % 256) 0 n)

def flushLines (o : EngineOp) (s : State) (parts : List (Nat × Nat)) : List Nat :=
  parts.flatMap fun e => ownKeys s o.district ((o.va + e.1 / 256 * o.vb + e.1 % 256) % 2 ^ 64) e.2

/-- Home partition of a place of memory. -/
def placePart (p : Nat) : Nat := if p < 2 ^ 40 then p / 2 ^ 36 else if p < 2 ^ 41 then (p - 2 ^ 40) / 2 ^ 32 else 0

/-- One half row to the near-cache adders of its home slice (R97, R266). -/
def addPiece (core : Nat) (o : EngineOp) (f : TF) (s : State) (off n : Nat) : EngGot :=
  let at_ := (o.va + off / 256 * o.vb + off % 256) % 2 ^ 64
  match districtAt s o.district with
  | none => .bytes s []
  | some d => match access s d .home (permR + permW + permA) at_ n with
    | .places ps | .remote _ ps =>
      let w := o.vc 0
      let p : Partial := {
        place := ps.headD 0, format := f.fmtA.toNat, ctx := d.ctx,
        values := chunks (elemBytes f.fmtA.toNat) 64 (((tileRow s core f.zs.toNat (off / 256)).drop (off % 256)).take n),
        ordered := f.sub == 6, number := field w 16 15, last := bit w 31, op := o.flight,
        key := ownKey d.ctx (iaOf d at_) }
      let s := modOp s core o.flight fun q => { q with outstanding := q.outstanding + 1 }
      .bytes (modPart s (placePart p.place) fun x => { x with partials := x.partials ++ [p] }) []
    | .noPage p ia fl => engMiss s p d.ctx ia fl
    | _ => .bytes s []

/-- `mflush`: over when every write or partial has been performed (R266). -/
def flushStep (s : State) (core : Nat) (o : EngineOp) (f : TF) : Option State :=
  if isAddFlush o.instr then
    if o.todo = [] then
      if o.outstanding = 0 then opFinish s core o (o.vc 0) o.wave o.result 5 else none
    else partsStep s core o (fun _ n => min n 128) (addPiece core o f) (fun _ _ => o.owns) fun s o =>
      some (modOp s core o.flight fun p => { p with consumed := true })
  else partsStep s core o (flushLen o) (flushPiece core o f) (flushLines o) fun s o => opFinish s core o (o.vc 0) o.wave 0 4

/-! ## Copies -/

/-- The signal word of a copy: its high word (R268, R270). -/
def copyWord (o : EngineOp) : Nat := match o.instr with
  | .cpyt .. => (o.b.getD 1 0).toNat
  | _ => o.vc 1

/-- A copy is over: a kind-1 record, or the barrier (R252, R268). -/
def copyFinish (s : State) (core : Nat) (o : EngineOp) (result kind : Nat) : Option State :=
  let w := copyWord o
  if bit w 31 then
    match opCrew s o with
    | none => some (opDone s core o.flight)
    | some c =>
      let e : EventRec := ⟨completionBytes c.task 1 c.rank (field w 16 10), c.dispatcher, none, 1, o.crew, o.flight⟩
      some (wakeDeferred isDeferred (queueRecord (opRemove s core o.flight) o.district e))
  else opFinish s core o w o.wave result kind

/-- A byte of the destination that the source covers too receives an unspecified value (R268). -/
def copyOver (o : EngineOp) (f : GF) (off : Nat) : Bool :=
  f.sub.toNat % 4 = f.sub.toNat / 4 && o.vb ≤ o.va + off && o.va + off < o.vb + o.vc 0

def copyBytes (s : State) (o : EngineOp) (f : GF) (off : Nat) (bs : List Byte) : State × List Byte :=
  if (List.range bs.length).any fun i => copyOver o f (off + i) then
    ({ s with free := s.free + bs.length }, bs.mapIdx fun i b =>
      if copyOver o f (off + i) then BitVec.ofNat 8 (Config.freeWord (s.free + i)).toNat else b)
  else (s, bs)

/-- Bytes of a `cpy` to its destination (R268). -/
def cpyWrite (core : Nat) (o : EngineOp) (f : GF) (s : State) (off : Nat) (bs : List Byte) : EngGot :=
  let dst := o.va + off
  let (s, bs) := copyBytes s o f off bs
  match f.sub.toNat % 4 with
  | 0 => engWrite s core o.flight o.district (dst % 2 ^ 64) bs
  | 1 => .bytes (opScratchWrite s o dst bs) []
  | _ => .bytes (obWrite s core (opObBase s o) (((o.resA.map (·.offset)).getD 0) + dst) bs) []

/-- A part of the destination whose source has been read. -/
def sourceRead (left : List (Nat × Nat)) (off n : Nat) : Bool := left.all fun e => off + n ≤ e.1 || e.1 + e.2 ≤ off

/-- `cpy`: source lines are read one by one (R385), a destination line is written at once when all that goes to it has
been read (R69). -/
def cpyStep (s : State) (core : Nat) (o : EngineOp) (f : GF) : Option State :=
  let n := o.vc 0
  let (s, buf, left, moved) := if f.sub.toNat / 4 = 0 then
      gather core o.flight o.district (o.vb + ·) 0 (n + 1) (pieceFuel o.todo) o.todo s (if o.buf = [] then copies n 0 else o.buf) [] false
    else (s, opScratchRead s o o.vb n, [], false)
  let piece := fun (s : State) (off k : Nat) =>
    if sourceRead left off k then cpyWrite core o f s off ((buf.drop off).take k) else EngGot.missing s true
  let (s, rest, wrote) := doPieces (fun off k => pieceLen 0 (o.va + off) k) piece (pieceFuel o.unwritten) o.unwritten s [] false
  if rest = [] then copyFinish s core o 0 6
  else if moved || wrote then
    let keys := rest.flatMap fun e => ownKeys s o.district ((o.va + e.1) % 2 ^ 64) e.2
    some (wakeDeferred isDeferred (modOp s core o.flight fun p =>
      keepOwned keys { p with buf := buf, todo := left, unwritten := rest, held := true }))
  else none

/-! ## Tensor copies (R269, R270) -/

structure TensorRec where
  base : Nat
  size : Nat
  rank : Nat
  fill : Bool
  ext : List Nat
  stride : List Nat
  box : List Nat
  fillValue : Nat
  heads : Nat
  deriving DecidableEq, Repr

def recField (bs : List Byte) (off n : Nat) : Nat := ofBytes ((bs.drop off).take n)

def tensorOf (bs : List Byte) : TensorRec :=
  { base := recField bs 0 8, size := recField bs 8 1, rank := recField bs 9 1, fill := bit (recField bs 0x0A 2) 0,
    ext := (List.range 4).map fun i => recField bs (0x10 + 4 * i) 4,
    stride := (List.range 3).map fun i => recField bs (0x20 + 8 * i) 8,
    box := (List.range 4).map fun i => recField bs (0x38 + 4 * i) 4,
    fillValue := recField bs 0x48 8, heads := recField bs 0x50 8 }

/-- R269's conditions, for a box whose origin in dimension 0 is `c0`. -/
def tensorOk (bs : List Byte) (c0 : Int) : Bool :=
  let t := tensorOf bs
  t.size ≤ 4 && 1 ≤ t.rank && t.rank ≤ 4 && recField bs 0x0A 2 < 2 && recField bs 0x0C 4 = 0 &&
  ((bs.drop 0x58).take 104).all (· == 0) && t.ext.all (· ≠ 0) && t.box.all (· ≠ 0) &&
  (List.range 4).all (fun i => i < t.rank || (t.ext.getD i 1 = 1 && t.box.getD i 1 = 1)) &&
  (t.size ≠ 4 || (c0 % 512 = 0 && t.box.getD 0 0 = 512))

/-- Box indices of linear index `e`, dimension 0 fastest. -/
def boxIndex (t : TensorRec) (e : Nat) : List Nat :=
  let b := fun i => t.box.getD i 1
  [e % b 0, e / b 0 % b 1, e / (b 0 * b 1) % b 2, e / (b 0 * b 1 * b 2)]
def boxCount (t : TensorRec) : Nat := t.box.foldl (· * ·) 1

/-- Element `e` of a box: its half-byte offset in the local area, and its half-byte address in the tensor where it
lies in the tensor. A QN4 element takes one half byte, the others 2 × 2^size. -/
def boxElem (t : TensorRec) (org : List Int) (e : Nat) : Nat × Option Nat :=
  let i := boxIndex t e
  let h := if t.size = 4 then 1 else 2 * 2 ^ t.size
  let pitch := 2 * roundUp ((t.box.getD 0 1 * h + 1) / 2) 16
  let local_ := ((i.getD 3 0 * t.box.getD 2 1 + i.getD 2 0) * t.box.getD 1 1 + i.getD 1 0) * pitch + i.getD 0 0 * h
  let x := fun k => org.getD k 0 + (i.getD k 0 : Int)
  let inside := (List.range 4).all fun k => 0 ≤ x k && x k < (t.ext.getD k 1 : Int)
  (local_, if inside then
      some (2 * t.base + (x 0).toNat * h + 2 * ((List.range 3).map fun k => (x (k + 1)).toNat * t.stride.getD k 0).foldl (· + ·) 0)
    else none)

/-- Half a byte of the local side, read and written by direction: 0 and 2 scratchpad, 1 reservation. -/
def localRead (s : State) (o : EngineOp) (off n : Nat) : List Byte := opScratchRead s o off n
def localWrite (s : State) (core : Nat) (o : EngineOp) (toRes : Bool) (off : Nat) (bs : List Byte) : State :=
  if toRes then obWrite s core (opObBase s o) (((o.resA.map (·.offset)).getD 0) + off) bs else opScratchWrite s o off bs
def localByte (s : State) (core : Nat) (o : EngineOp) (toRes : Bool) (off : Nat) : Byte :=
  ((if toRes then obRead s core (opObBase s o) (((o.resA.map (·.offset)).getD 0) + off) 1
    else opScratchRead s o off 1).headD 0)

/-- Replaces half a byte. -/
def setNibble (b : Byte) (hi : Bool) (x : Nat) : Byte :=
  BitVec.ofNat 8 (if hi then b.toNat % 16 + 16 * (x % 16) else b.toNat / 16 * 16 + x % 16)

/-- One element of a `cpyt` (R270). -/
def cpytElem (core : Nat) (o : EngineOp) (f : GF) (t : TensorRec) (org : List Int) (s : State) (e _n : Nat) : EngGot :=
  let off := (o.b.getD 0 0).toNat
  let (l, g) := boxElem t org e
  let toRes := f.sub == 1
  let n := 2 ^ t.size
  if f.sub == 2 then
    match g with
    | none => .bytes s []
    | some a =>
      if t.size = 4 then
        match engRead s core o.flight o.district (a / 2 % 2 ^ 64) 1 with
        | .missing s again page => .missing s again page
        | .bytes s bs =>
          let x := ((localRead s o (off + l / 2) 1).headD 0).toNat / (if l % 2 = 1 then 16 else 1) % 16
          engWrite s core o.flight o.district (a / 2 % 2 ^ 64) [setNibble (bs.headD 0) (a % 2 = 1) x]
      else engWrite s core o.flight o.district (a / 2 % 2 ^ 64) (localRead s o (off + l / 2) n)
  else
    match g with
    | none =>
      let x := if t.fill then t.fillValue else 0
      if t.size = 4 then
        .bytes (localWrite s core o toRes (off + l / 2) [setNibble (localByte s core o toRes (off + l / 2)) (l % 2 = 1) x]) []
      else .bytes (localWrite s core o toRes (off + l / 2) (toBytes n x)) []
    | some a => match engRead s core o.flight o.district (a / 2 % 2 ^ 64) (if t.size = 4 then 1 else n) with
      | .missing s again page => .missing s again page
      | .bytes s bs =>
        if t.size = 4 then
          let x := (bs.headD 0).toNat / (if a % 2 = 1 then 16 else 1) % 16
          .bytes (localWrite s core o toRes (off + l / 2) [setNibble (localByte s core o toRes (off + l / 2)) (l % 2 = 1) x]) []
        else .bytes (localWrite s core o toRes (off + l / 2) bs) []

/-- The address of the shelf header of box row `j`, where the row lies in the tensor (R269, R270). -/
def headerAt (t : TensorRec) (org : List Int) (j : Nat) : Option Nat :=
  let i := boxIndex t (j * t.box.getD 0 1)
  let x := fun k => org.getD k 0 + (i.getD k 0 : Int)
  if (List.range 4).all fun k => 0 ≤ x k && x k < (t.ext.getD k 1 : Int) then
    let r := ((x 3).toNat * t.ext.getD 2 1 + (x 2).toNat) * t.ext.getD 1 1 + (x 1).toNat
    let per := (t.ext.getD 0 1 + 4095) / 4096
    some ((t.heads + 1040 * (r * per + (x 0).toNat / 4096)) % 2 ^ 64)
  else none

/-- The box rows of a QN4 copy into a reservation that lie in the tensor, with the addresses of their headers. -/
def headerRows (t : TensorRec) (org : List Int) : List (Nat × Nat) :=
  (List.range (t.box.getD 1 1 * t.box.getD 2 1 * t.box.getD 3 1)).filterMap fun j => (headerAt t org j).map fun a => (j, a)

/-- The box rows outside the tensor: the spec gives their headers no contents, so free bytes are written (log 64). -/
def headerless (t : TensorRec) (org : List Int) : List Nat :=
  (List.range (t.box.getD 1 1 * t.box.getD 2 1 * t.box.getD 3 1)).filter fun j => (headerAt t org j).isNone

/-- `n` free bytes. -/
def freeBytes (s : State) (n : Nat) : List Byte × State :=
  ((List.range n).map fun i => BitVec.ofNat 8 (Config.freeWord (s.free + i)).toNat, { s with free := s.free + n })

def originsOf (o : EngineOp) : List Int := (List.range 4).map fun i => sval 32 (o.vc i)

/-- The record of a `cpyt` through the core's record cache (R271), for operation `no`: 32 records by the place of their
first byte. It is one whole record, so a read from memory takes all its lines at once. An accepted `rcfence` has emptied
the cache for the instructions after it. -/
def cachedRecord (s : State) (core no dk va : Nat) : EngGot :=
  let emptied := (coreOf s core).ops.any fun o => match o.instr with | .rcfence .. => true | _ => false
  match placesFor s dk va 1 with
  | some (p :: _) => match (if emptied then none else mget (coreOf s core).records p) with
    | some bs => .bytes s bs
    | none => match engRead s core no dk va 192 with
      | .missing s again page => .missing s again page
      | .bytes s bs => .bytes (modCore s core fun c =>
          if c.records.length < 32 then { c with records := mset c.records p bs } else c) bs
  | _ => engRead s core no dk va 192

/-- The elements of a `cpyt`, then the shelf headers it has read (R270). -/
def cpytElems (s : State) (core : Nat) (o : EngineOp) (f : GF) (t : TensorRec) (org : List Int) (heads : List (Nat × Nat)) :
    Option State :=
  let m := (o.resA.map (·.meta_)).getD 0
  let lines := fun (s : State) (parts : List (Nat × Nat)) => if f.sub ≠ 2 then [] else
    parts.flatMap fun p => (List.range p.2).flatMap fun i => match (boxElem t org (p.1 + i)).2 with
      | some a => ownKeys s o.district (a / 2 % 2 ^ 64) (if t.size = 4 then 1 else 2 ^ t.size)
      | none => []
  partsStep s core o (fun _ _ => 1) (cpytElem core o f t org) lines fun s o =>
    let s := (heads.mapIdx fun i h => (i, h.1)).foldl (fun s e =>
      localWrite s core o true (16 * m + 1040 * e.2) ((o.buf.drop (192 + 1040 * e.1)).take 1040)) s
    let s := (if t.size = 4 && f.sub == 1 then headerless t org else []).foldl (fun s j =>
      let (bs, s) := freeBytes s 1040
      localWrite s core o true (16 * m + 1040 * j) bs) s
    copyFinish s core o 0 7

/-- The shelf headers of a QN4 copy, then its elements; a malformed header ends it with result 1 (R93, R270). -/
def cpytHeads (s : State) (core : Nat) (o : EngineOp) (f : GF) : Option State :=
  let t := tensorOf (o.buf.take 192)
  let org := originsOf o
  let heads := if t.size = 4 && f.sub == 1 then headerRows t org else []
  if o.row = 2 then cpytElems s core o f t org heads
  else
    let (s, buf, left, moved) := gather core o.flight o.district
      (fun x => (heads.getD ((x - 192) / 1040) (0, 0)).2 + (x - 192) % 1040) 192 1040 (pieceFuel o.todo) o.todo s o.buf [] false
    if left ≠ [] then gatherHeld s core o 1 buf left moved
    else if !(List.range heads.length).all fun i => shelfOk (shelfOf ((buf.drop (192 + 1040 * i)).take 1040)) then
      copyFinish s core o 1 7
    else
      let todo := [(0, boxCount t)]
      let s := modOp s core o.flight fun p => { p with buf := buf, row := 2, todo := todo }
      cpytElems s core { o with buf := buf, row := 2, todo := todo } f t org heads

/-- What a `cpyt` has to read before its elements: its record, captured at issue, and room for its shelf headers with
the parts to be read. -/
def cpytStart (f : GF) (bs : List Byte) (org : List Int) : List Byte × List (Nat × Nat) :=
  let t := tensorOf bs
  let n := if tensorOk bs (org.getD 0 0) && t.size = 4 && f.sub == 1 then (headerRows t org).length else 0
  (bs ++ copies (1040 * n) 0, [(192, 1040 * n)])

/-- `cpyt`: for QN4 the shelf headers, then the elements; an invalid record copies nothing (R93, R270). -/
def cpytStep (s : State) (core : Nat) (o : EngineOp) (f : GF) : Option State :=
  if tensorOk (o.buf.take 192) ((originsOf o).getD 0 0) then cpytHeads s core o f else copyFinish s core o 3 7

/-- The memory that a `cpyt` has still to read or write: address and length (R270). -/
def cpytSpans (o : EngineOp) : List (Nat × Nat) :=
  let t := tensorOf (o.buf.take 192)
  let org := originsOf o
  let heads := headerRows t org
  (if o.row = 2 then [] else o.todo.flatMap fun e => (List.range e.2).map fun i =>
    ((heads.getD ((e.1 + i - 192) / 1040) (0, 0)).2 + (e.1 + i - 192) % 1040, 1)) ++
  (if o.row = 2 then o.todo else [(0, boxCount t)]).flatMap fun e => (List.range e.2).filterMap fun i =>
    (boxElem t org (e.1 + i)).2.map fun a => (a / 2, if t.size = 4 then 1 else 2 ^ t.size)

/-! ## One step of an operation -/

/-- A matrix instruction that works in the tile file alone (R264). -/
def tileStep (s : State) (core : Nat) (o : EngineOp) : State :=
  match o.instr with
  | .mzero _ f => (activeRows o).foldl (fun s r => setTileRow s core f.zd.toNat r (copies 256 0)) s
  | .mmov _ f => (activeRows o).foldl (fun s r =>
      let x := tileRow s core f.zs.toNat r
      setTileRow s core f.zd.toNat r
        (if f.sub == 1 then addRows f.fmtA.toNat (tileRow s core f.zd.toNat r) x else x)) s
  | _ => s

/-- R267: the product of ones in the rows of active lanes, and the mask of failing sub-arrays. -/
def mstestStep (s : State) (core : Nat) (o : EngineOp) (f : TF) : Option State :=
  let (free, s) := takeFree s
  let c := coreOf s core
  let failing := (c.failing &&& ~~~ c.fenced).toNat
  let s := (activeRows o).foldl (fun s r =>
    setTileRow s core f.zd.toNat r (((failElems c free r (copies 64 0x43800000) 4).map (toBytes 4)).flatten)) s
  let s := if f.sub == 1 then modCore s core fun c => { c with fenced := c.fenced ||| c.failing } else s
  opFinish s core o (o.vc 0) failing (if failing = 0 then 0 else 4) 8

/-- The operation reads or writes tiles or reservations (R272). -/
def opTouches (o : EngineOp) : Bool := opTiles o.instr ≠ [] || o.resA.isSome || o.resB.isSome

/-- What an accepted operation can do now; none when nothing. An early `mma` completes after its signal (R260). -/
def opStep (s : State) (core : Nat) (o : EngineOp) : Option State :=
  if s.clock < o.due || !arrayAdmits s o || !partRuns s (partOfCore core) then none
  else if o.consumed then
    match o.instr with
    | .mma .. => some (opDone s core o.flight)
    | .mflush _ f => flushStep s core o f
    | _ => none
  else if !opInOrder s (coreOf s core) o then none
  else match o.instr with
    | .mma _ f =>
      if bit (o.vc 0) 31 then none
      else
        let (s, res, fl) := mmaCompute s core o f
        opFinish s core { o with flags := fl } (o.vc 0) o.wave res 1
    | .mmam _ f => mmamStep s core o f
    | .mld _ f => mldStep s core o f
    | .mflush _ f => flushStep s core o f
    | .mstest _ f => mstestStep s core o f
    | .cpy _ f => cpyStep s core o f
    | .cpyt _ f => cpytStep s core o f
    | .rcfence .. => some (opDone (modCore s core fun c => { c with records := [] }) core o.flight)
    | _ => some (opDone (tileStep s core o) core o.flight)

/-- R260, R262: the operands of an early `mma` have been read; the status word has result 5. -/
def consumeStep (s : State) (core : Nat) (o : EngineOp) : Option State :=
  match o.instr with
  | .mma _ f =>
    if !bit (o.vc 0) 31 || o.consumed || s.clock < o.due || !arrayAdmits s o || !opInOrder s (coreOf s core) o then none
    else
      let (s, _, _) := mmaCompute s core o f
      match opSignal s o (o.vc 0) (statusWord o.wave 0 5 1) with
      | none => none
      | some s => some (modOp s core o.flight fun p => { p with consumed := true })
  | _ => none

/-- The core and the operation of a number. -/
def findOp (s : State) (n : Nat) : Option (Nat × EngineOp) :=
  s.cores.findSome? fun c => (c.2.ops.find? fun o => o.flight = n).map fun o => (c.1, o)

/-- R251 to R253, R262 to R270. -/
def execEngineOperationComplete (op : Nat) (s : State) : Out :=
  match findOp s op with
  | none => .next s
  | some (core, o) => .next ((opStep s core o).getD s)

/-- R260. -/
def execMmaConsumedSignal (op : Nat) (s : State) : Out :=
  match findOp s op with
  | none => .next s
  | some (core, o) => .next ((consumeStep s core o).getD s)

/-! ## Near-cache adders (R97, R98) -/

/-- An addition of a partial into its line, one indivisible event (R97). -/
def addPartial (s : State) (p : Partial) : State :=
  let n := elemBytes p.format
  let ps := (List.range (n * p.values.length)).map (p.place + ·)
  let bs := addRows p.format (seenBytes s ps 0) ((p.values.map (toBytes n)).flatten)
  tookShared s (storeAt s p.ctx 0 true ps bs) ps

/-- A partial has been performed: its operation counts it, and an ordering error is remembered (R98, R266). -/
def partialDone (s : State) (p : Partial) (err : Bool) : State :=
  match findOp s p.op with
  | none => s
  | some (core, _) => wakeDeferred isDeferred (modOp s core p.op fun o => { o with
      outstanding := o.outstanding - 1, result := if err then 2 else o.result, owns := o.owns.erase p.key })

def seriesOf (x : Partition) (line : Nat) : Series := (mget x.series line).getD ⟨0, []⟩

/-- Adds the expected partial and then the early ones that follow it; a series that closes adds what is still held in
arrival order, with an ordering error (R98). -/
def runSeries (part line : Nat) : Nat → State → State
  | 0, s => s
  | fuel + 1, s =>
    let z := seriesOf (partOf s part) line
    match z.early.find? fun p => p.number = z.expected with
    | none => s
    | some p =>
      let s := partialDone (addPartial s p) p false
      let rest := z.early.erase p
      if p.last then
        let s := rest.foldl (fun s q => partialDone (addPartial s q) q true) s
        modPart s part fun x => { x with series := mdel x.series line }
      else
        runSeries part line fuel (modPart s part fun x => { x with series := mset x.series line ⟨z.expected + 1, rest⟩ })

/-- The home slice of an intermediate address (R52). -/
def homeSlice (ia : Nat) : Nat :=
  128 * (if field ia 48 4 < 8 then field ia 48 3 else field ia 32 3) +
    (field ia 7 7 ^^^ field ia 14 7 ^^^ field ia 21 7 ^^^ field ia 28 7 ^^^ field ia 35 7 ^^^ field ia 42 6)
/-- That of an owned line. -/
def keySlice (key : Nat) : Nat := homeSlice (key % 2 ^ 45 * 128)
/-- The early partials that a slice holds. -/
def earlyHeld (x : Partition) (slice : Nat) : Nat :=
  ((x.series.flatMap fun e => e.2.early).filter fun p => keySlice p.key = slice).length

/-- A partial that has arrived can be taken: it is refused only when it is early and the store is full (R98). -/
def partialTaken (x : Partition) (p : Partial) : Bool :=
  let line := lineOf p.place
  !p.ordered || p.number ≤ (seriesOf x line).expected || earlyHeld x (keySlice p.key) < 64

/-- R97, R98: the first arrived partial that its slice can take. -/
def execNearCachePartial (part : Nat) (s : State) : Out :=
  let x := partOf s part
  if part ≥ 8 then .fault .noSuchUnit
  else match (if partReady s part then x.partials.find? (partialTaken x) else none) with
  | none => .next s
  | some p =>
    let s := modPart s part fun y => { y with partials := y.partials.erase p }
    let line := lineOf p.place
    let z := seriesOf x line
    if !p.ordered then .next (partialDone (addPartial s p) p false)
    else if p.number < z.expected || z.early.any (fun q => q.number = p.number) then
      .next (partialDone (addPartial s p) p true)
    else
      let s := modPart s part fun y => { y with series := mset y.series line { z with early := z.early ++ [p] } }
      .next (runSeries part line 66 s)

/-- MROWP of a core: the oldest unfinished mmam or mld, else what the last one left (R263). -/
def mrowpOf (c : Core) : W32 :=
  match c.ops.find? fun o => opUnit o.instr = 1 with
  | some o => BitVec.ofNat 32 ((if o.held then 2 ^ 31 else 0) + (opTiles o.instr).headD 0 * 256 + o.row)
  | none => c.mrowp

end Sys2Proof.Machine
end

