-- ==== Sys2Proof/Machine/SeqState.lean ====
section
/-! DEFINITION. What a step-sequencer context holds, read field by field: the run record (R109), the tableau record
(R106, R107), the tiles of tile mode (R113) and the addresses of the state vectors (R111). -/

namespace Sys2Proof.Machine

/-- Key of context `i` of a cluster. -/
def seqKey (cluster i : Nat) : Nat := cluster * 8 + i

def seqAt (s : State) (k : Nat) : Option SeqCtx := mget s.seqs k
def modSeq (s : State) (k : Nat) (f : SeqCtx → SeqCtx) : State := { s with seqs := mmod s.seqs k f }

/-! ## The run record (R109) -/

def SeqCtx.rf (c : SeqCtx) (off n : Nat) : Nat := ofBytes ((c.run.drop off).take n)
def SeqCtx.yAddr (c : SeqCtx) : Nat := c.rf 0 8
def SeqCtx.stageArea (c : SeqCtx) : Nat := c.rf 8 8
def SeqCtx.workArea (c : SeqCtx) : Nat := c.rf 0x10 8
def SeqCtx.ring (c : SeqCtx) : Nat := c.rf 0x18 8
def SeqCtx.t0 (c : SeqCtx) : Nat := c.rf 0x20 8
def SeqCtx.tEnd (c : SeqCtx) : Nat := c.rf 0x28 8
def SeqCtx.h0 (c : SeqCtx) : Nat := c.rf 0x30 8
def SeqCtx.atol (c : SeqCtx) : Nat := c.rf 0x38 8
def SeqCtx.rtol (c : SeqCtx) : Nat := c.rf 0x40 8
def SeqCtx.epsT (c : SeqCtx) : Nat := c.rf 0x48 8
def SeqCtx.n (c : SeqCtx) : Nat := c.rf 0x50 4
def SeqCtx.maxSteps (c : SeqCtx) : Nat := c.rf 0x54 4
/-- Task type of a phase: 0 right-hand side, 1 its implicit part, 2 solve (R109). -/
def SeqCtx.taskType (c : SeqCtx) (phase : Nat) : Nat := c.rf (0x58 + 2 * phase) 2
def SeqCtx.flags (c : SeqCtx) : Nat := c.rf 0x5E 2
/-- The state format W: FP64 or FP32. -/
def SeqCtx.wide (c : SeqCtx) : Bool := bit c.flags 0
def SeqCtx.fmt (c : SeqCtx) : Fmt := if c.wide then .f64 else .f32
def SeqCtx.esize (c : SeqCtx) : Nat := if c.wide then 8 else 4
def SeqCtx.tileFlag (c : SeqCtx) : Bool := bit c.flags 1
def SeqCtx.tileBase (c : SeqCtx) : Nat := field c.flags 2 4
def SeqCtx.tileCount (c : SeqCtx) : Nat := field c.flags 6 3 + 1
def SeqCtx.grid (c : SeqCtx) (i : Nat) : Nat := c.rf (0x60 + 4 * i) 4
def SeqCtx.ringEntries (c : SeqCtx) : Nat := c.rf 0x6C 4
def SeqCtx.frameAddr (c : SeqCtx) : Nat := c.rf 0x70 8
def SeqCtx.queue (c : SeqCtx) : Nat := c.rf 0x78 1 % 16

/-- From ODERUN or ODESTEP to its return. -/
def SeqCtx.inRun (c : SeqCtx) : Bool :=
  c.state = 3 || (match c.at_ with | .leave .. | .leaveArm .. => true | _ => false)

/-- The tiles that the sequencer holds for a crew while it runs in tile mode (R113). -/
def SeqCtx.tiles (c : SeqCtx) : List Nat :=
  if c.inRun && c.tileFlag then (List.range (2 * c.tileCount)).map (c.tileBase + ·) else []

/-! ## The frame descriptor (R130), kept behind the run record -/

def SeqCtx.df (c : SeqCtx) (off n : Nat) : Nat := c.rf (0x80 + off) n
def SeqCtx.frameRing (c : SeqCtx) : Nat := c.df 0 8
def SeqCtx.countsAt (c : SeqCtx) : Nat := c.df 8 8
def SeqCtx.frameBytes (c : SeqCtx) : Nat := c.df 0x10 4
def SeqCtx.frameEntries (c : SeqCtx) : Nat := c.df 0x14 4
def SeqCtx.chunk (c : SeqCtx) : Nat := c.df 0x18 2
def SeqCtx.look (c : SeqCtx) : Nat := c.df 0x1A 2
def SeqCtx.actFmt (c : SeqCtx) : Nat := c.df 0x1C 1
def SeqCtx.stateTiles (c : SeqCtx) : List Nat :=
  (List.range (field (c.df 0x1D 1) 4 4 + 1)).map (field (c.df 0x1D 1) 0 4 + ·)

/-- Tiles of a crew that the step sequencer holds. -/
def heldTiles (s : State) (c : Crew) : List Nat :=
  match c.seqCtx with
  | some k => ((seqAt s k).map SeqCtx.tiles).getD []
  | none => []

/-! ## The tableau record (R106, R107) -/

def tf (bs : List Byte) (off n : Nat) : Nat := ofBytes ((bs.drop off).take n)
def tabS (bs : List Byte) : Nat := field (tf bs 0 4) 0 5
def tabKind (bs : List Byte) : Nat := field (tf bs 0 4) 8 2
def tabXm (bs : List Byte) : Nat := field (tf bs 0 4) 10 2
def tabXn (bs : List Byte) : Bool := bit (tf bs 0 4) 12
def tabQ (bs : List Byte) : Nat := field (tf bs 0 4) 20 4
def tabD (bs : List Byte) : Nat := field (tf bs 0 4) 24 4
def tabJmin (bs : List Byte) : Int := sval 4 (field (tf bs 4 4) 4 4)
def tabJmax (bs : List Byte) : Nat := field (tf bs 4 4) 8 4
def tabNl (bs : List Byte) : Nat := field (tf bs 4 4) 16 4
def tabXd (bs : List Byte) : Nat := field (tf bs 4 4) 20 4
/-- σ, γ, κ, hmin, hmax and θx, in this order from 0. -/
def tabParam (bs : List Byte) (i : Nat) : Nat := tf bs (8 + 8 * i) 8

/-- The record's size (R107). -/
def tabSize (bs : List Byte) : Nat :=
  let s := tabS bs
  let d := tabD bs
  64 + 8 * (if tabKind bs = 2 then 5 * s + 2 * s * s + 2 * s * d else 3 * s + s * s + s * d)

/-- Coefficient number `i` of the arrays. -/
def tabCoef (bs : List Byte) (i : Nat) : Nat := tf bs (64 + 8 * i) 8

/-- Where the arrays A, b, b̂, β of a part start; stages and columns count from 1. -/
def tabBase (bs : List Byte) (part : Nat) : Nat :=
  let s := tabS bs
  s + part * (s * s + 2 * s + s * tabD bs)
def tabC (bs : List Byte) (i : Nat) : Nat := tabCoef bs (i - 1)
def tabA (bs : List Byte) (part i j : Nat) : Nat := tabCoef bs (tabBase bs part + (i - 1) * tabS bs + (j - 1))
def tabB (bs : List Byte) (part i : Nat) : Nat := tabCoef bs (tabBase bs part + tabS bs * tabS bs + (i - 1))
def tabBh (bs : List Byte) (part i : Nat) : Nat :=
  tabCoef bs (tabBase bs part + tabS bs * tabS bs + tabS bs + (i - 1))
def tabBeta (bs : List Byte) (part i m : Nat) : Nat :=
  tabCoef bs (tabBase bs part + tabS bs * tabS bs + 2 * tabS bs + (i - 1) * tabD bs + (m - 1))

/-- The parts of a kind: 2 for an IMEX pair (R111). -/
def tabParts (bs : List Byte) : Nat := if tabKind bs = 2 then 2 else 1

/-- +0 or −0 as FP64 bits. -/
def isZero64 (x : Nat) : Bool := x % 2 ^ 63 == 0

/-- Stage i is implicit (R108): its diagonal entry equals γ in kind 1 or in the implicit part of kind 2. -/
def tabImplicit (bs : List Byte) (i : Nat) : Bool :=
  (tabKind bs == 1 && tabA bs 0 i i == tabParam bs 1) || (tabKind bs == 2 && tabA bs 1 i i == tabParam bs 1)

/-! ## Vectors (R111) -/

/-- Address of element `e` of work vector `v`. -/
def SeqCtx.workElem (c : SeqCtx) (v e : Nat) : Nat := (c.workArea + v * c.n * c.esize + e * c.esize) % 2 ^ 64
/-- Number of the stage vector of stage i, bank b, part p. -/
def SeqCtx.stageVec (c : SeqCtx) (b i p : Nat) : Nat :=
  b * tabS c.tableau * tabParts c.tableau + (i - 1) * tabParts c.tableau + p
def SeqCtx.stageElem (c : SeqCtx) (v e : Nat) : Nat := (c.stageArea + v * c.n * c.esize + e * c.esize) % 2 ^ 64
def SeqCtx.yElem (c : SeqCtx) (e : Nat) : Nat := (c.yAddr + e * c.esize) % 2 ^ 64
/-- Address of event word `v`. -/
def SeqCtx.eventWord (c : SeqCtx) (v : Nat) : Nat :=
  let vs := if tabXn c.tableau then 6 + tabXd c.tableau else 6
  (roundUp (c.workArea + vs * c.n * c.esize) 8 + 8 * v) % 2 ^ 64

end Sys2Proof.Machine
end

