-- ==== Sys2Proof/Machine/EngineFamily.lean ====
section
/-! DEFINITION. The meanings of class 2 (R250 to R271): what is checked and captured at issue, and the acceptance of
the operation by its core. -/

namespace Sys2Proof.Machine

/-! ## Checks at issue (R50, R225, R254, R356) -/

/-- The first permission or range fault of `n` bytes from `va`, going from one 4 KiB boundary to the next: range
registers, regions, windows and page ownership change nowhere else (R51, R334, R343, R356). -/
def spanFault (s : State) (d : District) (need : Nat) : Nat → Nat → Nat → Option FaultRec
  | 0, _, _ => none
  | fuel + 1, va, n =>
    if n = 0 then none
    else match byteAt s d .home need va with
      | .permission => some { cause := 3, access := 5, addr := va }
      | .range => some { cause := 4, access := 5, addr := va }
      | .hostOwned .. => some { cause := 3, access := 5, addr := va }
      | _ =>
        let k := min n (min (4096 - va % 4096) (4096 - iaOf d va % 4096))
        spanFault s d need fuel ((va + k) % 2 ^ 64) (n - k)

def spanCheck (s : State) (dk need va n : Nat) : Option FaultRec :=
  match districtAt s dk with
  | none => some { cause := 4, access := 5, addr := va }
  | some d => spanFault s d need (2 * (n / 4096) + 4) va n

/-- The fault of lowest address. -/
def lowestFault : List (Option FaultRec) → Option FaultRec
  | [] => none
  | none :: r => lowestFault r
  | some f :: r => match lowestFault r with
    | some g => if g.addr < f.addr then some g else some f
    | none => some f

def firstSome : List (Option FaultRec) → Option FaultRec
  | [] => none
  | none :: r => firstSome r
  | some f :: _ => some f

def faultRes : FaultRec := { cause := 15 }
def faultMat : FaultRec := { cause := 16 }
def check (ok : Bool) (f : FaultRec) : Option FaultRec := if ok then none else some f

/-- Scratchpad bytes of an engine within the grant (R47). -/
def scratchCheck (grant off n : Nat) : Option FaultRec :=
  check (off + n ≤ grant) { cause := 5, access := 5, addr := max off grant }

/-- The index of a signal word lies in the grant, or names no barrier (R252). -/
def signalCheck (grant word : Nat) : Option FaultRec :=
  let i := word % 65536
  check (i = 0xFFFF || 16 * i + 16 ≤ grant) { cause := 5, access := 5, addr := 16 * i }

/-! ## Acceptance (R250, R251, R255) -/

/-- What an instruction brings to its core: the first fault of R296 that applies, or the operands it captured. -/
structure EngPlan where
  faults : List (Option FaultRec) := []
  a : List W32 := []
  b : List W32 := []
  c : List W32 := []
  resA : Option Reservation := none
  resB : Option Reservation := none
  todo : List (Nat × Nat) := []
  unwritten : List (Nat × Nat) := []
  owns : List Nat := []
  buf : List Byte := []
  /-- clocks of the array (R261), 0 for the other operations -/
  clocks : Nat := 0
  /-- the state after what was read at issue -/
  after : Option State := none
  /-- what it reads at issue cannot be read yet: the state, with its page reported -/
  wait : Option (State × Option (Nat × Nat)) := none

/-- Array operations follow each other, and take twice as long once a sub-array is fenced out (R261, R267): the end of
one of so many clocks that comes to a core now, by the ends of those before it. -/
def arrayEnd (c : Core) (now clocks : Nat) (last : EngineOp → Nat) : Nat :=
  (c.ops.filter fun o => match o.instr with | .mma .. | .mmam .. => true | _ => false).foldl
    (fun m o => max m (last o)) now + (if c.fenced = 0 then clocks else 2 * clocks)

/-- The clock at which an operation can be over at the earliest. -/
def opDue (c : Core) (clock clocks : Nat) : Nat :=
  if clocks = 0 then clock + 1 else arrayEnd c clock clocks EngineOp.due

/-- The crew claims the tiles of its core; they read as zeros (R255). -/
def claimTiles (s : State) (core k : Nat) : State :=
  if (coreOf s core).tileOwner = some k then s
  else
    let s := modCore s core fun c => { c with tileOwner := some k }
    { s with mem := { s.mem with tiles := mfilter (fun a => a / 2 ^ 18 != core) s.mem.tiles } }

/-- The core accepts an operation: its flight lasts until the operation is over. -/
def acceptOp (i : Instr) (h : Ctl) (v : View) (p : EngPlan) (s : State) : State :=
  let (n, s) := newFlight h v 1 s
  let s := modFlight s n fun f => { f with waits := 1 }
  let o : EngineOp := {
    crew := v.wave.id.crew, saved := none, district := v.copy, slot := v.slot, wave := v.wave.id.index,
    instr := i, active := BitVec.ofNat 32 (maskOf v.act), a := p.a, b := p.b, c := p.c, resA := p.resA, resB := p.resB,
    due := opDue (coreOf s v.core) s.clock p.clocks,
    arrayDue := arrayEnd (coreOf s v.core) s.power.arrayClocks p.clocks EngineOp.arrayDue, flight := n, consumed := false, row := 0, held := false, buf := p.buf,
    todo := p.todo, unwritten := p.unwritten, owns := p.owns, outstanding := 0, result := 0, flags := 0,
    needs := [] }
  modCore s v.core fun c => { c with ops := c.ops ++ [o] }

/-- A class-2 instruction (R250): inside a transaction its lanes abort (R238); a fault is taken in the lowest active
lane; a tile instruction waits while another crew holds the tiles (R255). -/
def engineIssue (i : Instr) (plan : State → View → Nat → EngPlan) (s : State) : State :=
  match shape i with
  | none => s
  | some sh =>
    let (v, s) := refuseTx 7 (viewOf sh.ctl s) s
    match v.act with
    | [] => (newFlight sh.ctl v 1 s).2
    | l :: _ =>
      let p := plan s v l
      let window := check (windowOk sh v.wave.id.allot (v.win l) (v.win l)) faultWindow
      let tiled := opTiles i ≠ []
      let seq := check (!(opTiles i).any (heldTiles s v.crew).contains) { cause := 17 }
      match firstSome (window :: p.faults.take 1 ++ [seq] ++ p.faults.drop 1) with
      | some f => takeFaults (newFlight sh.ctl v 1 s).2 v.core v.slot v.pc [(l, f)]
      | none =>
        match p.wait with
        | some (s, page) =>
          let (n, s) := newFlight sh.ctl v 1 s
          waitsPage n page (deferLanes i v n none (.hold 0) v.act s)
        | none =>
        let s := p.after.getD s
        match (coreOf s v.core).tileOwner with
        | some k =>
          if tiled && k ≠ v.wave.id.crew then
            let (n, s) := newFlight sh.ctl v 1 s
            deferLanes i v n none .tile v.act s
          else acceptOp i sh.ctl v p s
        | none => acceptOp i sh.ctl v p (if tiled then claimTiles s v.core v.wave.id.crew else s)

/-- Operands of the lowest active lane as words. -/
def View.ws (v : View) (l : Nat) (e : BitVec 8) (n : Nat) : List W32 := wordsOf n (v.opd l e n)

/-! ## Reservations (R257) -/

/-- The result code of `obres`, the first of the table that applies. -/
def obresCode (c : Crew) (n va vb vc : Nat) : Nat :=
  let fmt := vc % 16
  let area := vc / 256
  if (mget c.reservations n).isSome then 1
  else if va + vb > c.ob then 2
  else if c.reservations.any fun r => va < r.2.offset + r.2.size && r.2.offset < va + vb then 3
  else if va % 256 ≠ 0 || vb % 256 ≠ 0 || vb = 0 || fmt > 8 || field vc 4 4 ≠ 0 || (fmt ≠ 8 && area ≠ 0) ||
      (fmt = 8 && 16 * area + 64 * 1040 > vb) then 4
  else 0

/-- A result of a reservation instruction in every active lane; a window fault is the lowest active lane's (R250). -/
def reservationIssue (i : Instr) (dst : BitVec 8) (act : View → Nat → State → Nat × State) (s : State) : State :=
  match shape i with
  | none => s
  | some sh =>
    let (v, s) := refuseTx 7 (viewOf sh.ctl s) s
    match v.act with
    | [] => (newFlight sh.ctl v 1 s).2
    | l :: _ =>
      if v.act.all fun m => windowOk sh v.wave.id.allot (v.win m) (v.win m) then
        let (code, s) := act v l s
        commitVar sh.ctl 1 v (v.act.map fun m => (m, outReg dst 1 code)) s
      else takeFaults (newFlight sh.ctl v 1 s).2 v.core v.slot v.pc [(l, faultWindow)]

/-- The contents of a new reservation are undefined until written (R259): what stood there is forgotten. -/
def obForget (s : State) (core base n : Nat) : State :=
  { s with mem := { s.mem with ob := mfilter (fun i => i < obPlace core base || obPlace core base + n ≤ i) s.mem.ob } }

/-- R257. -/
def execObres (h : Ctl) (f : GF) (s : State) : Out :=
  .next (reservationIssue (.obres h f) f.dst (fun v l s =>
    let (va, vb, vc) := (v.opd l f.a 1, v.opd l f.b 1, v.opd l f.c 1)
    let code := obresCode v.crew f.sub.toNat va vb vc
    (code, if code = 0 then modCrew (obForget s v.core (v.crew.obBase + va) vb) v.wave.id.crew fun c =>
      { c with reservations := mset c.reservations f.sub.toNat ⟨va, vb, vc % 16, vc / 256⟩ } else s)) s)

/-- R257: `obrel` is accepted as an operation, which is over once every earlier user of the reservation is. -/
def execObrel (h : Ctl) (f : GF) (s : State) : Out :=
  match shape (.obrel h f) with
  | none => .next s
  | some sh =>
    let (v, s) := refuseTx 7 (viewOf h s) s
    let n := f.sub.toNat
    match v.act with
    | [] => .next (newFlight h v 1 s).2
    | l :: _ =>
      if !v.act.all fun m => windowOk sh v.wave.id.allot (v.win m) (v.win m) then
        .next (takeFaults (newFlight h v 1 s).2 v.core v.slot v.pc [(l, faultWindow)])
      else match mget v.crew.reservations n with
        | none => .next (commitVar h 1 v (v.act.map fun m => (m, outReg f.dst 1 1)) s)
        | some r =>
          let s := modCrew s v.wave.id.crew fun c => { c with reservations := mdel c.reservations n }
          let fl := s.serial
          let s := acceptOp (.obrel h f) h v { resA := some r } s
          .next (flightWrites s fl (allWrites v true (v.act.map fun m => (m, { wr := [⟨f.dst, 1, 0⟩] }))) 0)

/-! ## Products (R261 to R263) -/

/-- Clocks of the array for an operand format (R261). -/
def pairClocks (fmtA : BitVec 4) : Nat := if fmtA == 0 then 256 else if fmtA == 1 then 128 else 64

/-- A reservation is held, in the format that the instruction names, and holds `n` bytes from `off`, a multiple of
256 (R254, R262). -/
def resCheck (r : Option Reservation) (fmt : BitVec 4) (off n : Nat) : Option FaultRec :=
  match r with
  | none => some faultRes
  | some x => check (x.format = fmt.toNat && off % 256 = 0 && off + n ≤ x.size) faultRes

/-- R262. -/
def execMma (h : Ctl) (f : TF) (s : State) : Out :=
  .next (engineIssue (.mma h f) (fun _ v l =>
    let ra := mget v.crew.reservations f.obA.toNat
    let rb := mget v.crew.reservations f.obB.toNat
    let (va, vb, vc) := (v.opd l f.a 1, v.opd l f.b 1, v.opd l f.c 1)
    let n := ((mmaPair f.fmtA f.fmtB false).map (·.n)).getD 0
    { faults := [firstSome [resCheck ra f.fmtA va (64 * (if f.fmtB == 8 then 512 else 256)), resCheck rb f.fmtB vb (256 * n)],
        signalCheck v.crew.scratch vc],
      a := v.ws l f.a 1, b := v.ws l f.b 1, c := v.ws l f.c 1, resA := ra, resB := rb, clocks := pairClocks f.fmtA }) s)

/-- The rows of a lane-owned operand: 2L and 2L + 1 of the active lanes (R250). -/
def View.rows (v : View) : List Nat := v.act.flatMap fun l => [2 * l, 2 * l + 1]

/-- R263. -/
def execMmam (h : Ctl) (f : TF) (s : State) : Out :=
  .next (engineIssue (.mmam h f) (fun s v l =>
    let (va, vb, vc) := (v.opd l f.a 2, v.opd l f.b 2, v.ws l f.c 4)
    let w := fun i => (vc.getD i 0).toNat
    let n := ((mmaPair f.fmtA f.fmtB true).map (·.n)).getD 0
    let d := v.copy
    { faults := [check (va % 16 = 0 && vb % 16 = 0 && w 0 % 16 = 0 && w 1 % 16 = 0) faultMat,
        lowestFault ((v.rows.map fun r => spanCheck s d permR ((va + r * w 0) % 2 ^ 64) 256) ++
          (List.range n).map fun j => spanCheck s d permR ((vb + j * w 1) % 2 ^ 64) 256),
        signalCheck v.crew.scratch (w 2)],
      a := v.ws l f.a 2, b := v.ws l f.b 2, c := vc, clocks := pairClocks f.fmtA }) s)

/-! ## Tiles (R264 to R267) -/

/-- R264. -/
def execMzero (h : Ctl) (f : TF) (s : State) : Out := .next (engineIssue (.mzero h f) (fun _ _ _ => {}) s)

/-- R264. -/
def execMmov (h : Ctl) (f : TF) (s : State) : Out := .next (engineIssue (.mmov h f) (fun _ _ _ => {}) s)

/-- R265. -/
def execMld (h : Ctl) (f : TF) (s : State) : Out :=
  .next (engineIssue (.mld h f) (fun s v l =>
    let n := if f.sub == 1 then 1 else 2
    let (va, vb, vc) := (v.opd l f.a n, v.opd l f.b 1, v.opd l f.c 1)
    { faults := [check (va % 16 = 0 && vb % 16 = 0) faultMat,
        lowestFault (v.rows.map fun r =>
          if f.sub == 1 then scratchCheck v.crew.scratch (va + r * vb) 256
          else spanCheck s v.copy permR ((va + r * vb) % 2 ^ 64) 256),
        signalCheck v.crew.scratch vc],
      a := v.ws l f.a n, b := v.ws l f.b 1, c := v.ws l f.c 1 }) s)

/-- A partial may not go to host memory (R97, R224): region 0x9. -/
def hostSpan (s : State) (dk va n : Nat) : Option FaultRec :=
  match districtAt s dk with
  | none => none
  | some d => match access s d .home 0 va (min n 1) with
    | .host _ => some { cause := 9, access := 5, addr := va }
    | _ => none

/-- R266. -/
def execMflush (h : Ctl) (f : TF) (s : State) : Out :=
  .next (engineIssue (.mflush h f) (fun s v l =>
    let n := if f.sub == 1 then 1 else 2
    let (va, vb, vc) := (v.opd l f.a n, v.opd l f.b 1, v.opd l f.c 1)
    let add := decide (2 ≤ f.sub.toNat)
    let m := if add then 128 else 16
    let d := v.copy
    let at_ := fun r => (va + r * vb) % 2 ^ 64
    { faults := [check (va % m = 0 && vb % m = 0) faultMat,
        lowestFault (v.rows.map fun r =>
          if f.sub == 1 then scratchCheck v.crew.scratch (va + r * vb) 256
          else spanCheck s d (if add then permA + permR + permW else permW) (at_ r) 256),
        signalCheck v.crew.scratch vc,
        if add then lowestFault (v.rows.map fun r => hostSpan s d (at_ r) 256) else none],
      a := v.ws l f.a n, b := v.ws l f.b 1, c := v.ws l f.c 1,
      todo := v.rows.map fun r => (256 * r, 256),
      owns := if f.sub == 1 then [] else
        let ks := v.rows.flatMap fun r => ownKeys s d (at_ r) 256
        if add then ks else ks.eraseDups }) s)

/-- R267. -/
def execMstest (h : Ctl) (f : TF) (s : State) : Out :=
  .next (engineIssue (.mstest h f) (fun _ v l =>
    { faults := [none, signalCheck v.crew.scratch (v.opd l f.c 1)], c := v.ws l f.c 1 }) s)

/-! ## Copies (R268 to R271) -/

/-- The signal of a copy is checked unless it selects a record (R252). -/
def copySignal (grant word : Nat) : Option FaultRec := if bit word 31 then none else signalCheck grant word

/-- R268. -/
def execCpy (h : Ctl) (f : GF) (s : State) : Out :=
  .next (engineIssue (.cpy h f) (fun s v l =>
    let dk := f.sub.toNat % 4
    let sk := f.sub.toNat / 4
    let da := if dk = 0 then 2 else 1
    let sa := if sk = 0 then 2 else 1
    let (va, vb, vc) := (v.opd l f.a da, v.opd l f.b sa, v.opd l f.c 2)
    let n := vc % 2 ^ 32
    let w := vc / 2 ^ 32
    let d := v.copy
    let r := if dk = 2 then mget v.crew.reservations f.dtype.toNat else none
    let long := n = 0 || n > 2 ^ 24
    { faults := [firstSome [
          if dk = 2 then check (r.any fun x => va + n ≤ x.size) faultRes else none,
          check (!long) faultMat],
        lowestFault [
          if dk = 0 then spanCheck s d permW va n else if dk = 1 then scratchCheck v.crew.scratch va n else none,
          if sk = 0 then spanCheck s d permR vb n else scratchCheck v.crew.scratch vb n],
        copySignal v.crew.scratch w],
      a := v.ws l f.a da, b := v.ws l f.b sa, c := v.ws l f.c 2, resA := r, todo := [(0, n)],
      unwritten := [(0, n)], owns := if dk = 0 then ownKeys s d va n else [] }) s)

/-- A run of box elements along dimension 0: its half-byte offset in the local area, its half-byte address in the
tensor where it lies there, and its half bytes (R270). -/
structure BoxRun where
  local_ : Nat
  global : Option Nat
  size : Nat

/-- The box rows of a copy that touch memory: whole rows, with the part that lies in the tensor. -/
def boxRuns (t : TensorRec) (org : List Int) : List (BoxRun × BoxRun) :=
  (List.range (t.box.getD 1 1 * t.box.getD 2 1 * t.box.getD 3 1)).map fun j =>
    let e := j * t.box.getD 0 1
    let h := if t.size = 4 then 1 else 2 * 2 ^ t.size
    let first := (- org.getD 0 0).toNat
    let stop := min (t.box.getD 0 1) ((t.ext.getD 0 1 : Int) - org.getD 0 0).toNat
    let whole := boxElem t org e
    let part := boxElem t org (e + first)
    (⟨whole.1, none, t.box.getD 0 1 * h⟩, ⟨part.1, if first < stop then part.2 else none, (stop - first) * h⟩)

/-- Bytes under a run of half bytes. -/
def halfSpan (at_ size : Nat) : Nat × Nat := (at_ / 2, (at_ + size + 1) / 2 - at_ / 2)

/-- The number before which an instruction's own operations count as earlier ones (R68). -/
def View.number (v : View) (s : State) : Nat := v.again.getD s.serial

/-- The record of a `cpyt`, read when the instruction issues (R69, R269, R271): the state and the bytes, or a state in
which it has to wait. The checks of R250 and the ownership of R69 need its box. DESIGN CHOICE (log 64). -/
def recordNow (s : State) (v : View) (va : Nat) : EngGot := cachedRecord s v.core (v.number s) v.copy va

/-- The checks of a `cpyt` over its box, and the lines it writes. -/
def boxChecks (s : State) (v : View) (dir off : Nat) (r : Option Reservation) (t : TensorRec) (org : List Int) :
    Option FaultRec × List (Option FaultRec) × List Nat :=
  let runs := boxRuns t org
  let d := v.copy
  let rows := t.box.getD 1 1 * t.box.getD 2 1 * t.box.getD 3 1
  let res := match r with
    | none => check (dir ≠ 1) faultRes
    | some x => check ((runs.all fun e => let p := halfSpan e.1.local_ e.1.size; off + p.1 + p.2 ≤ x.size) &&
        (t.size ≠ 4 || (x.format = 8 && 16 * x.meta_ + 1040 * rows ≤ x.size))) faultRes
  let spans := runs.filterMap fun e => e.2.global.map fun g => halfSpan g e.2.size
  let glob := spans.map fun p => spanCheck s d (if dir = 2 then permW else permR) (p.1 % 2 ^ 64) p.2
  let loc := match dir with
    | 0 => runs.map fun e => let p := halfSpan e.1.local_ e.1.size; scratchCheck v.crew.scratch (off + p.1) p.2
    | 2 => runs.map fun e => if e.2.global.isSome then
        let p := halfSpan e.2.local_ e.2.size; scratchCheck v.crew.scratch (off + p.1) p.2 else none
    | _ => []
  let heads := if t.size = 4 && dir = 1 then
      (headerRows t org).map fun e => spanCheck s d permR e.2 1040 else []
  (res, glob ++ loc ++ heads, if dir = 2 then (spans.flatMap fun p => ownKeys s d (p.1 % 2 ^ 64) p.2).eraseDups else [])

/-- R270. -/
def execCpyt (h : Ctl) (f : GF) (s : State) : Out :=
  .next (engineIssue (.cpyt h f) (fun s v l =>
    let va := v.opd l f.a 2
    let vb := v.opd l f.b 2
    let dir := f.sub.toNat
    let r := if dir = 1 then mget v.crew.reservations f.dtype.toNat else none
    let c := v.ws l f.c 4
    let org := (List.range 4).map fun i => sval 32 (c.getD i 0).toNat
    let held := check (dir ≠ 1 || r.isSome) faultRes
    let aligned := check (va % 64 = 0) faultMat
    let rec_ := spanCheck s v.copy permR va 192
    let signal := copySignal v.crew.scratch (vb / 2 ^ 32)
    let p : EngPlan := { a := v.ws l f.a 2, b := v.ws l f.b 2, c := c, resA := r }
    match firstSome [held, aligned, rec_] with
    | some _ => { p with faults := [firstSome [held, aligned], rec_, none, signal] }
    | none => match recordNow s v va with
      | .missing t _ page => { p with wait := some (t, page) }
      | .bytes t bs =>
        let (buf, todo) := cpytStart f bs org
        let (res, acc, owns) := if tensorOk bs (org.getD 0 0) then boxChecks s v dir (vb % 2 ^ 32) r (tensorOf bs) org
          else (none, [], [])
        { p with faults := [res, none, lowestFault acc, signal], buf := buf, todo := todo, owns := owns, after := some t }) s)

/-- R271. -/
def execRcfence (h : Ctl) (f : GF) (s : State) : Out := .next (engineIssue (.rcfence h f) (fun _ _ _ => {}) s)

end Sys2Proof.Machine
end

