-- ==== Sys2Proof/Machine/Tasks.lean ====
section
/-! DEFINITION. Task records and task queues (R27, R29, R30, R439), task types (R332) and what a district's block gives
its tasks (R33, R333). -/

namespace Sys2Proof.Machine

/-! ## Task records (R27) -/

def taskBytes (type x y z depth : Nat) : List Byte :=
  toBytes 4 (depth % 16 * 2 ^ 28 + type % 65536) ++ toBytes 4 x ++ toBytes 4 y ++ toBytes 4 z

/-- The task of a record. -/
def taskOf (bs : List Byte) : Task :=
  let f := fun off => ofBytes ((bs.drop off).take 4)
  ⟨f 0 % 65536, BitVec.ofNat 32 (f 4), BitVec.ofNat 32 (f 8), BitVec.ofNat 32 (f 12), field (f 0) 28 4⟩

/-- A record with a reserved depth or a nonzero reserved field (R27). -/
def recordBad (bs : List Byte) : Bool :=
  let w := ofBytes (bs.take 4)
  field w 28 4 > 8 || field w 16 12 ≠ 0

/-- Length of the district's task-type table (R333). -/
def typeCount (s : State) (d : Nat) : Nat := inherited s d 7 0x050 4

/-- The task-type entry of an index, in the nearest district that sets the table (R33, R335). -/
def typeEntry (s : State) (d i : Nat) : Option (List Byte) :=
  match setter s 9 d 7 with
  | some x => x.types[i]?
  | none => none

/-- Debug enable of a district (R290, R333). -/
def debugEnabled (s : State) (d : Nat) : Bool := bit (inherited s d 3 0x01C 4) 0

/-! ## Fields of a task-type entry (R332) -/

def ty (e : List Byte) (off n : Nat) : Nat := ofBytes ((e.drop off).take n)
def tyEntryC (e : List Byte) : Nat := ty e 0 8
def tyEntryL (e : List Byte) : Nat := ty e 8 8
def tyAllotC (e : List Byte) : Nat := ty e 0x10 2
def tyAllotL (e : List Byte) : Nat := ty e 0x12 2
def tyWavesC (e : List Byte) : Nat := ty e 0x14 1
def tyWavesL (e : List Byte) : Nat := ty e 0x15 1
def tyFibresC (e : List Byte) : Nat := ty e 0x16 1
def tyFibresL (e : List Byte) : Nat := ty e 0x17 1
def tyScratch (e : List Byte) : Nat := ty e 0x18 4
def tyOb (e : List Byte) : Nat := ty e 0x1C 4
def tyStack (e : List Byte) : Nat := ty e 0x20 4
def tyStackAt (e : List Byte) : Nat := ty e 0x24 4
def tyGang (e : List Byte) : Nat := ty e 0x28 1
def tyValid (e : List Byte) : Bool := bit (ty e 0x29 1) 0

/-- Registers per lane of the footprint (R26, R332). -/
def tyRegsLane (e : List Byte) : Nat := tyWavesC e * tyAllotC e + tyWavesL e * (tyAllotL e + 8)
def tyWaves (e : List Byte) : Nat := tyWavesC e + tyWavesL e

/-- R332 with the footprint bounds of R26; reserved fields are ignored (R7). -/
def typeOk (e : List Byte) : Bool :=
  let a := tyAllotC e
  let b := tyAllotL e
  tyEntryC e % 16 = 0 && tyEntryL e % 16 = 0 && 16 ≤ a && a ≤ 512 && a % 16 = 0 &&
  1 ≤ tyWavesC e && tyWavesC e ≤ 32 && 1 ≤ tyFibresC e && tyFibresC e ≤ 32 &&
  (if tyWavesL e = 0 then b = 0 && tyFibresL e = 0 && tyEntryL e = 0
   else tyWavesL e = tyWavesC e && tyWavesC e ≤ 16 && 16 ≤ b && b ≤ 512 && b % 16 = 0 && 1 ≤ tyFibresL e &&
     tyFibresL e ≤ 32) &&
  tyScratch e % 4096 = 0 && tyScratch e ≤ 2 ^ 19 && tyOb e % 4096 = 0 && tyOb e ≤ 2 ^ 18 &&
  tyStack e % 16 = 0 && tyStackAt e % 16 = 0 && tyStackAt e + 32 * tyWaves e * tyStack e ≤ tyScratch e &&
  (tyGang e = 0 || (2 ≤ tyGang e && tyGang e ≤ 4)) &&
  tyRegsLane e ≤ 2048 && tyWaves e ≤ 32

/-! ## Task queues (R29, R439) -/

def queueOf (s : State) (d q : Nat) : Option TaskQueue :=
  match districtAt s d with
  | some x => mget x.queues q
  | none => none
def modQueue (s : State) (d q : Nat) (f : TaskQueue → TaskQueue) : State :=
  modDistrict s d fun x => { x with queues := mmod x.queues q f }

def queueFull (q : TaskQueue) : Bool := q.entries ≤ q.appended - q.placed

/-- The address of record `j` of a queue. -/
def queueSlot (q : TaskQueue) (j : Nat) : Nat := (q.ring.toNat + 16 * (j % q.entries)) % 2 ^ 64

/-- The record that stands at the head, read with the R permission (R439): no bytes where it cannot be read. -/
def headBytes (s : State) (d : Nat) (q : TaskQueue) : List Byte :=
  match placesWith s d permR (queueSlot q q.placed) 16 with
  | some ps => readPlaces s ps
  | none => []

/-- Appends a record to a queue that has room: its bytes, with the W permission (R439), then the count. -/
def appendTask (s : State) (d k : Nat) (bs : List Byte) (m : QueuedTask) : State :=
  match queueOf s d k with
  | none => s
  | some q =>
    let s := match placesWith s d permW (queueSlot q q.appended) 16 with
      | some ps => rawStore s 0 true ps bs
      | none => s
    modQueue s d k fun q => { q with waiting := q.waiting ++ [m], appended := q.appended + 1 }

end Sys2Proof.Machine
end

