-- ==== Sys2Proof/Machine/SeqRun.lean ====
section
/-! DEFINITION. The loop of the step sequencer (R112 to R133, R285, R301, R302), one event at a time: what a context
does when nothing is in progress or when its evaluation is complete. -/

namespace Sys2Proof.Machine

/-! ## Accesses (R111, R129) -/

/-- What accesses of the sequencer come to: a state, a page that is missing (nothing has happened then), a partition
in reset, or an access that fails. -/
inductive SeqDo (α : Type) where
  | ok (s : State) (a : α)
  | miss (part ctx ia flags : Nat)
  | wait
  | fail (s : State) (addr : Nat)

def SeqDo.bind {α β : Type} (x : SeqDo α) (f : State → α → SeqDo β) : SeqDo β :=
  match x with
  | .ok s a => f s a
  | .miss p c i fl => .miss p c i fl
  | .wait => .wait
  | .fail s a => .fail s a

/-- A context with its crew. -/
structure SeqEnv where
  key : Nat
  c : SeqCtx
  crew : Crew

def SeqEnv.core (e : SeqEnv) : Nat := e.c.owner / 16
def SeqEnv.dk (e : SeqEnv) : Nat := e.crew.district
/-- The copy of the district that its accesses use (R335). -/
def SeqEnv.copy (e : SeqEnv) : Nat := e.c.old.getD e.dk

/-- An access of `n` bytes before it is made: what stands against it. -/
def seqAccess {α : Type} (e : SeqEnv) (s : State) (need va n : Nat) (go : EngGot) (f : State → List Byte → SeqDo α) :
    SeqDo α :=
  match districtAt s e.copy with
  | none => .fail s va
  | some d =>
    match spanFault s d need (2 * (n / 4096) + 4) va n with
    | some x => .fail s x.addr
    | none =>
      match access s d (if need = permR then .near (dieOfCore e.core) else .home) need va n with
      | .noPage p ia fl => .miss p d.ctx ia fl
      | _ => match go with
        | .bytes s bs => f s bs
        | .missing .. => .wait

def seqRead (e : SeqEnv) (s : State) (va n : Nat) : SeqDo (List Byte) :=
  seqAccess e s permR va n (engRead s e.core s.serial e.copy va n) fun s bs => .ok s bs

def seqWrite (e : SeqEnv) (s : State) (va : Nat) (bs : List Byte) : SeqDo Unit :=
  seqAccess e s permW va bs.length (engWrite s e.core s.serial e.copy va bs) fun s _ => .ok s ()

/-- The elements of a vector in the state format. -/
def readVec (e : SeqEnv) (s : State) (va : Nat) : SeqDo (List Nat) :=
  (seqRead e s va (e.c.n * e.c.esize)).bind fun s bs => .ok s (chunks e.c.esize e.c.n bs)
def writeVec (e : SeqEnv) (s : State) (va : Nat) (xs : List Nat) : SeqDo Unit :=
  seqWrite e s va (xs.map (toBytes e.c.esize)).flatten

def readWork (e : SeqEnv) (s : State) (v : Nat) : SeqDo (List Nat) := readVec e s (e.c.workElem v 0)
def writeWork (e : SeqEnv) (s : State) (v : Nat) (xs : List Nat) : SeqDo Unit := writeVec e s (e.c.workElem v 0) xs
/-- y where the sequencer has it: in the tiles from a run's start to its return in tile mode (R113), in memory else.
Kind 3 never reads y into the tiles (R119). -/
def readY (e : SeqEnv) (s : State) : SeqDo (List Nat) :=
  if e.c.inRun && e.c.tileFlag && tabKind e.c.tableau ≠ 3 then
    .ok s (chunks 4 e.c.n (readBytes s.mem.tiles (tilePlace e.core e.c.tileBase 0 0) (4 * e.c.n)))
  else readVec e s (e.c.yElem 0)
/-- Address of k of stage i, part p, in a bank. -/
def kAddr (c : SeqCtx) (bank i p : Nat) : Nat := c.stageElem (c.stageVec bank i p) 0

/-! ## Stage combinations (R112) -/

/-- An exact product of values in two formats, rounded once. -/
def mulInto (f fa fb : Fmt) (a b : Nat) : Nat :=
  (roundEx f .rne false (fvEx (mulFV (fpDecode fa a) (fpDecode fb b)).1)).1
def wAdd (f : Fmt) (a b : Nat) : Nat := (fpAdd f .rne false a b).1
def wSub (f : Fmt) (a b : Nat) : Nat := (fpSub f .rne false a b).1
def wMul (f : Fmt) (a b : Nat) : Nat := (fpMul f .rne false a b).1
def wDiv (f : Fmt) (a b : Nat) : Nat := (fpDiv f .rne false a b).1

/-- One term added to every element. -/
def combTerm (f : Fmt) (h a : Nat) (xs ks : List Nat) : List Nat :=
  let ha := mulInto f .f64 .f64 h a
  List.zipWith (fun x k => wAdd f x (wMul f ha k)) xs ks

/-- comb(base, terms): a term is a coefficient and the address of its k; a zero coefficient reads nothing. -/
def comb (e : SeqEnv) (h : Nat) : List (Nat × Nat) → State → List Nat → SeqDo (List Nat)
  | [], s, xs => .ok s xs
  | (a, k) :: r, s, xs =>
    if isZero64 a then comb e h r s xs
    else (readVec e s k).bind fun s ks => comb e h r s (combTerm e.c.fmt h a xs ks)

/-- The terms one after another, each added to what the destination holds. -/
def addTerms (e : SeqEnv) (h dst : Nat) : List (Nat × Nat) → State → SeqDo Unit
  | [], s => .ok s ()
  | (a, k) :: r, s =>
    if isZero64 a then addTerms e h dst r s
    else (readVec e s k).bind fun s ks => (readVec e s dst).bind fun s xs =>
      (writeVec e s dst (combTerm e.c.fmt h a xs ks)).bind fun s _ => addTerms e h dst r s

/-- A combination goes to a vector in memory (R113). In tile mode it runs in the tiles and is written whole. Else the
base is written first and each term is added at the destination, in the order of R112: the series of a line opens and
closes within this one event, whose partials therefore are in order, and the adders keep nothing of it. -/
def combTo (e : SeqEnv) (h : Nat) (terms : List (Nat × Nat)) (dst : Nat) (s : State) (base : List Nat) :
    SeqDo (List Nat) :=
  if e.c.tileFlag then
    (comb e h terms s base).bind fun s x => (writeVec e s dst x).bind fun s _ => .ok s x
  else
    (writeVec e s dst base).bind fun s _ => (addTerms e h dst terms s).bind fun s _ => readVec e s dst

/-- Terms of stages 1 to m, both parts, with the coefficient of each. -/
def stageTerms (c : SeqCtx) (bank m : Nat) (coef : Nat → Nat → Nat) : List (Nat × Nat) :=
  (List.range m).flatMap fun j => (List.range (tabParts c.tableau)).map fun p => (coef p (j + 1), kAddr c bank (j + 1) p)

/-- w of the dense extension for one stage and part (R122). -/
def denseCoef (bs : List Byte) (th p i : Nat) : Nat :=
  let d := tabD bs
  if d = 0 then dMul (tabB bs p i) th
  else dMul ((List.range (d - 1)).foldl (fun acc j => dAdd (dMul acc th) (tabBeta bs p i (d - 1 - j))) (tabBeta bs p i d)) th

/-- dense(θ) over step h with the given base vector and bank goes to a vector (R122). -/
def denseTo (e : SeqEnv) (h bank th dst : Nat) (s : State) (base : List Nat) : SeqDo (List Nat) :=
  combTo e h (stageTerms e.c bank (tabS e.c.tableau) (denseCoef e.c.tableau th)) dst s base

/-! ## Step control (R117, R118) -/

/-- 2^j in FP64. -/
def dPow2 (j : Int) : Nat := (1023 + j).toNat * 2 ^ 52
def dHalf : Nat := 0x3FE0000000000000
def dMax (a b : Nat) : Nat := (fpMinMax .f64 true a b).1
def dMin (a b : Nat) : Nat := (fpMinMax .f64 false a b).1
def dInf : Nat := 0x7FF0000000000000
/-- A value of the state format in FP64: exact. -/
def toD (f : Fmt) (x : Nat) : Nat := (fpCvt f .f64 .rne false x).1

/-- atol + rtol × x. -/
def tolOf (c : SeqCtx) (x : Nat) : Nat := dAdd c.atol (dMul c.rtol x)

/-- One element's scaled error (R117). -/
def errElem (c : SeqCtx) (yn yh y : Nat) : Nat :=
  let f := c.fmt
  let num := fpAbs .f64 (dSub (toD f yn) (toD f yh))
  let den := tolOf c (dMax (fpAbs .f64 (toD f yn)) (fpAbs .f64 (toD f y)))
  if isZero64 num then 0
  else if !dFinite num || !dFinite den || isZero64 den then dInf
  else dDiv num den

def errNorm (c : SeqCtx) : List Nat → List Nat → List Nat → Nat → Nat
  | a :: as, b :: bs, y :: ys, m => errNorm c as bs ys (dMax m (errElem c a b y))
  | _, _, _, m => m

/-- p of R118 for an exponent. -/
def factorPow (bs : List Byte) (j : Int) : Nat :=
  let g := dDiv (dPow2 j) (tabParam bs 0)
  (List.range (tabQ bs)).foldl (fun p _ => dMul p g) g

/-- The factor from exponent `j` downwards, `n` exponents left above jmin. -/
def factorFrom (bs : List Byte) (err : Nat) : Nat → Int → Nat
  | 0, j => dPow2 j
  | n + 1, j => if dLe (dMul (factorPow bs j) err) dOne then dPow2 j else factorFrom bs err n (j - 1)

/-- R118; 1 without an embedded row (R117). -/
def stepFactor (bs : List Byte) (err : Nat) : Nat :=
  if tabQ bs = 0 then dOne else factorFrom bs err ((tabJmax bs : Int) - tabJmin bs).toNat (tabJmax bs)

/-- The step within hmax, +0 being no limit. -/
def capStep (bs : List Byte) (h : Nat) : Nat := if isZero64 (tabParam bs 4) then h else dMin h (tabParam bs 4)

/-- h := min(h, t_end − t), with the clipped mark (R118). -/
def clipStep (c : SeqCtx) (r : SeqRun) : SeqRun :=
  let left := dSub c.tEnd r.t.toNat
  let take := dLe left r.h.toNat
  { r with h := if take then BitVec.ofNat 64 left else r.h, clipped := take }

/-! ## Evaluations (R114, R301) -/

def putCtx (s : State) (k : Nat) (c : SeqCtx) : State := { s with seqs := mset s.seqs k c }

/-- Starts an evaluation; what the loop goes on with is `at_`. -/
def startEval (e : SeqEnv) (s : State) (at_ : SeqAt) (phase stage iter event : Nat) (time : W64) (type : Nat) : State :=
  modSeq s e.key fun c =>
    let n := c.grid 0 * c.grid 1 * c.grid 2
    { c with at_ := at_, eval := some ⟨phase, stage, iter, event, time, type, n, 0, 0, false, false⟩ }

/-- The time of a stage (R115). -/
def stageTime (c : SeqCtx) (i : Nat) : W64 :=
  BitVec.ofNat 64 (dAdd c.regs.t.toNat (dMul (tabC c.tableau i) c.regs.h.toNat))

def setAt (s : State) (k : Nat) (a : SeqAt) : State := modSeq s k fun c => { c with at_ := a, eval := none }
/-- Nothing is in progress in the context; instructions that waited for that issue again. -/
def seqIdle (s : State) (k : Nat) : State := wakeDeferred isDeferred (setAt s k .idle)
def modRun (s : State) (k : Nat) (f : SeqRun → SeqRun) : State := modSeq s k fun c => { c with regs := f c.regs }

/-- Starts a phase-0 or phase-1 evaluation of stage i on what Ybuf holds. -/
def startRhs (e : SeqEnv) (s : State) (at_ : SeqAt) (part i iter : Nat) : SeqDo Unit :=
  .ok (startEval e s at_ part i iter 0 (stageTime e.c i) (e.c.taskType part)) ()

/-- Writes Ybuf first. -/
def evalRhs (e : SeqEnv) (s : State) (at_ : SeqAt) (part i iter : Nat) (ybuf : List Nat) : SeqDo Unit :=
  (writeWork e s 0 ybuf).bind fun s _ => startRhs e s at_ part i iter

/-- Evaluates event `v` at a time, whose state Ybuf holds. -/
def evalEvent (e : SeqEnv) (s : State) (at_ : SeqAt) (v : Nat) (time type : Nat) : State :=
  startEval e s at_ 3 0 0 v (BitVec.ofNat 64 time) type

def eventAt (c : SeqCtx) (v : Nat) : SeqEvent := c.events.getD v ⟨0, 0, false, 0⟩
/-- Armed events from number `v` on. -/
def armedFrom (c : SeqCtx) (v : Nat) : List Nat := [0, 1, 2, 3].filter fun i => v ≤ i && (eventAt c i).mask != 0
/-- g of event v as its task left it; a NaN is remembered (R124, R128). -/
def readG (e : SeqEnv) (s : State) (v : Nat) : SeqDo Nat :=
  (seqRead e s (e.c.eventWord v) 8).bind fun s bs =>
    let g := ofBytes bs
    .ok (if isNaN (fpDecode .f64 g) then modRun s e.key fun r => { r with nanEvent := true } else s) g

/-! ## Tile mode (R113) and ends of a run -/

/-- Writes y into the first u tiles. -/
def putTiles (e : SeqEnv) (s : State) (y : List Nat) : State :=
  if !e.c.tileFlag then s
  else
    let at_ := tilePlace e.core e.c.tileBase 0 0
    { s with mem := { s.mem with tiles := writeBytes s.mem.tiles at_ (y.map (toBytes 4)).flatten } }

/-- After the return the other u tiles hold unspecified values (R113). -/
def freeTiles (e : SeqEnv) (s : State) : State :=
  if !e.c.tileFlag then s
  else
    let n := 4096 * e.c.tileCount
    let at_ := tilePlace e.core (e.c.tileBase + e.c.tileCount) 0 0
    let bs := ((List.range n).map fun i => toBytes 4 (Config.freeWord (s.free + i)).toNat).flatten
    { s with free := s.free + n, mem := { s.mem with tiles := writeBytes s.mem.tiles at_ bs } }

/-- Flights of armings whose tags clear now (R285). -/
def clearTags (s : State) (ns : List Nat) : State := ns.foldl (fun s n => modFlight s n fun f => { f with waits := 0 }) s

/-- Nothing is in progress in a context any more: the tags of armings that have taken effect clear (R285). -/
def seqDone (s : State) (k : Nat) : State :=
  let done := ((seqAt s k).map (·.accDone)).getD []
  seqIdle (modSeq (clearTags s done) k fun c => { c with accDone := [], old := none }) k

/-- The lanes of a crew's wave that wait for its run go on with the result words (R279, R280). -/
def returnWave (s : State) (k word : Nat) (words : List W32) : State :=
  match mget s.waves k with
  | none => s
  | some w => wakeLanes s (wkCore k) (wkSlot k) (w.fibres.filterMap fun x => match x.2.wait with
    | .oderun dst => some (x.1, (targetsOf x.1 x.2.win dst 1).zip [BitVec.ofNat 32 word])
    | .odestep dst rec_ =>
      some (x.1, if rec_ then (targetsOf x.1 x.2.win dst 4).zip words
        else (targetsOf x.1 x.2.win dst 1).zip [BitVec.ofNat 32 word])
    | _ => none)

/-- ODERUN or ODESTEP returns. -/
def seqReturn (e : SeqEnv) (s : State) (word info f0 : Nat) : State :=
  let words := [BitVec.ofNat 32 word, BitVec.ofNat 32 info, BitVec.ofNat 32 f0, BitVec.ofNat 32 (f0 / 2 ^ 32)]
  let ks := (s.waves.filter fun x => x.2.id.crew = e.c.owner && wkCore x.1 = e.core).map Prod.fst
  let s := ks.foldl (fun s k => returnWave s k word words) s
  seqDone (freeTiles e s) e.key

/-- The run ends with a word of R280: the context is in state 2, and armings still pending are applied before the
return (R285). The word 5 is no end cause. -/
def endRunWith (e : SeqEnv) (s : State) (word : Nat) : State :=
  modSeq s e.key fun c =>
    let r := if word = 5 then c.regs else { c.regs with cause := word }
    { c with state := 2, regs := r, shown := r, eval := none, at_ := .leave word 0 0 }

/-- The replay record of a step boundary (R133). -/
def boundaryRecord (e : SeqEnv) : RRec :=
  { kind := 8, check := xor16 4 (e.c.regs.t ^^^ e.c.regs.h).toNat, core := 0x8000 + clusterOf e.core, slot := 0xFF,
    lane := 0xFF, detail := e.key % 8, object := 0, second := 0 }

/-- Passes a step boundary in the replay log; none when it has to wait. The second value says that it may go on. -/
def passBoundary (e : SeqEnv) (s : State) : Option (State × Bool) :=
  match replayGate s e.dk (boundaryRecord e) with
  | .stall => none
  | .diverge => some (diverge s e.dk e.core, false)
  | .go =>
    let (s, bad) := replayLog s e.dk (boundaryRecord e)
    some (s, !bad)

/-! ## Armings (R124, R285) -/

/-- The first pending arming: a disarming takes effect, another one is evaluated at the current t and y. -/
def applyArm (e : SeqEnv) (s : State) (a : ArmReq) (rest : List ArmReq) (at_ : SeqAt) : SeqDo Unit :=
  if a.mask = 0 then
    .ok (modSeq s e.key fun c => { c with
      events := c.events.set a.event { eventAt c a.event with mask := 0 }, pend := rest,
      accDone := c.accDone ++ [a.flight] }) ()
  else
    (readY e s).bind fun s y => (writeWork e s 0 y).bind fun s _ =>
      .ok (evalEvent e s at_ a.event e.c.regs.t.toNat a.type.toNat) ()

/-- The evaluated arming takes effect. -/
def armDone (e : SeqEnv) (s : State) : SeqDo Unit :=
  match e.c.pend with
  | [] => .ok s ()
  | a :: rest => (readG e s a.event).bind fun s g =>
    .ok (modSeq s e.key fun c => { c with
      events := c.events.set a.event ⟨a.type, a.mask, a.stop, BitVec.ofNat 64 g⟩, pend := rest,
      accDone := c.accDone ++ [a.flight] }) ()

/-- An arming outside a run has failed: the event keeps what it had (R124). -/
def armFail (e : SeqEnv) (s : State) : State :=
  modSeq s e.key fun c => { c with
    regs := { c.regs with armFailed := true }, shown := { c.shown with armFailed := true },
    pend := c.pend.drop 1, accDone := c.accDone ++ (c.pend.take 1).map (·.flight) }

/-! ## Stages (R119, R120, R121) -/

/-- The terms of Z of stage i. -/
def termsZ (c : SeqCtx) (i : Nat) : List (Nat × Nat) :=
  stageTerms c c.regs.bank (i - 1) fun p j => tabA c.tableau p i j

/-- Z of stage i, kept by the sequencer while it iterates (R120). -/
def stageZ (e : SeqEnv) (s : State) (i : Nat) : SeqDo (List Nat) :=
  (readY e s).bind fun s y => comb e e.c.regs.h.toNat (termsZ e.c i) s y

/-- The part that the implicit routine computes: phase 1 and part 1 in kind 2, else 0. -/
def implPart (c : SeqCtx) : Nat := if tabKind c.tableau = 2 then 1 else 0

/-- Begins stage i. -/
def beginStage (e : SeqEnv) (s : State) (i : Nat) : SeqDo Unit :=
  (readY e s).bind fun s y =>
  (combTo e e.c.regs.h.toNat (termsZ e.c i) (e.c.workElem 0 0) s y).bind fun s z =>
    if tabImplicit e.c.tableau i then
      (if tabXn e.c.tableau then writeWork e s 6 z else .ok s ()).bind fun s _ =>
        startRhs e s (.newtonF i 1) (implPart e.c) i 1
    else startRhs e s (.rhs i 0) 0 i 0

/-- u of R120 and u* of R121: the maximum of |d| / (atol + rtol |y|), NaN if any is. -/
def newtonNorm (c : SeqCtx) : List Nat → List Nat → Nat → Nat
  | d :: ds, y :: ys, m =>
    let q := dDiv (fpAbs .f64 d) (tolOf c (fpAbs .f64 (toD c.fmt y)))
    newtonNorm c ds ys (if isNaN (fpDecode .f64 m) || isNaN (fpDecode .f64 q) then nan64 else dMax m q)
  | _, _, m => m

/-- E[e] of one element's history, oldest first, in FP64; Y[e] where it fell back (R121). -/
def extrapElem (c : SeqCtx) (hist : List Nat) : Nat :=
  let h := hist.map (toD c.fmt)
  let (x, fb) := if tabXm c.tableau = 1 then xaLsq (fpAbs .f64 (tabParam c.tableau 5)) h
    else xaEps (fpAbs .f64 (tabParam c.tableau 5)) h
  if fb then h.getLast?.getD nan64 else canon64 x

/-- History vectors 6 .. 6 + n − 1. -/
def readHist (e : SeqEnv) : Nat → Nat → State → SeqDo (List (List Nat))
  | 0, _, s => .ok s []
  | n + 1, v, s => (readWork e s v).bind fun s x => (readHist e n (v + 1) s).bind fun s r => .ok s (x :: r)

def writeHist (e : SeqEnv) : List (List Nat) → Nat → State → SeqDo Unit
  | [], _, s => .ok s ()
  | x :: r, v, s => (writeWork e s v x).bind fun s _ => writeHist e r (v + 1) s

/-- The history with the iterate `y` of iteration m added: the last xd of Y^(0) … Y^(m). -/
def pushHist (e : SeqEnv) (s : State) (m : Nat) (y : List Nat) : SeqDo (List (List Nat)) :=
  let xd := tabXd e.c.tableau
  let held := min m xd
  (readHist e held 6 s).bind fun s h =>
    if held < xd then (writeWork e s (6 + held) y).bind fun s _ => .ok s (h ++ [y])
    else
      let h := h.drop 1 ++ [y]
      (writeHist e h 6 s).bind fun s _ => .ok s h

/-- y_new or ŷ goes to work vector `v`. -/
def combEnd (e : SeqEnv) (s : State) (v : Nat) (y : List Nat) (coef : List Byte → Nat → Nat → Nat) : SeqDo (List Nat) :=
  let c := e.c
  combTo e c.regs.h.toNat (stageTerms c c.regs.bank (tabS c.tableau) (coef c.tableau)) (c.workElem v 0) s y

/-- The exact difference of two FP64 numbers (R9). -/
def dDiff (a b : Nat) : FV :=
  match (sumEx .rne [fpDecode .f64 a, fvNeg (fpDecode .f64 b)]).1 with
  | .num n m _ e => .fin n m e
  | .inf n => .inf n
  | .nan => .nan false

/-- round_rne_f64((a − b) / c): the difference is exact (R9). -/
def dQuot (a b c : Nat) : Nat := (finish .f64 .rne false (divEx (dDiff a b) (fpDecode .f64 c))).1

/-- A rejected attempt (R118, R119). -/
def rejectStep (e : SeqEnv) (s : State) (err f : Nat) : State :=
  let r := { e.c.regs with rejects := e.c.regs.rejects + 1, err := BitVec.ofNat 64 err,
                           h := BitVec.ofNat 64 (dMul e.c.regs.h.toNat (dMin f dHalf)) }
  if dLt r.h.toNat (tabParam e.c.tableau 3) then
    endRunWith e (modRun s e.key fun x => { r with clipped := false, newtons := x.newtons, nanEvent := x.nanEvent }) 2
  else setAt (modRun s e.key fun x => clipStep e.c { r with newtons := x.newtons, nanEvent := x.nanEvent }) e.key .boundary

/-- The candidate end of an accepted attempt and the first event evaluation (R123). -/
def beginAccept (e : SeqEnv) (s : State) (yNew : List Nat) (f : Nat) (commit : SeqEnv → State → SeqDo Unit) : SeqDo Unit :=
  let r := e.c.regs
  let tc := if r.clipped then e.c.tEnd else dAdd r.t.toNat r.h.toNat
  let past := dLt e.c.tEnd tc
  let th := dQuot e.c.tEnd r.t.toNat r.h.toNat
  let tc := if past then e.c.tEnd else tc
  (if past then (readY e s).bind fun s y => (denseTo e r.h.toNat r.bank th (e.c.workElem 0 0) s y).bind fun s _ => .ok s ()
    else writeWork e s 0 yNew).bind fun s _ =>
      let a : Attempt := ⟨BitVec.ofNat 64 tc, none, [0, 0, 0, 0], BitVec.ofNat 64 f, 0, 0, 0, 0, 0, 0, 0, []⟩
      let s := modSeq s e.key fun c => { c with attempt := a }
      match armedFrom e.c 0 with
      | v :: _ => .ok (evalEvent e s (.endEvent v) v tc (eventAt e.c v).type.toNat) ()
      | [] => match seqAt s e.key with
        | some c => commit { e with c := c } s
        | none => .ok s ()

/-! ## Acceptance (R123, R126, R127) -/

/-- An event record. -/
def eventRecord (tv gv step v : Nat) (falling stop : Bool) : List Byte :=
  toBytes 8 tv ++ toBytes 8 gv ++ toBytes 8 step ++ toBytes 1 v ++
    toBytes 1 ((if falling then 1 else 0) + (if stop then 2 else 0)) ++ toBytes 6 0

/-- Posts event records, then the count. -/
def postEvents (e : SeqEnv) : List (List Byte) → Nat → State → SeqDo Nat
  | [], j, s => .ok s j
  | x :: r, j, s => (seqWrite e s ((e.c.ring + 0x20 + 32 * (j % e.c.ringEntries)) % 2 ^ 64) x).bind fun s _ =>
    postEvents e r (j + 1) s

/-- Whether an event fires with the new g, and if so whether it falls (R124). -/
def fires (ev : SeqEvent) (g : Nat) : Option Bool :=
  let old := ev.gOld.toNat
  if bit ev.mask.toNat 0 && dLt old 0 && dLe 0 g then some false
  else if bit ev.mask.toNat 1 && dLt 0 old && dLe g 0 then some true
  else none

/-- The acceptance of the attempt whose end state is in Ybuf. -/
def commitStep (e : SeqEnv) (s : State) : SeqDo Unit :=
  let c := e.c
  let a := c.attempt
  let r := c.regs
  let first := a.found.foldl (fun m x => if dLt x.2.1.toNat m then x.2.1.toNat else m) a.tC.toNat
  let posted := a.found.filter fun x => (fpCond .f64 0 x.2.1.toNat first).1
  let stop := posted.any fun x => (eventAt c x.1).stop
  let step := r.steps + 1
  (readY e s).bind fun s y => (writeWork e s 3 y).bind fun s _ =>
  (readWork e s 0).bind fun s yc => (writeVec e s (c.yElem 0) yc).bind fun s _ =>
  let recs := posted.map fun x =>
    eventRecord x.2.1.toNat x.2.2.toNat step x.1 (dLt 0 (eventAt c x.1).gOld.toNat) stop
  (if c.ringEntries = 0 || recs = [] then .ok s c.posted
    else (postEvents e recs c.posted s).bind fun s j =>
      (seqWrite e s c.ring (toBytes 8 j)).bind fun s _ => .ok s j).bind fun s j =>
  let s := putTiles e s yc
  let h := capStep c.tableau (dMul r.h.toNat a.factor.toNat)
  let r' := clipStep c { r with
    t := a.tC, h := BitVec.ofNat 64 h, steps := step, runSteps := r.runSteps + 1, hA := r.h, tOld := r.t,
    bank := 1 - r.bank, retained := true }
  let s := clearTags s c.accDone
  let s := modSeq s e.key fun c => { c with
    regs := r', shown := r', posted := j, accDone := [], eval := none, at_ := .boundary,
    events := c.events.mapIdx fun i ev => { ev with gOld := a.gNew.getD i 0 } }
  .ok (if stop then endRunWith e s 1
    else if c.oneStep then endRunWith e s (if dLt r'.t.toNat c.tEnd then 5 else 0)
    else s) ()

/-- All stages are done: y_new, ŷ, the error, and acceptance or rejection. -/
def endAttempt (e : SeqEnv) (s : State) : SeqDo Unit :=
  let q := tabQ e.c.tableau
  (readY e s).bind fun s y =>
  (combEnd e s 1 y tabB).bind fun s yn =>
  (if q = 0 then .ok s 0
    else (combEnd e s 2 y tabBh).bind fun s yh => .ok s (errNorm e.c yn yh y 0)).bind fun s err =>
  let f := stepFactor e.c.tableau err
  if dLe err dOne then
    let c := { e.c with regs := { e.c.regs with err := BitVec.ofNat 64 err } }
    beginAccept { e with c := c } (modRun s e.key fun r => { r with err := BitVec.ofNat 64 err }) yn f commitStep
  else .ok (rejectStep e s err f) ()

def nextStage (e : SeqEnv) (s : State) (i : Nat) : SeqDo Unit :=
  if i < tabS e.c.tableau then beginStage e s (i + 1) else endAttempt e s

/-- The implicit routine of iteration m is complete: the residual, and the solve. -/
def newtonResidual (e : SeqEnv) (s : State) (i m : Nat) : SeqDo Unit :=
  let f := e.c.fmt
  let r := e.c.regs
  let hg := dMul r.h.toNat (tabParam e.c.tableau 1)
  (stageZ e s i).bind fun s z => (readWork e s 0).bind fun s y =>
  (readVec e s (kAddr e.c r.bank i (implPart e.c))).bind fun s kk =>
  let res := List.zipWith (fun zy k => wAdd f zy (mulInto f .f64 f hg k)) (List.zipWith (wSub f) z y) kk
  (writeWork e s 4 res).bind fun s _ =>
    .ok (startEval e s (.newtonS i m) 2 i m 0 (stageTime e.c i) (e.c.taskType 2)) ()

/-- The Newton iteration has succeeded with Y: k, and in kind 2 the explicit part. -/
def newtonDone (e : SeqEnv) (s : State) (i : Nat) (z y : List Nat) : SeqDo Unit :=
  let f := e.c.fmt
  let r := e.c.regs
  let hg := mulInto f .f64 .f64 r.h.toNat (tabParam e.c.tableau 1)
  let k := List.zipWith (fun yv zv => wDiv f (wSub f yv zv) hg) y z
  (writeVec e s (kAddr e.c r.bank i (implPart e.c)) k).bind fun s _ =>
    if tabKind e.c.tableau = 2 then evalRhs e s (.newtonX i) 0 i 0 y else nextStage e s i

/-- The solve of iteration m is complete: the update and its tests. -/
def newtonUpdate (e : SeqEnv) (s : State) (i m : Nat) : SeqDo Unit :=
  let c := e.c
  let f := c.fmt
  let kappa := tabParam c.tableau 2
  let s := modRun s e.key fun r => { r with newtons := r.newtons + 1 }
  (stageZ e s i).bind fun s z => (readWork e s 0).bind fun s y0 => (readWork e s 5).bind fun s dl =>
  let y := List.zipWith (wAdd f) y0 dl
  let u := newtonNorm c (dl.map (toD f)) y 0
  let again := fun (s : State) =>
    if m < tabNl c.tableau then evalRhs e s (.newtonF i (m + 1)) (implPart c) i (m + 1) y
    else SeqDo.ok (rejectStep e s dInf (dPow2 (-2))) ()
  if dLe u kappa then newtonDone e s i z y
  else if !tabXn c.tableau then again s
  else (pushHist e s m y).bind fun s hist =>
    if hist.length < 3 then again s
    else
      let ext := (List.range c.n).map fun j => extrapElem c (hist.map fun v => v.getD j 0)
      let u' := newtonNorm c (List.zipWith (fun x yv => dSub x (toD f yv)) ext y) y 0
      if dLe u' kappa then newtonDone e s i z (ext.map fun x => (fpCvt .f64 f .rne false x).1) else again s

/-! ## Events (R123 to R126) -/

/-- The next event to locate from number `v` on, or the end of the attempt's events. -/
def nextFired (c : SeqCtx) (v : Nat) : Option (Nat × Bool) :=
  (armedFrom c v).findSome? fun i => (fires (eventAt c i) (c.attempt.gNew.getD i 0).toNat).map fun b => (i, b)

def modAttempt (s : State) (k : Nat) (f : Attempt → Attempt) : State := modSeq s k fun c => { c with attempt := f c.attempt }

/-- θ of a time within the attempt: each of the two operations is rounded, as R125 notes beside this expression. -/
def thetaOf (c : SeqCtx) (tau : Nat) : Nat := dDiv (dSub tau c.regs.t.toNat) c.regs.h.toNat

/-- The dense extension of the current attempt goes to Ybuf. -/
def denseToYbuf (e : SeqEnv) (s : State) (th : Nat) : SeqDo Unit :=
  (readY e s).bind fun s y =>
    (denseTo e e.c.regs.h.toNat e.c.regs.bank th (e.c.workElem 0 0) s y).bind fun s _ => .ok s ()

/-- Every fired event has been located: the earliest ends the step, and every armed event is evaluated there. -/
def endAtEvent (e : SeqEnv) (s : State) : SeqDo Unit :=
  let c := e.c
  match c.attempt.found with
  | [] => commitStep e s
  | x :: r =>
    let t := r.foldl (fun m y => if dLt y.2.1.toNat m then y.2.1.toNat else m) x.2.1.toNat
    (denseToYbuf e s (thetaOf c t)).bind fun s _ =>
      let s := modAttempt s e.key fun a => { a with tC := BitVec.ofNat 64 t, theta := some (BitVec.ofNat 64 (thetaOf c t)) }
      match armedFrom c 0 with
      | v :: _ => .ok (evalEvent e s (.again v) v t (eventAt c v).type.toNat) ()
      | [] => .ok s ()

/-- Goes on with the search of R125 for event `v`, or with the next event once it is over. -/
def locateStep : Nat → SeqEnv → State → Nat → SeqDo Unit
  | 0, _, s, _ => .ok s ()
  | fuel + 1, e, s, v =>
    let a := e.c.attempt
    let (lo, hi) := (a.lo.toNat, a.hi.toNat)
    if valLt (fpDecode .f64 e.c.epsT) (dDiff hi lo) && a.n < 32 then
      let x := dSub hi (dMul a.ghi.toNat (dQuot hi lo (dSub a.ghi.toNat a.glo.toNat)))
      let cc := if dLt lo x && dLt x hi then x else dAdd lo (dQuot hi lo (dPow2 1))
      (denseToYbuf e s (thetaOf e.c cc)).bind fun s _ =>
        .ok (evalEvent e (modAttempt s e.key fun a => { a with c := BitVec.ofNat 64 cc }) (.locate v) v cc
          (eventAt e.c v).type.toNat) ()
    else
      let a' := { a with found := a.found ++ [(v, (a.hi, a.ghi))] }
      let e' := { e with c := { e.c with attempt := a' } }
      let s := modAttempt s e.key fun _ => a'
      match nextFired e'.c (v + 1) with
      | none => endAtEvent e' s
      | some (w, _) =>
        let b := { a' with lo := e.c.regs.t, glo := (eventAt e.c w).gOld, hi := a'.tC, ghi := a'.gNew.getD w 0,
                           side := 0, n := 0 }
        locateStep fuel { e' with c := { e'.c with attempt := b } } (modAttempt s e.key fun _ => b) w

/-- Every armed event has been evaluated at the end of the attempt. -/
def beginLocate (e : SeqEnv) (s : State) : SeqDo Unit :=
  match nextFired e.c 0 with
  | none => commitStep e s
  | some (v, _) =>
    let b := { e.c.attempt with lo := e.c.regs.t, glo := (eventAt e.c v).gOld, hi := e.c.attempt.tC,
                                ghi := e.c.attempt.gNew.getD v 0, side := 0, n := 0 }
    locateStep 5 { e with c := { e.c with attempt := b } } (modAttempt s e.key fun _ => b) v

/-- The bracket after g has been evaluated at c (R125); the second value says that it was 0. -/
def narrow (falling : Bool) (a : Attempt) (g : Nat) : Attempt × Bool :=
  let dg := if falling then fpNeg .f64 g else g
  let half := fun (x : W64) => BitVec.ofNat 64 (dDiv x.toNat (dPow2 1))
  let b := if dLe 0 dg then
      { a with hi := a.c, ghi := BitVec.ofNat 64 g, glo := if a.side = 1 then half a.glo else a.glo, side := 1 }
    else { a with lo := a.c, glo := BitVec.ofNat 64 g, ghi := if a.side = -1 then half a.ghi else a.ghi, side := -1 }
  if isZero64 g then ({ b with n := 32 }, true) else ({ b with n := a.n + 1 }, false)

/-- g of event `v` at the candidate end; then the next armed event, or what follows them all. -/
def eventDone (e : SeqEnv) (s : State) (v : Nat) (at_ : Nat → SeqAt) (last : SeqEnv → State → SeqDo Unit) : SeqDo Unit :=
  (readG e s v).bind fun s g =>
    let a := { e.c.attempt with gNew := e.c.attempt.gNew.set v (BitVec.ofNat 64 g) }
    let s := modAttempt s e.key fun _ => a
    match armedFrom e.c (v + 1) with
    | w :: _ => .ok (evalEvent e s (at_ w) w a.tC.toNat (eventAt e.c w).type.toNat) ()
    | [] => last { e with c := { e.c with attempt := a, regs := ((seqAt s e.key).map (·.regs)).getD e.c.regs } } s

/-! ## Frames (R131) -/

/-- The format of the activations of a frame descriptor. -/
def actFormat (n : Nat) : Fmt :=
  match n with
  | 1 => .bf16
  | 2 => .f16
  | 3 => .e4m3
  | 4 => .e5m2
  | _ => .f32

/-- An FP32 value rounded to the activation format. -/
def roundAct (n x : Nat) : Nat :=
  (fpCvt (actFormat n) .f32 .rne false (fpCvt .f32 (actFormat n) .rne false x).1).1

/-- The state tiles rounded, where the crew holds the core's tiles (R131, R255). -/
def roundTiles (e : SeqEnv) (s : State) : State :=
  if e.c.actFmt = 0 || (coreOf s e.core).tileOwner ≠ some e.c.owner then s
  else e.c.stateTiles.foldl (fun s z => (List.range 64).foldl (fun s r =>
    setTileRow s e.core z r (((chunks 4 64 (tileRow s e.core z r)).map fun x => toBytes 4 (roundAct e.c.actFmt x)).flatten))
    s) s

/-- The beginning of a chunk: the last one is rounded and counted consumed, and the wait begins. DESIGN CHOICE (log 71):
the first chunk starts at the consumed count that stands in memory. -/
def beginFrames (e : SeqEnv) (s : State) : SeqDo Unit :=
  let fr := e.c.frames
  if fr.first then
    (seqRead e s ((e.c.countsAt + 8) % 2 ^ 64) 8).bind fun s bs =>
      .ok (modSeq s e.key fun c => { c with frames := ⟨BitVec.ofNat 64 (ofBytes bs), false⟩,
                                            regs := { c.regs with runSteps := 1 } }) ()
  else
    (seqRead e s ((e.c.countsAt + 8) % 2 ^ 64) 8).bind fun s bs =>
      (seqWrite e (roundTiles e s) ((e.c.countsAt + 8) % 2 ^ 64) (toBytes 8 (ofBytes bs + e.c.chunk))).bind fun s _ =>
        .ok (modSeq s e.key fun c => { c with frames := { fr with f0 := fr.f0 + BitVec.ofNat 64 e.c.chunk },
                                              regs := { c.regs with runSteps := 1 } }) ()

/-- The produced count: what it lets go, or none while the wait lasts. -/
def framesReady (c : SeqCtx) (x : Nat) : Option (Nat × Nat) :=
  let f0 := c.frames.f0.toNat
  let n := x % 2 ^ 63
  if bit x 63 || f0 + c.chunk + c.look ≤ n then
    let len := min c.chunk (n - f0)
    some (len, min c.look (n - f0 - len))
  else none

/-! ## One event of a context -/

/-- A run's evaluation is complete: what the loop does with it. -/
def afterEval (e : SeqEnv) (s : State) : SeqDo Unit :=
  match e.c.at_ with
  | .initEvent v => (readG e s v).bind fun s g =>
    let s := modSeq s e.key fun c => { c with
      events := c.events.set v { eventAt c v with gOld := BitVec.ofNat 64 g } }
    (match armedFrom e.c (v + 1) with
    | w :: _ => .ok (evalEvent e s (.initEvent w) w e.c.regs.t.toNat (eventAt e.c w).type.toNat) ()
    | [] => .ok (setAt s e.key .boundary) ())
  | .armed => (armDone e s).bind fun s _ => .ok (setAt s e.key .attempt) ()
  | .rhs i p =>
    if p = 0 && tabKind e.c.tableau = 2 then
      .ok (startEval e s (.rhs i 1) 1 i 0 0 (stageTime e.c i) (e.c.taskType 1)) ()
    else nextStage e s i
  | .newtonF i m => newtonResidual e s i m
  | .newtonS i m => newtonUpdate e s i m
  | .newtonX i => nextStage e s i
  | .endEvent v => eventDone e s v .endEvent beginLocate
  | .locate v => (readG e s v).bind fun s g =>
    let (a, _) := narrow (dLt 0 (eventAt e.c v).gOld.toNat) e.c.attempt g
    locateStep 5 { e with c := { e.c with attempt := a, regs := ((seqAt s e.key).map (·.regs)).getD e.c.regs } }
      (modAttempt s e.key fun _ => a) v
  | .again v => eventDone e s v .again commitStep
  | .outside => (armDone e s).bind fun s _ => .ok (seqDone s e.key) ()
  | .leaveArm word info f0 => (armDone e s).bind fun s _ => .ok (setAt s e.key (.leave word info f0)) ()
  | .frameArm => (armDone e s).bind fun s _ => .ok (setAt s e.key .frameBoundary) ()
  | _ => .ok s ()

/-- The registers that init sets (R119). -/
def initRegs (c : SeqCtx) (r : SeqRun) : SeqRun :=
  if r.initDone then r
  else { r with initDone := true, t := BitVec.ofNat 64 c.t0, h := BitVec.ofNat 64 (capStep c.tableau c.h0),
                clipped := false, steps := 0, rejects := 0, newtons := 0 }

/-- Nothing is in progress: what the context does next. DESIGN CHOICE (log 72): an arming whose evaluation at a step
boundary ended the run is still pending, and is evaluated once more before the return. -/
def seqBegin (e : SeqEnv) (s : State) : SeqDo Unit :=
  match e.c.at_ with
  | .start => (readY e s).bind fun s y =>
    let s := putTiles e s y
    if e.c.regs.initDone then .ok (setAt s e.key .boundary) ()
    else
      let s := modRun s e.key (initRegs e.c)
      (match armedFrom e.c 0 with
      | v :: _ => (writeWork e s 0 y).bind fun s _ =>
        .ok (evalEvent e s (.initEvent v) v e.c.t0 (eventAt e.c v).type.toNat) ()
      | [] => .ok (setAt s e.key .boundary) ())
  | .boundary =>
    if !dLt e.c.regs.t.toNat e.c.tEnd then .ok (endRunWith e s 0) ()
    else if !e.c.oneStep && e.c.maxSteps ≠ 0 && e.c.regs.runSteps = e.c.maxSteps then .ok (endRunWith e s 3) ()
    else match passBoundary e s with
      | none => .wait
      | some (s, go) =>
        .ok (if go then setAt (modSeq s e.key fun c => { c with shown := c.regs }) e.key .attempt else s) ()
  | .attempt => match e.c.pend with
    | a :: rest => applyArm e s a rest .armed
    | [] => beginStage e s 1
  | .leave word info f0 => match e.c.pend with
    | a :: rest => applyArm e s a rest (.leaveArm word info f0)
    | [] => .ok (seqReturn e s word info f0) ()
  | .frameBoundary => match e.c.pend with
    | a :: rest => applyArm e s a rest .frameArm
    | [] => .ok (setAt s e.key .frames) ()
  | .outside => match e.c.pend with
    | a :: rest => applyArm e s a rest .outside
    | [] => .ok (seqIdle s e.key) ()
  | _ => .ok s ()

/-- The step of a kind-3 context. Its first ODESTEP sets the registers of init, and armings that are pending at the
boundary are applied there (R124, R285). -/
def framesStep (e : SeqEnv) (s : State) : SeqDo Unit :=
  if e.c.regs.runSteps = 0 then
    match passBoundary e s with
    | none => .wait
    | some (s, go) =>
      if go then (beginFrames e (modRun s e.key (initRegs e.c))).bind fun s _ =>
        .ok (if e.c.pend = [] then s else setAt s e.key .frameBoundary) ()
      else .ok s ()
  else
    (seqRead e s e.c.countsAt 8).bind fun s bs =>
      match framesReady e.c (ofBytes bs) with
      | none => .wait
      | some (len, look) =>
        let word := if len = 0 then 0 else 5
        let s := modSeq s e.key fun c =>
          let r := if word = 0 then { c.regs with cause := 0 } else c.regs
          { c with state := 2, regs := r, shown := r }
        let info := len + look * 2 ^ 16
        .ok (if e.c.pend = [] then seqReturn e s word info e.c.frames.f0.toNat
          else setAt s e.key (.leave word info e.c.frames.f0.toNat)) ()

/-- District code 51 for an access of the sequencer that failed (R129). -/
def postAccess (e : SeqEnv) (s : State) (addr : Nat) : State :=
  postFault s e.dk { event := 2, code := 51, part := partOfCore e.core, core := e.core,
                     ctx := ((districtAt s e.dk).map (·.ctx)).getD 0, va := addr }

/-- An access of the sequencer has failed: the run or the arming ends (R124, R129). -/
def seqFail (e : SeqEnv) (s : State) (addr : Nat) : State :=
  let s := postAccess e s addr
  match e.c.at_ with
  | .outside => seqDone (armFail e s) e.key
  | .leave word info f0 | .leaveArm word info f0 => setAt (armFail e s) e.key (.leave word info f0)
  | .start | .frames => endRunWith e (modRun s e.key fun _ => initRegs e.c e.c.regs) 6
  | _ => endRunWith e (modRun s e.key fun r => { e.c.regs with nanEvent := r.nanEvent }) 6

/-- A query's own access has failed (R129): a run under way ends with cause 6, once the tasks of its evaluation have
ended (R114). -/
def queryFail (e : SeqEnv) (s : State) (addr : Nat) : State :=
  if e.c.state = 3 && e.c.eval.isNone then seqFail e s addr
  else
    let s := postAccess e s addr
    if e.c.state ≠ 3 then s
    else modSeq s e.key fun c => { c with eval := c.eval.map fun v => { v with access := true } }

/-- A task of the evaluation was ended by its fault domain or refused (R114, R124), or a query's access has failed
meanwhile (R129). -/
def evalFailed (e : SeqEnv) (s : State) (v : Eval) : State :=
  match e.c.at_ with
  | .outside => seqDone (armFail e s) e.key
  | .leaveArm word info f0 => setAt (armFail e s) e.key (.leave word info f0)
  | _ => endRunWith e s (if v.failed then 4 else 6)

/-- What accesses came to, as an event: none while a missing page stands reported already. -/
def settle (e : SeqEnv) (s : State) : SeqDo Unit → Option State
  | .ok s _ => some s
  | .miss p c ia fl => if missReported s p c ia then none else some (reportMiss s p c ia fl)
  | .wait => none
  | .fail s addr => some (seqFail e s addr)

def envOf (s : State) (k : Nat) : Option SeqEnv :=
  match seqAt s k with
  | none => none
  | some c => (crewAt s c.owner).map fun w => ⟨k, c, w⟩

/-- What a context can do now (R114, R119): none when nothing. -/
def seqStep (s : State) (k : Nat) : Option State :=
  match envOf s k with
  | none => none
  | some e =>
    if e.c.at_ = .idle || e.c.at_ = .frames || e.c.state = 4 || !partRuns s (partOfCore e.core) then none
    else match e.c.eval with
      | none => settle e s (seqBegin e s)
      | some v =>
        if v.ended < v.total then none
        else if v.failed || v.access then some (evalFailed e s v)
        else settle e s (afterEval { e with c := { e.c with eval := none } } (modSeq s k fun c => { c with eval := none }))

/-- What a kind-3 context can do now. -/
def frameStep (s : State) (k : Nat) : Option State :=
  match envOf s k with
  | none => none
  | some e =>
    if e.c.at_ ≠ .frames || e.c.state ≠ 3 || !partRuns s (partOfCore e.core) then none else settle e s (framesStep e s)

/-- The page that a context's next access lacks: its context identifier and intermediate address. -/
def seqHeldAt (s : State) (k : Nat) : Option (Nat × Nat) :=
  match envOf s k with
  | none => none
  | some e =>
    if e.c.at_ = .idle || e.c.state = 4 then none
    else
      let what := if e.c.at_ = .frames then framesStep e s
        else match e.c.eval with
        | none => seqBegin e s
        | some v => if v.ended < v.total then .wait else afterEval { e with c := { e.c with eval := none } } s
      match what with
      | .miss _ c ia _ => some (c, ia)
      | _ => none

/-- One task of the evaluation in progress goes to the stage queue, in increasing x, then y, then z (R114). -/
def stageAppend (s : State) (k : Nat) : Option State :=
  match envOf s k with
  | none => none
  | some e =>
    match e.c.eval, queueOf s e.dk e.c.queue with
    | some v, some q =>
      if v.total ≤ v.appended || queueFull q || !partRuns s (partOfCore e.core) then none
      else
        let (gx, gy) := (e.c.grid 0, e.c.grid 1)
        let j := v.appended
        let bs := taskBytes v.type (j % gx) (j / gx % gy) (j / (gx * gy)) (e.crew.task.depth + 1)
        let s := modSeq s k fun c => { c with eval := c.eval.map fun x => { x with appended := x.appended + 1 } }
        some (appendTask s e.dk e.c.queue bs ⟨none, some k⟩)
    | _, _ => none

/-- A task bound to a context has ended (R114). -/
def boundEnded (s : State) (k : Nat) (failed : Bool) : State :=
  modSeq s k fun c => { c with eval := c.eval.map fun v =>
    { v with ended := v.ended + 1, failed := v.failed || failed } }

/-- R114. -/
def execStageTaskAppend (ctx : Nat) (s : State) : Out :=
  if ctx < 1536 then .next ((stageAppend s ctx).getD s) else .fault .noSuchUnit

/-- R114, R119 to R126. -/
def execEvaluationComplete (ctx : Nat) (s : State) : Out :=
  if ctx < 1536 then .next ((seqStep s ctx).getD s) else .fault .noSuchUnit

/-- R131. -/
def execFrameChunkRelease (ctx : Nat) (s : State) : Out :=
  if ctx < 1536 then .next ((frameStep s ctx).getD s) else .fault .noSuchUnit

end Sys2Proof.Machine
end

