-- ==== Sys2Proof/Machine/SysFamily.lean ====
section
/-! DEFINITION. System registers, spawning, yielding, progress points, spans and traps (R286 to R300), and an
unassigned opcode (R168). -/

namespace Sys2Proof.Machine

/-! ## System registers (R297 to R300) -/

/-- SPANTOP (R289). -/
def spanTop (x : Spans) : Nat :=
  x.excess % 256 * 2 ^ 24 + (if x.overflow then 2 ^ 22 else 0) + (if x.mismatch then 2 ^ 21 else 0) +
    x.stack.length * 2 ^ 16 + (x.stack.headD 0).toNat

/-- Flags of the wave's operations that have not retired: MFSR returns those of every instruction before it (R87). -/
def flagsOnTheWay (s : State) (v : View) : W32 :=
  s.flights.foldl (fun m f => if f.2.core = v.core && f.2.slot = v.slot then m ||| f.2.flags else m) 0

/-- The value of system register `n` in lane `l`. -/
def sysReg (s : State) (v : View) (l n : Nat) : Nat :=
  let x := v.lane l
  match n with
  | 0x000 => l
  | 0x001 => v.wave.id.index
  | 0x002 => v.idCrew % 16
  | 0x003 => v.crew.rank
  | 0x004 => v.core
  | 0x005 => clusterOf v.core
  | 0x006 => v.crew.task.x.toNat
  | 0x007 => v.crew.task.y.toNat
  | 0x008 => v.crew.task.z.toNat
  | 0x009 => v.crew.task.depth
  | 0x00A => v.node
  | 0x00B => partOfCore v.core
  | 0x010 => (v.wave.regs.fpstat ||| flagsOnTheWay s v).toNat
  | 0x011 => x.abort.toNat
  | 0x012 => x.trap.cause.toNat
  | 0x013 => x.trap.addr.toNat
  | 0x014 => x.trap.pc.toNat
  | 0x015 => (x.trap.pred ||| 0x80).toNat
  | 0x016 => x.trap.win.toNat
  | 0x018 => spanTop v.wave.spans
  | 0x020 => v.cycles
  | 0x021 => (mrowpOf (coreOf s v.core)).toNat
  | 0x030 => v.wave.regs.check.toNat
  | 0x031 => replayMode s v.crew.district
  | _ => 0

/-- R298. -/
def execMfsr (h : Ctl) (f : GIF) (s : State) : Out :=
  .next (perLane (.mfsr h f) (fun v l => outReg f.dst (1 + f.isel.toNat) (sysReg s v l f.imm.toNat)) s)

/-- A write to a per-lane register (R297, R238). DESIGN CHOICE (log 67): the rsv bits of FAULTCAUSE keep and return
what was written. -/
def setLaneReg (x : Lane) (n y : Nat) : Lane :=
  match n with
  | 0x011 => { x with abort := BitVec.ofNat 32 (y % 2 ^ 21) }
  | 0x012 => { x with trap := { x.trap with cause := BitVec.ofNat 32 y } }
  | 0x013 => { x with trap := { x.trap with addr := BitVec.ofNat 64 y } }
  | 0x014 => { x with trap := { x.trap with pc := BitVec.ofNat 64 y } }
  | 0x015 => { x with trap := { x.trap with pred := BitVec.ofNat 32 (y % 128 + 128) } }
  | 0x016 => { x with trap := { x.trap with win := BitVec.ofNat 32 y } }
  | _ => x

/-- A write to a per-wave register (R87, R299). -/
def setWaveReg (w : Wave) (n y : Nat) : Wave :=
  match n with
  | 0x010 => { w with regs := { w.regs with fpstat := BitVec.ofNat 32 (y % 32) } }
  | 0x030 => { w with regs := { w.regs with check := BitVec.ofNat 32 (y % 2) } }
  | _ => w

/-- R298: the new value applies before any later instruction of the wave issues. -/
def execMtsr (h : Ctl) (f : GIF) (s : State) : Out :=
  match shape (.mtsr h f) with
  | none => .next s
  | some sh =>
    let v := viewOf h s
    let (_, s) := newFlight h v 1 s
    let ok := v.act.filter fun l => windowOk sh v.wave.id.allot (v.win l) (v.win l)
    let bad := v.act.filter fun l => !windowOk sh v.wave.id.allot (v.win l) (v.win l)
    let n := f.imm.toNat
    let value := fun l => v.opd l f.a (1 + f.isel.toNat)
    let s := modWave s v.core v.slot fun w =>
      let w := ok.foldl (fun w l => modLane w l fun x => setLaneReg x n (value l)) w
      match ok with
      | [] => w
      | l :: _ => setWaveReg w n (value l)
    .next (takeFaults s v.core v.slot v.pc (bad.map fun l => (l, faultWindow)))

/-- R300: the count of the clock of issue. -/
def execRdcyc (h : Ctl) (f : GF) (s : State) : Out :=
  match shape (.rdcyc h f) with
  | none => .next s
  | some sh =>
    let v := viewOf h s
    .next (commitVar h 1 v (onceRes sh v fun _ => outReg f.dst 2 v.cycles) s)

/-! ## Tasks (R286 to R288) -/

/-- One lane of a `spawn`. -/
def spawnLane (sh : Shape) (v : View) (f : GF) (a : LaneRun) (l : Nat) : LaneRun :=
  let fault := a.fault l
  if !windowOk sh v.wave.id.allot (v.win l) (v.win l) then fault faultWindow
  else
    let va := v.opd l f.a 1
    let vb := wordsOf 4 (v.opd l f.b 4)
    let w := fun i => (vb.getD i 0).toNat
    let d := v.crew.district
    let res := fun (s : State) (x : Nat) =>
      { a with s := s, ws := a.ws ++ allWrites v (a.first l) [(l, { wr := [⟨f.dst, 1, x⟩] })] }.leads l
    if va ≥ 65536 || va % 65536 ≥ typeCount a.s d || w 3 ≥ 16 then fault { cause := 8 }
    else if v.crew.task.depth ≥ 8 then fault { cause := 20 }
    else match queueOf a.s d (w 3) with
      | none => res a.s 2
      | some q =>
        if queueFull q then res a.s 1
        else res (appendTask a.s d (w 3) (taskBytes va (w 0) (w 1) (w 2) (v.crew.task.depth + 1)) ⟨none, none⟩) 0

/-- R286: each record is a release at `.device`. -/
def execSpawn (h : Ctl) (f : GF) (s : State) : Out :=
  match shape (.spawn h f) with
  | none => .next s
  | some sh =>
    let (v, s) := refuseTx 7 (viewOf h s) s
    let (v, wait) := splitRelease true (fun _ => false) v s
    let (n, s) := newFlight h v 1 s
    let s := if v.act = [] then s else releaseWrites s v.core 4 []
    let a := v.act.foldl (spawnLane sh v f) { s := s, ws := [], faults := [], lead := v.lead }
    .next (a.finish (.spawn h f) v n wait)

/-- The record of a `yieldpt` (R287, R419). -/
def yieldRecord (core slot : Nat) (evicted : Bool) : RRec :=
  { kind := 7, check := if evicted then 1 else 0, core := core, slot := slot, lane := 0xFF, detail := 0, object := 0,
    second := 0 }

/-- R287: a blocking point, at which the wave stays while its crew is asked to yield. In replay the record says
whether it does (R422). -/
def execYieldpt (h : Ctl) (f : GF) (s : State) : Out :=
  let (v, s) := refuseTx 8 (viewOf h s) s
  let (n, s) := newFlight h v 1 s
  let d := v.crew.district
  let r := yieldRecord v.core v.slot false
  if v.act = [] then .next s
  else match replayGate s d r with
    | .stall => .next (deferLanes (.yieldpt h f) v n none .replay v.act s)
    | _ =>
      let replaying := replayMode s d = 2
      let logged := ofBytes (((rrecAt s d (replayTail s d)).drop 6).take 2)
      let stay := if replaying then logged = 1 else v.crew.yieldAsked
      if stay then
        let s := if replaying then modCrew s v.wave.id.crew fun c => { c with yieldAsked := true } else s
        .next (waitLanes s v n (fun _ => .yieldpt false) v.act)
      else .next (replayLog s d r).1

/-- R288: a `ppt` counts once; its wave was held before it issued for the inserted delay that it owed (R416). -/
def execPpt (h : Ctl) (f : GF) (s : State) : Out :=
  let v := viewOf h s
  let (_, s) := newFlight h v 1 s
  if v.act = [] then .next s
  else .next (modDebug s v.crew.district fun y =>
    { y with counters := mset y.counters f.sub.toNat ((mget y.counters f.sub.toNat).getD 0 + 1) })

/-! ## Spans (R289, R409, R410, R416) -/

/-- `spanin`. -/
def spanPush (x : Spans) (id : W16) : Spans :=
  if x.stack.length < 16 then { x with stack := id :: x.stack }
  else if x.excess < 255 then { x with excess := x.excess + 1 }
  else { x with overflow := true }

/-- `spanout`. -/
def spanPop (x : Spans) (id : W16) : Spans :=
  if x.excess > 0 then { x with excess := x.excess - 1 }
  else match x.stack with
    | [] => { x with mismatch := true }
    | t :: r => { x with stack := r, mismatch := x.mismatch || t ≠ id }

/-- This `spanout` sets the mismatch bit. -/
def spanMisses (x : Spans) (id : W16) : Bool := x.excess = 0 && (x.stack.head? ≠ some id)

/-- The trace record of a span edge. -/
def spanRecord (v : View) (entry : Bool) (id : Nat) (lanes : List Nat) (stop miss : Bool) : TraceRec :=
  { kind := if entry then 1 else 2, id := id, core := v.core, slot := v.slot,
    flags := (if stop then 1 else 0) + (if miss then 2 else 0), lanes := maskOf lanes, value := v.pc.toNat,
    cycles := v.cycles }

/-- A span edge: the debug stop, or the edge's record and effect. -/
def spanEdge (h : Ctl) (entry : Bool) (imm : W32) (s : State) : State :=
  let v := viewOf h s
  let id := imm.toNat % 65536
  let d := v.crew.district
  if v.act = [] then s
  else
    let t := ((districtAt s d).map (·.dbg.trace)).getD ⟨0, 0, 0, [], false, 0, 0, 0⟩
    let stops := debugEnabled s d && spanMatch t id (if entry then 18 else 19)
    let stop := if stops then v.act.filter fun l => !(v.lane l).skipSpan else []
    let go := v.act.filter fun l => !stop.contains l
    let s := if stop = [] then s
      else takeFaults (traceRec s d (spanRecord v entry id stop true false)) v.core v.slot v.pc
        (stop.map fun l => (l, { cause := 24 }))
    if go = [] then s
    else
      let miss := !entry && spanMisses v.wave.spans (BitVec.ofNat 16 id)
      let s := if t.recordAll || spanMatch t id (if entry then 16 else 17) then
        traceRec s d (spanRecord v entry id go false miss) else s
      let c := ((districtAt s d).map (·.dbg.causal)).getD ⟨0, 0, 0, 0⟩
      let visit := !entry && c.span.toNat = id && id ≠ 0 && v.wave.spans.excess = 0
      let s := if visit then modDebug s d fun y => { y with causal := { y.causal with
          visits := y.causal.visits + 1, owed := y.causal.owed + y.causal.delay } } else s
      modWave s v.core v.slot fun w =>
        let w := { w with spans := (if entry then spanPush else spanPop) w.spans (BitVec.ofNat 16 id) }
        let w := if visit then modSched w fun q => { q with paid := q.paid + c.delay } else w
        go.foldl (fun w l => modLane w l fun x => { x with skipSpan := false }) w

/-- R289. -/
def execSpanin (h : Ctl) (f : GIF) (s : State) : Out := .next (spanEdge h true f.imm s)

/-- R289. -/
def execSpanout (h : Ctl) (f : GIF) (s : State) : Out := .next (spanEdge h false f.imm s)

/-! ## Traps (R290 to R292) -/

/-- R290: TRAPPC receives the PC of the next instruction (R291). -/
def execBrk (h : Ctl) (f : GF) (s : State) : Out :=
  let v := viewOf h s
  let (_, s) := newFlight h v 1 s
  if debugEnabled s v.crew.district then
    .next (takeFaults s v.core v.slot v.next (v.act.map fun l => (l, { cause := 22, info := f.sub.toNat })))
  else .next s

/-- R291. -/
def execTrap (h : Ctl) (f : GIF) (s : State) : Out :=
  let v := viewOf h s
  let (_, s) := newFlight h v 1 s
  .next (takeFaults s v.core v.slot v.next (v.act.map fun l => (l, { cause := 23, info := f.imm.toNat % 256 })))

/-- R292. -/
def execSret (h : Ctl) (_f : GF) (s : State) : Out :=
  let v := viewOf h s
  let win := fun l => (v.lane l).trap.win.toNat
  let bad := v.act.filter fun l => win l % 8 ≠ 0 || win l ≥ v.wave.id.allot
  let good := v.act.filter fun l => !bad.contains l
  let s := modWave s v.core v.slot fun w => good.foldl trapReturn w
  .next (takeFaults s v.core v.slot v.pc (bad.map fun l => (l, faultWindow)))

/-! ## Words that are no instruction -/

/-- R164, R168: reason 3 in every fibre of the convoy, whatever the guard. -/
def execUnassignedOpcode (_w : BitVec 80) (s : State) : Out :=
  let i := s.cur
  match waveAt s i.core i.slot with
  | none => .next s
  | some w =>
    let ls := (lanesOf i.lanes.toNat).filter fun l => (mget w.fibres l).isSome
    .next (takeFaults s i.core i.slot (i.clause + BitVec.ofNat 64 i.index) (ls.map fun l => (l, faultIllegal 3)))

end Sys2Proof.Machine
end

