-- ==== Sys2Proof/Machine/Crews.lean ====
section
/-! DEFINITION. How crews end and post (R16, R34, R42 to R45), launches and their dependants (R44, R350, R351), and
notifications (R361). -/

namespace Sys2Proof.Machine

/-! ## Crews and what they hold -/

def keyCore (k : Nat) : Nat := k / 16

/-- The waves of a resident crew with their slots, those evicted alone included. -/
def crewWaves (s : State) (k : Nat) : List (Nat × Wave) :=
  (s.waves.filter fun e => wkCore e.1 = keyCore k && e.2.id.crew = k).map fun e => (wkSlot e.1, e.2)

/-- Operations of a crew that its core has accepted. -/
def crewOps (s : State) (k : Nat) : List EngineOp := (coreOf s (keyCore k)).ops.filter fun o => o.crew = k && o.saved = none

/-- Nothing of the crew is in flight (R16, R43, R273): its waves have ended, and its operations are over. A crew ended
by its fault domain does not wait for its stores. -/
def crewQuiet (s : State) (k : Nat) (c : Crew) : Bool :=
  let core := keyCore k
  let ws := crewWaves s k
  let mine := fun (r : MemReq) => r.core = core && ws.any fun w => w.1 = r.slot
  ws.all (·.2.ended) && crewOps s k = [] &&
  !(s.flights.any fun f => f.2.core = core && ws.any fun w => w.1 = f.2.slot) &&
  (c.endKind = 2 || (!(s.cores.any fun x => x.2.log.any fun h => mine h.req) && !(s.fabric.writes.any fun w => mine w.2.req)))

/-! ## Launches (R350, R351) -/

def modLaunch (s : State) (k : Nat) (f : Launch → Launch) : State := { s with launches := mmod s.launches k f }

/-- A count of a map falls by one, and goes at 0. -/
def countDown (m : List (Nat × Nat)) (i : Nat) : List (Nat × Nat) :=
  match mget m i with
  | some n => if n ≤ 1 then mdel m i else mset m i (n - 1)
  | none => m

def queueAt (s : State) (k : Nat) : Option HostQueue := mget s.queues k
def modHost (s : State) (k : Nat) (f : HostQueue → HostQueue) : State := { s with queues := mmod s.queues k f }

/-- A launch whose records have all been placed and posted, or refused, completes; it goes when nothing can wait on it. -/
def launchCheck (s : State) (k : Nat) : State :=
  match mget s.launches k with
  | none => s
  | some l =>
    if l.appended < l.total || l.undone ≠ [] then s
    else
      let s := if l.complete then s
        else modHost (modLaunch s k fun l => { l with complete := true }) l.key fun q => { q with
          done := q.done ++ [⟨l.n, 1, if l.refused then 5 else 0, min l.endedByDomain 0xFFFF, 0, l.interrupt⟩] }
      if l.unseen = [] then { s with launches := mdel s.launches k } else s

/-- A crew of a launch's task has posted. -/
def launchPosted (s : State) (r : LaunchRef) (domain : Bool) : State :=
  launchCheck (modLaunch s r.launch fun l => { l with
    undone := countDown l.undone r.task,
    endedByDomain := if domain then l.endedByDomain + 1 else l.endedByDomain }) r.launch

/-- A supervisor core has acted on the record of a crew of a task (R44). -/
def launchSeen (s : State) (r : LaunchRef) : State :=
  launchCheck (modLaunch s r.launch fun l => { l with unseen := countDown l.unseen r.task }) r.launch

/-- A record of a launch was refused (R27). -/
def launchRefused (s : State) (r : LaunchRef) : State :=
  launchCheck (modLaunch s r.launch fun l => { l with
    refused := true, undone := mdel l.undone r.task, unseen := mdel l.unseen r.task }) r.launch

/-! ## Freeing a crew -/

/-- Requests of a crew's lanes that are still on their way get another name. -/
def renameReq (core : Nat) (slots : List Nat) (f : Nat → Nat × Nat) (r : MemReq) : MemReq :=
  if r.core = core && slots.contains r.slot then { r with core := (f r.slot).1, slot := (f r.slot).2 } else r

def renameReqs (s : State) (core : Nat) (slots : List Nat) (f : Nat → Nat × Nat) : State :=
  let held := fun (h : Held) => { h with req := renameReq core slots f h.req }
  { s with
    cores := s.cores.map fun c => (c.1, { c.2 with log := c.2.log.map held, held := c.2.held.map held }),
    fabric := { s.fabric with writes := s.fabric.writes.map fun w => (w.1, { w.2 with req := renameReq core slots f w.2.req }) } }

/-- Tasks bound to context `q` are bound to another (R114), or to none. -/
def rebind (s : State) (q : Nat) (n : Option Nat) : State :=
  let f := fun (b : Option Nat) => if b = some q then n else b
  { s with
    crews := s.crews.map fun e => (e.1, { e.2 with binding := f e.2.binding }),
    saved := s.saved.map fun e => (e.1, { e.2 with crew := { e.2.crew with binding := f e.2.crew.binding } }),
    districts := s.districts.map fun e => (e.1, { e.2 with queues := e.2.queues.map fun x =>
      (x.1, { x.2 with waiting := x.2.waiting.map fun t => { t with binding := f t.binding } }) }) }

/-- A context is free again; what is left of its evaluation is bound to nothing. -/
def freeSeq (s : State) (q : Option Nat) : State :=
  match q with
  | some q => { rebind s q none with seqs := mdel s.seqs q }
  | none => s

/-- The scratchpad and operand-buffer bytes of a crew slot. -/
def clearGrants (s : State) (k : Nat) : State :=
  let a := scratchPlace (keyCore k) (k % 16 * 2 ^ 19)
  let b := obPlace (keyCore k) (k % 16 * 2 ^ 18)
  { s with mem := { s.mem with
      bytes := mfilter (fun i => i < a || a + 2 ^ 19 ≤ i) s.mem.bytes,
      ob := mfilter (fun i => i < b || b + 2 ^ 18 ≤ i) s.mem.ob } }

/-- The crew's tile claim lapses, and waves that wait for the tiles go on (R255, R273). -/
def freeTiles_ (s : State) (k : Nat) : State :=
  if (coreOf s (keyCore k)).tileOwner = some k then
    wakeDeferred (fun w => w == .tile) (modCore s (keyCore k) fun c => { c with tileOwner := none })
  else s

/-- The agents of a crew that will issue nothing more (R423). -/
def noteGone (s : State) (k : Nat) (c : Crew) : State :=
  let slots := ((crewWaves s k).map Prod.fst).filter (· < 64)
  let seq := match c.seqCtx with
    | some q => [(0x8000 + q / 8, q % 8)]
    | none => []
  modDistrict s c.district fun d => { d with replay := { d.replay with
    goneSlots := d.replay.goneSlots ++ slots.map (fun j => (keyCore k, j)) ++ seq,
    goneCrews := d.replay.goneCrews ++ [(keyCore k, k % 16)] } }

/-- The last member of a gang, or a crew without one, has ended: the task has ended (R114). -/
def taskOver (s : State) (c : Crew) : Bool :=
  match c.gang with
  | none => true
  | some g => !(s.crews.any fun e => e.2.gang = some g) && !(s.saved.any fun e => e.2.crew.gang = some g)

/-- The task's bound context learns that it has ended (R114). -/
def endBinding (s : State) (c : Crew) (failed : Bool) : State :=
  match c.binding with
  | some q =>
    if taskOver s c then boundEnded s q failed
    else if failed then modSeq s q fun x => { x with eval := x.eval.map fun v => { v with failed := true } } else s
  | none => s

/-- The crew's slots, grants, tiles and context are free. -/
def freeCrew (s : State) (k : Nat) : State :=
  match crewAt s k with
  | none => s
  | some c =>
    let s := noteGone s k c
    let slots := (crewWaves s k).map Prod.fst
    let s := renameReqs s (keyCore k) slots fun _ => (noCore, 0)
    let s := freeTiles_ (clearGrants s k) k
    let s := freeSeq s c.seqCtx
    let s := { s with
      crews := mdel s.crews k,
      waves := s.waves.filter fun e => !(wkCore e.1 = keyCore k && e.2.id.crew = k) }
    endBinding s c (c.endKind = 2)

/-! ## Posting (R45) -/

/-- R45: the district's oldest record is written, its core is notified, and its crew or copy is over. -/
def execCompletionRecordPost (district : Nat) (s : State) : Out :=
  match districtAt s district with
  | none => .next s
  | some d =>
    if !canPost d then .next s
    else match d.evWaiting with
    | [] => .next s
    | e :: rest =>
      let q := eventQueue d
      let at_ := (q.1 + 16 * (d.evPosted % q.2)) % 2 ^ 64
      let s := writeFor s district at_ e.bytes
      let s := modDistrict s district fun x => { x with evWaiting := rest, evPosted := x.evPosted + 1 }
      let s := notify s e.core (noticeBytes 3 0 0 d.evPosted)
      let s := modCore s e.core fun c => { c with acts := c.acts ++ [(district, e)] }
      if e.kind = 1 then .next (modFlight s e.flight fun f => { f with waits := 0 })
      else
        let s := freeCrew s e.crew
        .next (match e.launch with
          | some r => launchPosted s r (e.kind = 2)
          | none => s)

/-- R361: the oldest waiting notification enters the ring. -/
def execNotificationPost (core : Nat) (s : State) : Out :=
  if core ≥ 768 then .fault .noSuchUnit else .next (modCore s core fun c => { c with notices := ringMove c.notices })

/-- The kind of the entry at a position of the ring. -/
def ringKind (r : Ring) (j : Nat) : Nat :=
  match mget r.slots (j % 64) with
  | some bs => (bs.headD 0).toNat
  | none => 0

/-- The supervisor core has acted on its oldest record: dependants may go, and the record counts as consumed. -/
def actOldest (s : State) (core : Nat) : State :=
  match (coreOf s core).acts with
  | [] => s
  | (d, e) :: r =>
    let s := modCore s core fun c => { c with acts := r }
    let s := modDistrict s d fun x => { x with evConsumed := x.evConsumed + 1 }
    match e.launch with
    | some l => launchSeen s l
    | none => s

/-- The head moves over `n` entries from `j`; a record among them has been acted on first (R45). -/
def passEntries (core : Nat) : Nat → Nat → State → State
  | 0, _, s => s
  | n + 1, j, s =>
    let s := if ringKind (coreOf s core).notices j = 3 then actOldest s core else s
    passEntries core n (j + 1) s

/-- The supervisor core writes its ring head (R361); a value outside the entries of the ring has no effect. -/
def setNoticeHead (s : State) (core value : Nat) : State :=
  let r := (coreOf s core).notices
  let n := (value + 2 ^ 64 - r.head) % 2 ^ 64
  if n ≤ (r.tail + 2 ^ 64 - r.head) % 2 ^ 64 then
    modCore (passEntries core n r.head s) core fun c => { c with notices := { c.notices with head := value } }
  else s

def execNotificationRingHeadWrite (core : Nat) (value : W64) (s : State) : Out :=
  if core ≥ 768 then .fault .noSuchUnit else .next (setNoticeHead s core value.toNat)

/-- The record at the ring head is a completion record. -/
def actReady (s : State) (core : Nat) : Bool :=
  let r := (coreOf s core).notices
  r.head ≠ r.tail && ringKind r r.head = 3

/-- R44, R45: the record at the ring head is acted on, and the head moves past it. -/
def execDependantRelease (core : Nat) (s : State) : Out :=
  if core ≥ 768 then .fault .noSuchUnit
  else if actReady s core then .next (setNoticeHead s core (((coreOf s core).notices.head + 1) % 2 ^ 64))
  else .next s

/-! ## Fault domains (R34) -/

/-- Every fibre of a wave ends as by `quit`; what its lanes waited for is over. -/
def endWaveFibres (s : State) (core slot : Nat) : State :=
  match waveAt s core slot with
  | none => s
  | some w =>
    let s := w.fibres.foldl (fun s e => if e.2.flight = 0 then s else flightLaneDone s e.2.flight e.1) s
    let s := modCore s core fun c => { c with held := c.held.filter fun h => !(h.req.core = core && h.req.slot = slot) }
    quitLanes s core slot (w.fibres.head?.map (·.2.pc) |>.getD 0) (w.fibres.map Prod.fst)

/-- The crews that end with crew `k`: the members of its gang. -/
def gangKeys (s : State) (k : Nat) : List Nat :=
  match crewAt s k with
  | none => []
  | some c => match c.gang with
    | none => [k]
    | some g => (s.crews.filter fun e => e.2.gang = some g).map Prod.fst

/-- The fault domain ends a crew and its gang; each posts a kind-2 record with this status. -/
def endByDomain (s : State) (k status : Nat) : State :=
  (gangKeys s k).foldl (fun s k =>
    match crewAt s k with
    | none => s
    | some c =>
      if c.ending then s
      else
        let s := modCrew s k fun c => { c with endKind := 2, endStatus := status % 1024 }
        ((crewWaves s k).map Prod.fst).foldl (fun s j => endWaveFibres s (keyCore k) j) s) s

/-- Lanes of a wave in an image quit: their slots empty and their bits in k0 to k11 clear at once (R16). -/
def quitImage (w : Wave) (ls : List Nat) : Wave :=
  let w := (List.range 12).foldl (fun w k =>
    landWrite w (.k k) (rget w.regs.k k &&& ~~~ BitVec.ofNat 32 (maskOf ls))) w
  let w := ls.foldl emptyLane w
  { w with ended := w.fibres = [] }

/-- What the lanes of a saved crew's waves waited for is over. -/
def forgetLanes (s : State) (n i : Nat) (ls : List Nat) : State :=
  let mine := fun (r : MemReq) => r.core = 1024 + n && r.slot = i && ls.contains r.lane
  let s := { s with cores := s.cores.map fun c => (c.1, { c.2 with held := c.2.held.filter fun h => !mine h.req }) }
  match (mget s.saved n).bind fun x => mget x.waves i with
  | none => s
  | some w => ls.foldl (fun s l => match mget w.fibres l with
    | some f => if f.flight = 0 then s else flightLaneDone s f.flight l
    | none => s) s

/-- Lanes of a wave in an image end. -/
def quitSaved (s : State) (n i : Nat) (ls : List Nat) : State :=
  modSaved (forgetLanes s n i ls) n fun x => { x with waves := mmod x.waves i fun w => quitImage w ls }

/-- The fault domain ends a saved crew: each of its fibres ends, and its suspended loads go with its tiles. Its last
QUIT is deferred as that of a resident crew is (R16, R34). -/
def endSaved (s : State) (n status : Nat) : State :=
  match mget s.saved n with
  | none => s
  | some x =>
    let s := x.waves.foldl (fun s w => quitSaved s n w.1 (w.2.fibres.map Prod.fst)) s
    modSaved s n fun y => { y with ops := [], crew := { y.crew with endKind := 2, endStatus := status % 1024 } }

/-- An operation that a saved crew has left behind on its core is in flight (R374). -/
def opsInFlight (s : State) (n : Nat) : Bool := s.cores.any fun c => c.2.ops.any fun o => o.saved = some n

/-- A saved crew has ended, and nothing of it is in flight. -/
def savedOver (s : State) (n : Nat) (x : Saved) : Bool :=
  let mine := fun (r : MemReq) => r.core = 1024 + n
  x.waves.all (fun w => w.2.fibres = []) && !opsInFlight s n &&
  (x.crew.endKind = 2 || (!(s.cores.any fun c => c.2.log.any fun h => mine h.req) && !(s.fabric.writes.any fun w => mine w.2.req)))

/-- It posts its record, and its image goes. -/
def savedEnd (s : State) (n : Nat) : State :=
  match mget s.saved n with
  | none => s
  | some x =>
    if !savedOver s n x then s
    else
      let c := x.crew
      let s := freeSeq { s with saved := mdel s.saved n, flights := s.flights.filter fun f => f.2.core ≠ 1024 + n } x.seq
      let s := queueRecord s c.district
        ⟨completionBytes c.task c.endKind c.rank c.endStatus, c.dispatcher, c.launch, c.endKind, noCore, 0⟩
      endBinding s c (c.endKind = 2)

/-- The saved members of a crew's gang. -/
def savedGang (s : State) (n : Nat) : List Nat :=
  match mget s.saved n with
  | none => []
  | some x => match x.crew.gang with
    | none => [n]
    | some g => (s.saved.filter fun e => e.2.crew.gang = some g).map Prod.fst

/-- R34: the firmware ends a crew at its own decision. Numbers from 12,288 name saved crews. -/
def execFaultDomainEndCrew (crew : Nat) (s : State) : Out :=
  if crew < 768 * 16 then .next (endByDomain s crew 0)
  else .next ((savedGang s (crew - 768 * 16)).foldl (fun s n => endSaved s n 0) s)

/-- R16, R42: the crew's record is ready to post. Numbers from 12,288 name saved crews. -/
def execCrewEnd (crew : Nat) (s : State) : Out :=
  if crew ≥ 768 * 16 then .next (savedEnd s (crew - 768 * 16))
  else match crewAt s crew with
  | none => .next s
  | some c =>
    if c.ending || !crewQuiet s crew c then .next s
    else
      let s := if c.endKind = 0 then releaseWrites s (keyCore crew) 4 [] else s
      let s := modCrew s crew fun c => { c with ending := true }
      .next (queueRecord s c.district
        ⟨completionBytes c.task c.endKind c.rank c.endStatus, c.dispatcher, c.launch, c.endKind, crew, 0⟩)

/-! ## The command register (R362) -/

/-- Lanes that a command names: none for a word with a reserved bit or another action. -/
def cmdLanes (action : Nat) (cmd : W64) : List Nat :=
  let x := cmd.toNat
  if field x 0 4 = action && field x 10 6 = 0 && field x 48 16 = 0 then lanesOf (field x 16 32) else []
def cmdSlot (cmd : W64) : Nat := field cmd.toNat 4 6

/-- Lanes of a wave that are parked. -/
def parkedOf (w : Wave) (ls : List Nat) : List Nat :=
  ls.filter fun l => match mget w.fibres l with
    | some f => f.wait == .parked
    | none => false

/-- Where the named parked lanes stand: in the slot, evicted alone, or in the image of the crew that left it (R293,
R372, R373). -/
def parkedFind (s : State) (core slot : Nat) (ls : List Nat) : Option (SvcAt × Wave) :=
  waveFind s core slot fun w => parkedOf w ls ≠ []

/-- A command on parked lanes. -/
def commandParked (action core : Nat) (cmd : W64) (f : Wave → Nat → Wave) (s : State) : Out :=
  if core ≥ 768 then .fault .noSuchUnit
  else match parkedFind s core (cmdSlot cmd) (cmdLanes action cmd) with
    | none => .next s
    | some (a, _) => .next (modSvc s core a fun w => (parkedOf w (cmdLanes action cmd)).foldl f w)

/-- R294, R362: action 1. A debug stop is not taken again at once (R410). -/
def execResumeAtTrappc (core : Nat) (cmd : W64) (s : State) : Out :=
  commandParked 1 core cmd (fun w l =>
    modLane (resumeTrap w l) l fun x => { x with skipSpan := x.trap.cause.toNat % 64 = 24 }) s

/-- R294, R362: action 2. -/
def execResumeAtResumePc (core : Nat) (cmd : W64) (s : State) : Out := commandParked 2 core cmd resumeAt s

/-- R294, R362: action 3. -/
def execEndFibre (core : Nat) (cmd : W64) (s : State) : Out :=
  if core ≥ 768 then .fault .noSuchUnit
  else match parkedFind s core (cmdSlot cmd) (cmdLanes 3 cmd) with
    | none => .next s
    | some (at_, w) =>
      let ls := parkedOf w (cmdLanes 3 cmd)
      .next (match at_ with
        | .live j => quitLanes s core j (((mget w.fibres (ls.headD 0)).map (·.pc)).getD 0) ls
        | .image n i => quitSaved s n i ls)

/-- R34, R362: action 4. -/
def execPassToFaultDomain (core : Nat) (cmd : W64) (s : State) : Out :=
  if core ≥ 768 then .fault .noSuchUnit
  else
    let slot := cmdSlot cmd
    match parkedFind s core slot (cmdLanes 4 cmd) with
    | some (at_, w) =>
      let ls := parkedOf w (cmdLanes 4 cmd)
      let l := ls.headD 0
      let d := svcDistrict s core at_
      let t := (laneAt w l).trap
      let ctx := ((districtAt s d).map (·.ctx)).getD 0
      let s := postFault s d
        { event := 1, code := t.cause.toNat % 64, part := partOfCore core, core := core, slot := slot,
          lanes := maskOf ls, ctx := ctx, va := t.addr.toNat }
      match at_ with
      | .live _ => .next (endByDomain s w.id.crew t.cause.toNat)
      | .image n _ => .next ((savedGang s n).foldl (fun s n => endSaved s n t.cause.toNat) s)
    | none => .next s

/-- R249, R362: action 5, with the reply that the core has written for the lane; a wave evicted since is reached through
the slot it left. -/
def execPostServiceReply (core : Nat) (cmd : W64) (s : State) : Out :=
  if core ≥ 768 then .fault .noSuchUnit
  else
    .next ((cmdLanes 5 cmd).foldl (fun s l =>
      match svcFind s false core (cmdSlot cmd) l with
      | some (_, w) => svcComplete s false core (cmdSlot cmd) l (laneAt w l).svc.reply
      | none => s) s)

end Sys2Proof.Machine
end

