-- ==== Sys2Proof/Machine/Placement.lean ====
section
/-! DEFINITION. Placement (R14, R26 to R33, R324, R366 to R370, R438): footprints, budgets, passes, promotion, yield
requests, and the restore of saved crews (R37, R367, R372 to R374). -/

namespace Sys2Proof.Machine

/-! ## What cores hold (R16, R26) -/

/-- Something of a wave slot's is still on its way. -/
def slotBusy (s : State) (core slot : Nat) : Bool :=
  let mine := fun (r : MemReq) => r.core = core && r.slot = slot
  s.flights.any (fun f => f.2.core = core && f.2.slot = slot) ||
  s.cores.any (fun x => x.2.log.any (fun h => mine h.req) || x.2.held.any fun h => mine h.req) ||
  s.fabric.writes.any fun w => mine w.2.req

/-- R16: an ended wave has given up its slot and registers, unless its crew's last QUIT is deferred. -/
def slotGivenUp (s : State) (core slot : Nat) (w : Wave) : Bool :=
  w.ended && !slotBusy s core slot && !(crewWaves s w.id.crew).all (·.2.ended)

/-- Waves that hold a slot of a core. -/
def slotWaves (s : State) (core : Nat) : List (Nat × Wave) :=
  (s.waves.filter fun e => wkCore e.1 = core && wkSlot e.1 < 64 && !slotGivenUp s core (wkSlot e.1) e.2).map
    fun e => (wkSlot e.1, e.2)

/-- Registers per lane of a wave: its allotment, and the queue window of a compute wave that has one (R25). -/
def waveRegs (w : Wave) : Nat := w.id.allot + (if w.id.pair.isSome && !w.id.lantern then 8 else 0)
def sumOf {α : Type} (f : α → Nat) (l : List α) : Nat := l.foldl (fun m x => m + f x) 0
def freeWaveSlots (s : State) (core : Nat) : List Nat :=
  let held := (slotWaves s core).map Prod.fst
  (List.range 64).filter fun j => !held.contains j
def freeCrewSlots (s : State) (core : Nat) : List Nat :=
  (List.range 16).filter fun j => (crewAt s (ckey core j)).isNone
def coreCrews (s : State) (core : Nat) : List (Nat × Crew) := s.crews.filter fun e => keyCore e.1 = core
/-- Free contexts of a cluster, lowest first (R132). -/
def freeContexts (s : State) (cluster : Nat) : List Nat :=
  ((List.range 8).map (cluster * 8 + ·)).filter fun k => (mget s.seqs k).isNone

/-- Insertion sort: an element goes before the first that it is not behind. -/
def insertBy {α : Type} (le : α → α → Bool) (x : α) : List α → List α
  | [] => [x]
  | y :: r => if le x y then x :: y :: r else y :: insertBy le x r
def sortBy {α : Type} (le : α → α → Bool) : List α → List α
  | [] => []
  | x :: r => insertBy le x (sortBy le r)

/-- What a candidate needs of a core. -/
structure Need where
  regs : Nat
  waves : Nat
  scratch : Nat
  ob : Nat
  tiles : Bool := false
  /-- sequencer contexts of the cluster, those of gang members placed before it included -/
  contexts : Nat := 0
  deriving DecidableEq, Repr

/-- R26, R28, R255, R132. -/
def coreFits (s : State) (x : Need) (core : Nat) : Bool :=
  let cs := coreCrews s core
  partRuns s (partOfCore core) && freeCrewSlots s core ≠ [] && x.waves ≤ (freeWaveSlots s core).length &&
  x.regs + sumOf (fun w => waveRegs w.2) (slotWaves s core) ≤ 2048 &&
  x.scratch + sumOf (fun c => c.2.scratch) cs ≤ 2 ^ 19 && x.ob + sumOf (fun c => c.2.ob) cs ≤ 2 ^ 18 &&
  (!x.tiles || (coreOf s core).tileOwner.isNone) && x.contexts ≤ (freeContexts s (clusterOf core)).length

/-! ## Budgets (R33) -/

/-- A district and its ancestors. -/
def pathOf (s : State) : Nat → Nat → List Nat
  | 0, _ => []
  | fuel + 1, d => match districtAt s d with
    | none => []
    | some x => d :: (match x.parent with | some p => pathOf s fuel p | none => [])

/-- Placing a candidate of a district on these cores would exceed a budget on its path. -/
def overBudget (s : State) (d : Nat) (cores : List Nat) (x : Need) : Bool :=
  (pathOf s 9 d).any fun b => match districtAt s b with
    | none => false
    | some y =>
      if bit (blkNat y 8 4) 4 then
        let mine := s.crews.filter fun e => (pathOf s 9 e.2.district).contains b
        let n := cores.length
        let regs := sumOf (fun (e : Nat × Crew) => sumOf (fun w => waveRegs w.2)
          ((crewWaves s e.1).filter fun w => w.1 < 64 && !slotGivenUp s (keyCore e.1) w.1 w.2)) mine
        blkNat y 0x020 2 < (mine.map (fun e => keyCore e.1) ++ cores).eraseDups.length ||
        16 * blkNat y 0x024 4 < regs + n * x.regs ||
        4096 * blkNat y 0x028 4 < sumOf (fun e => e.2.scratch) mine + n * x.scratch ||
        4096 * blkNat y 0x02C 4 < sumOf (fun e => e.2.ob) mine + n * x.ob
      else false

def priorityOf (s : State) (d : Nat) : Nat := inherited s d 1 0x00E 1 % 16

/-! ## Choosing a place (R31, R367) -/

def partCores (p : Nat) : List Nat := (List.range 96).map (96 * p + ·)
def partClusters (p : Nat) : List Nat := (List.range 24).map (24 * p + ·)
def clusterCores (m : Nat) : List Nat := [4 * m, 4 * m + 1, 4 * m + 2, 4 * m + 3]

/-- Every task queue, with its district and number. -/
def allQueues (s : State) : List (Nat × Nat × TaskQueue) :=
  s.districts.flatMap fun d => d.2.queues.map fun q => (d.1, q.1, q.2)
def promotedQueue (s : State) (p : Nat) : Option (Nat × Nat × TaskQueue) :=
  (allQueues s).find? fun e => e.2.2.part = p && e.2.2.promoted
/-- Cores that are reserved for the promoted head (R369). -/
def reservedCores (s : State) (p : Nat) : List Nat := ((promotedQueue s p).map (·.2.2.reserved)).getD []

/-- Cores on which the members of one candidate go, in rank order: the lowest core, or the lowest cluster. -/
def choosePlace (s : State) (p d : Nat) (usable : List Nat) (x : Need) (g : Nat) : Option (List Nat) :=
  let fit := fun c => usable.contains c && coreFits s x c
  if g ≤ 1 then ((partCores p).find? fun c => fit c && !overBudget s d [c] x).map fun c => [c]
  else (partClusters p).findSome? fun m =>
    let cs := ((clusterCores m).filter fit).take g
    if cs.length = g && !overBudget s d cs x then some cs else none

/-! ## Putting crews on cores -/

/-- The slots of a core have new holders (R423). -/
def takeSlots (s : State) (core crewSlot : Nat) (slots : List Nat) : State :=
  { s with districts := s.districts.map fun d => (d.1, { d.2 with replay := { d.2.replay with
      goneSlots := d.2.replay.goneSlots.filter fun e => !(e.1 = core && slots.contains e.2),
      goneCrews := d.2.replay.goneCrews.filter fun e => e != (core, crewSlot) } }) }

/-- A crew takes a crew slot and wave slots; its waves rise in them by WAVEID (R438). A gated cluster ungates. -/
def seatCrew (s : State) (core crewSlot : Nat) (slots : List Nat) (c : Crew) (ws : List Wave) : State :=
  let k := ckey core crewSlot
  let c := { c with scratchBase := crewSlot * 2 ^ 19, obBase := crewSlot * 2 ^ 18, since := s.clock }
  let s := takeSlots s core crewSlot slots
  let s := (clusterCores (clusterOf core)).foldl (fun s m => if (coreOf s m).gated then
    modCore s m fun x => { x with gated := false } else s) s
  let owed := causalOwed s c.district
  let s := { s with crews := mset s.crews k c }
  (slots.zip ws).foldl (fun s e => setWave s core e.1
    { e.2 with id := { e.2.id with crew := k }, sched := { e.2.sched with paid := owed } }) s

/-- Wave `i` of a new crew (R14, R25, R324). -/
def newWave (e : List Byte) (arg i : Nat) : Wave :=
  let w := tyWavesC e
  let lantern := decide (w ≤ i)
  let pc := BitVec.ofNat 64 (if lantern then tyEntryL e else tyEntryC e)
  let n := if lantern then tyFibresL e else tyFibresC e
  let scalars := [arg % 2 ^ 32, arg / 2 ^ 32, tyScratch e, tyOb e, tyStackAt e, tyStack e]
  let srf := (scalars.mapIdx fun j x => (j, x)).foldl (fun m x => rset m x.1 (BitVec.ofNat 32 x.2)) []
  { waveInit with
    id := ⟨0, i, lantern, if lantern then some (i - w) else if tyWavesL e = 0 then none else some (i + w),
      if lantern then tyAllotL e else tyAllotC e⟩,
    regs := ⟨[], srf, [], 0, 0⟩,
    fibres := (List.range n).map fun l => (l, { fibreInit with pc := pc, next := pc }) }

/-- A task at the head of a queue, ready to be placed. -/
structure Head where
  district : Nat
  queue : Nat
  bytes : List Byte
  entry : List Byte
  info : QueuedTask
  arg : Nat

def Head.gang (h : Head) : Nat := tyGang h.entry
def Head.need (h : Head) : Need :=
  { regs := tyRegsLane h.entry, waves := tyWaves h.entry, scratch := tyScratch h.entry, ob := tyOb h.entry }

/-- Releases one crew of a head at a place, with rank `r` and the gang's number. -/
def releaseCrew (s : State) (h : Head) (core crewSlot : Nat) (slots : List Nat) (r : Nat) (gang : Option Nat) : State :=
  let c : Crew := { crewInit with
    task := taskOf h.bytes, district := h.district, gang := gang, rank := r,
    gangSize := if h.gang = 0 then 1 else h.gang, stackAt := tyStackAt h.entry, stack := tyStack h.entry, scratch := tyScratch h.entry, ob := tyOb h.entry,
    binding := h.info.binding, launch := h.info.launch, dispatcher := core }
  seatCrew s core crewSlot slots c ((List.range (tyWaves h.entry)).map (newWave h.entry h.arg))

/-- The two records of a placement (R419). -/
def placeRecords (h : Head) (core crewSlot : Nat) (slots : List Nat) (r : Nat) : RRec × RRec :=
  let t := taskOf h.bytes
  let m := slots.foldl (fun m j => m + 2 ^ j) 0
  ({ kind := 6, check := xor16 8 (ofBytes h.bytes), core := core, slot := slots.headD 0, lane := crewSlot,
     detail := h.queue % 16 * 2 ^ 20 + r % 16 * 2 ^ 16 + t.type, object := t.x.toNat + t.y.toNat * 2 ^ 32,
     second := t.z.toNat },
   { kind := 9, check := xor16 4 m, core := core, slot := 0xFF, lane := crewSlot, detail := 0, object := m,
     second := 0 })

/-- A place: core, crew slot and wave slots, for each rank. -/
abbrev Place := Nat × Nat × List Nat

/-- Releases every member of a head, logging each (R421, R422). -/
def releaseAll (s : State) (h : Head) (places : List Place) : State :=
  let (g, s) := takeSerial s
  let gang := if h.gang = 0 then none else some g
  (places.mapIdx fun r p => (r, p)).foldl (fun s e =>
    let (r, core, j, slots) := e
    let s := releaseCrew s h core j slots r gang
    let (a, b) := placeRecords h core j slots r
    (replayLog (replayLog s h.district a).1 h.district b).1) s

/-- The free slots that the model's firmware gives: the lowest (R438). -/
def lowestPlace (s : State) (waves core : Nat) : Place :=
  (core, (freeCrewSlots s core).headD 0, (freeWaveSlots s core).take waves)

/-! ## Replay of placements (R422) -/

inductive Logged where
  | places (ps : List Place)
  | wait
  | diverge

/-- The places of a head's members as the records at tail give them: all consecutive, or the placement waits. -/
def loggedPlaces (s : State) (h : Head) (g : Nat) : Nat → List Place → Logged
  | 0, acc => .places acc
  | n + 1, acc =>
    let r := g - (n + 1)
    let t := replayTail s h.district + 2 * r
    let f := fun (j off w : Nat) => ofBytes (((rrecAt s h.district j).drop off).take w)
    let have_ := replayHead s h.district
    if have_ ≤ t then .wait
    else if !(f t 5 1 = 6 && field (f t 0x0C 4) 20 4 = h.queue && field (f t 0x0C 4) 16 4 = r &&
        f t 0x10 8 = (taskOf h.bytes).x.toNat + (taskOf h.bytes).y.toNat * 2 ^ 32) then
      (if r = 0 then .wait else .diverge)
    else if have_ ≤ t + 1 then .wait
    else if !(f (t + 1) 5 1 = 9 && f (t + 1) 8 2 = f t 8 2 && f (t + 1) 0x0B 1 = f t 0x0B 1) then .diverge
    else loggedPlaces s h g n
      (acc ++ [(f t 8 2, f t 0x0B 1, (List.range 64).filter (bit (f (t + 1) 0x10 8)))])

/-- The logged place is free and fits. -/
def loggedFits (s : State) (p : Nat) (usable : List Nat) (h : Head) (e : Place) : Bool :=
  let (core, j, slots) := e
  partOfCore core = p && usable.contains core && coreFits s h.need core && (freeCrewSlots s core).contains j &&
    slots.length = tyWaves h.entry && slots.all (freeWaveSlots s core).contains

/-! ## Trying the head of a queue -/

/-- Ends a reservation: its yield requests are withdrawn (R370), and waits at a `yieldpt` end. -/
def endYield (s : State) (core slot : Nat) (evicted : Bool) : State :=
  match waveAt s core slot with
  | none => s
  | some w =>
    let d := districtOfWave s core slot
    let ls := w.fibres.filter fun e => e.2.wait == .yieldpt evicted
    ((ls.map fun e => e.2.flight).eraseDups).foldl (fun s n =>
      let r := yieldRecord core slot evicted
      if replayGate s d r = .stall then s
      else wakeLanes (replayLog s d r).1 core slot ((ls.filter fun e => e.2.flight = n).map fun e => (e.1, []))) s

def withdrawYield (s : State) (k : Nat) : State :=
  match crewAt s k with
  | none => s
  | some c =>
    if !c.yieldAsked || c.migrating then s
    else
      let s := modCrew s k fun c => { c with yieldAsked := false }
      ((crewWaves s k).map Prod.fst).foldl (fun s j => endYield s (keyCore k) j false) s

/-- The head leaves its queue: the next record becomes a head of age 0. -/
def popHead (s : State) (d q : Nat) : State :=
  match queueOf s d q with
  | none => s
  | some x =>
    let s := modQueue s d q fun y => { y with
      waiting := y.waiting.drop 1, placed := y.placed + 1, age := 0, promoted := false, reserved := [] }
    (x.reserved.flatMap fun c => (coreCrews s c).map Prod.fst).foldl withdrawYield s

/-- R44: what a launch's task waits for has been posted and acted on. -/
def dependsMet (s : State) (r : Option LaunchRef) : Bool :=
  match r.bind fun r => (mget s.launches r.launch).bind (·.dep) with
  | none => true
  | some (k, a, b) => match mget s.launches k with
    | none => true
    | some m => decide (b < m.appended) && m.unseen.all fun e => e.1 < a || b < e.1

/-- What the head of a queue is. -/
inductive HeadIs where
  | none
  /-- a task-record fault (R27, R28, R332) -/
  | bad (info : QueuedTask)
  | task (h : Head)

def headOf (s : State) (d q : Nat) : HeadIs :=
  match queueOf s d q with
  | none => .none
  | some x => match x.waiting with
    | [] => .none
    | m :: _ =>
      let bs := headBytes s d x
      if bs.length ≠ 16 then .none
      else
        let t := taskOf bs
        match (if recordBad bs || typeCount s d ≤ t.type then none else typeEntry s d t.type) with
        | none => .bad m
        | some e => if tyValid e && typeOk e then
            .task ⟨d, q, bs, e, m, ((m.launch.bind fun r => mget s.launches r.launch).map (·.arg.toNat)).getD 0⟩
          else .bad m

/-- Places the head of a queue, or refuses its record; none when it stays. -/
def tryHead (s : State) (p d q : Nat) : Option State :=
  match headOf s d q with
  | .none => none
  | .bad m =>
    let s := popHead (postCode s d 48 0xFFFF) d q
    let s := match m.launch with
      | some r => launchRefused s r
      | none => s
    some (match m.binding with
      | some c => boundEnded s c true
      | none => s)
  | .task h =>
    if !dependsMet s h.info.launch then none
    else
      let own := ((queueOf s d q).map (·.reserved)).getD []
      let usable := if own ≠ [] then own else (partCores p).filter fun c => !(reservedCores s p).contains c
      let g := max 1 h.gang
      match replayMode s d with
      | 2 =>
        if ((districtAt s d).map (·.replay.diverged)).getD false then none
        else (match loggedPlaces s h g g [] with
          | .wait => none
          | .diverge => some (diverge s d 0xFFFF)
          | .places ps =>
            if ps.all (loggedFits s p usable h) && !overBudget s d (ps.map Prod.fst) h.need then
              some (releaseAll (popHead s d q) h ps)
            else none)
      | m =>
        if m = 1 && replayEntries s d < replayHead s d - replayTail s d + 2 * g then none
        else match choosePlace s p d usable h.need h.gang with
          | none => none
          | some cs => some (releaseAll (popHead s d q) h (cs.map (lowestPlace s (tyWaves h.entry))))

/-! ## Saved crews: wake conditions and restore (R37, R367, R372 to R374) -/

/-- The wake condition of a fibre in a saved image (R35). -/
def fibreWakes (s : State) (x : Saved) (w : Wave) (e : Nat × Fibre) : Bool :=
  match e.2.wait with
  | .ready | .paced _ | .yieldpt _ | .oderun _ | .odestep .. => true
  | .waitm _ => (waitmReady w).contains e.1
  | .bwait off ph _ => BitVec.ofNat 32 (objWord x.scratch 0 off 2) != ph
  | .bfwait t ph _ => (belfryAt s t).district != some x.crew.district || belfrySeen s t (dieOfCore x.core) != ph
  | .qget .. => w.window ≠ [] || (match w.id.pair.bind (mget x.waves) with
    | some l => l.ended
    | none => true)
  | _ => false

def savedWakes (s : State) (x : Saved) : Bool := x.waves.any fun w => w.2.fibres.any (fibreWakes s x w.2)

def savedNeed (x : Saved) : Need :=
  { regs := sumOf (fun w => waveRegs w.2) x.waves, waves := x.waves.length, scratch := x.crew.scratch, ob := x.crew.ob,
    tiles := x.tiles.isSome, contexts := if x.seq.isSome then 1 else 0 }

/-- Temperature of a cluster's sensor in eighths of a degree, and the migration threshold (R371). -/
def tempOf (s : State) (cluster : Nat) : Int := (mget s.power.temps cluster).getD 0
def coolCluster (s : State) (m : Nat) : Bool := decide (tempOf s m ≤ 8 * (s.power.migrateAt : Int) - 80)

/-- Cores that a saved crew may return to, as far as its own state goes. -/
def mayReturn (s : State) (n : Nat) (x : Saved) (core : Nat) : Bool :=
  (!opsInFlight s n || core = x.core) && (x.kind != .migrated || coolCluster s (clusterOf core)) &&
  (x.kind != .shadow || core = x.core)

/-- Gives each member in turn its lowest core of a list; `held` contexts of the cluster go to members before. -/
def seatMembers (s : State) (usable : List Nat) : List (Nat × Saved) → List Nat → Nat → Option (List (Nat × Nat))
  | [], _, _ => some []
  | (n, x) :: r, cs, held =>
    let own := (savedNeed x).contexts
    let need := { savedNeed x with contexts := if own = 0 then 0 else held + own }
    match cs.find? fun c => usable.contains c && mayReturn s n x c && coreFits s need c with
    | none => none
    | some c => (seatMembers s usable r (cs.filter (· != c)) (held + own)).map ((n, c) :: ·)

def savedMembers (s : State) (n : Nat) : List (Nat × Saved) :=
  (savedGang s n).filterMap fun m => (mget s.saved m).map fun x => (m, x)

/-- Where a saved crew or gang can go now: members with their cores. -/
def restorePlace (s : State) (n : Nat) : Option (List (Nat × Nat)) :=
  match mget s.saved n with
  | none => none
  | some x =>
    let p := partOfCore x.core
    let usable := (partCores p).filter fun c => !(reservedCores s p).contains c
    let ms := sortBy (fun (a b : Nat × Saved) => decide (a.2.crew.rank ≤ b.2.crew.rank)) (savedMembers s n)
    let ok := fun (e : List (Nat × Nat)) => !overBudget s x.crew.district (e.map Prod.snd) (savedNeed x)
    if x.crew.gang.isNone then
      ((partCores p).findSome? fun c => (seatMembers s usable ms [c] 0).filter ok)
    else (partClusters p).findSome? fun m => (seatMembers s usable ms (clusterCores m) 0).filter ok

/-- A fibre as its crew is restored: every producer counts as completed (R314), and a wait at `yieldpt` is over. -/
def restoredFibre (f : Fibre) : Fibre :=
  allComplete (match f.wait with
    | .yieldpt _ => { f with wait := .yieldpt true }
    | _ => f)

/-- The context of a saved crew goes to a free one of the cluster: a suspended run goes on at its boundary (R105, R132),
and the bound tasks follow (R114). -/
def restoreSeq (s : State) (x : Saved) (cluster owner : Nat) : Option Nat × State :=
  match x.seq, x.seq.bind (mget s.seqs), freeContexts s cluster with
  | some k, some q, f :: _ =>
    (some f, { rebind s k (some f) with
      seqs := mset (mdel s.seqs k) f { q with state := if q.state = 4 then 3 else q.state, owner := owner } })
  | _, _, _ => (none, s)

/-- The image of crew `n` goes live on a core. Its operations in flight write there from now on (R374); its requests
and flights are found under its slots again, and those of waves that have ended under none. -/
def restoreOn (s : State) (n core : Nat) : State :=
  match mget s.saved n with
  | none => s
  | some x =>
    let (core, j, slots) := lowestPlace s x.waves.length core
    let k := ckey core j
    let seats := x.waves.zip slots
    let slotOf : Nat → Nat × Nat := fun i =>
      ((seats.find? fun e => e.1.1 = i).map fun e => (core, e.2)).getD (noCore, 0)
    let s := { s with saved := mdel s.saved n }
    let (seq, s) := restoreSeq s x (clusterOf core) k
    let crew := { x.crew with seqCtx := seq, yieldAsked := false, migrating := false }
    let ws := x.waves.map fun w => { w.2 with fibres := w.2.fibres.map fun f => (f.1, restoredFibre f.2) }
    let s := seatCrew s core j slots crew ws
    let s := { s with flights := s.flights.map fun f => (f.1,
      if f.2.core = 1024 + n then { f.2 with core := (slotOf f.2.slot).1, slot := (slotOf f.2.slot).2 } else f.2) }
    let s := renameReqs s (1024 + n) (List.range 32) slotOf
    -- operations in flight keep the crew on its core; suspended loads follow it
    let back := fun (o : EngineOp) => { o with saved := none, crew := k, slot := (slotOf o.wave).2 }
    let s := modCore s core fun c => { c with
      ops := (c.ops.map fun o => if o.saved = some n then back o else o) ++ x.ops.map back }
    let base := scratchPlace core (j * 2 ^ 19)
    let ob := obPlace core (j * 2 ^ 18)
    let s := { s with mem := { s.mem with
      bytes := x.scratch.foldl (fun m (e : Host.Cell) => writeByte m (base + e.1) e.2) s.mem.bytes,
      ob := x.ob.foldl (fun m (e : Host.Cell) => mset m (ob + e.1) e.2) s.mem.ob } }
    let s := match x.tiles with
      | none => s
      | some t =>
        let s := { s with mem := { s.mem with
          tiles := t.foldl (fun m (e : Host.Cell) => writeByte m (tilePlace core 0 0 0 + e.1) e.2)
            (mfilter (fun i => i < tilePlace core 0 0 0 || tilePlace (core + 1) 0 0 0 ≤ i) s.mem.tiles) } }
        modCore s core fun c => { c with tileOwner := some k, mrowp := x.mrowp }
    -- waits on a tag that has been freed meanwhile end in the fault of R364
    let gone := (List.range 8).filter fun t => (belfryAt s t).district ≠ some crew.district
    slots.foldl (fun s j => endYield (gone.foldl (fun s t => faultTagWaiters s core j t) s) core j true) s

/-- Restores a saved crew, with its gang, when it has somewhere to go. -/
def restoreSaved (s : State) (n : Nat) : Option State :=
  match restorePlace s n with
  | none => none
  | some ps => some (ps.foldl (fun s e => restoreOn s e.1 e.2) s)

/-- A wave evicted alone whose reply has been posted: no lane waits any more (R373). -/
def awayWakes (w : Wave) : Bool := w.fibres.any fun e => fibreReady (2 ^ 64) e.2

/-- A wave evicted alone returns to a slot of its core, with the stacks of its lanes (R328, R373). -/
def restoreAway (s : State) (core slot : Nat) : Option State :=
  match waveAt s core slot with
  | none => none
  | some w =>
    match freeWaveSlots s core with
    | [] => none
    | j :: _ =>
      if slot < 64 || 2048 < waveRegs w + sumOf (fun x => waveRegs x.2) (slotWaves s core) then none
      else match crewAt s w.id.crew with
        | none => none
        | some c =>
          let s := w.away.foldl (fun s e => modMem s fun m => writeByte m (grantBase w.id.crew c + e.1) e.2) s
          let s := { s with
            waves := mset (mdel s.waves (wkey core slot)) (wkey core j)
              { w with
                away := [], sched := { w.sched with paid := causalOwed s c.district },
                fibres := w.fibres.map fun f => (f.1, allComplete f.2) },
            flights := s.flights.map fun f => (f.1,
              if f.2.core = core && f.2.slot = slot then { f.2 with slot := j } else f.2) }
          let s := renameReqs s core [slot] fun _ => (core, j)
          let s := { s with cores := s.cores.map fun (x : Nat × Core) => (x.1, { x.2 with ops := x.2.ops.map fun (o : EngineOp) =>
            if o.saved.isNone && o.crew = w.id.crew && o.slot = slot then { o with slot := j } else o }) }
          some (takeSlots s core (w.id.crew % 16) [j])

/-- R37: the event of a saved crew by its number, or of a wave evicted alone by 2^20 plus its key. -/
def execCrewRestore (crew : Nat) (s : State) : Out :=
  if crew ≥ 2 ^ 20 then
    let k := crew - 2 ^ 20
    match mget s.waves k with
    | some w => if awayWakes w then .next ((restoreAway s (wkCore k) (wkSlot k)).getD s) else .next s
    | none => .next s
  else
    if (savedMembers s crew).any (fun e => savedWakes s e.2) then .next ((restoreSaved s crew).getD s) else .next s

/-! ## Passes (R366) -/

/-- Saved crews of a partition that may be restored, one per gang, in the order of R366. -/
def wakingSaved (s : State) (p : Nat) : List Nat :=
  let all := s.saved.filter fun e => partOfCore e.2.core = p && e.2.kind != .shadow &&
    (savedGang s e.1).head? = some e.1 && (savedMembers s e.1).any fun m => savedWakes s m.2
  (sortBy (fun (a b : Nat × Saved) =>
    let x := priorityOf s a.2.crew.district
    let y := priorityOf s b.2.crew.district
    y < x || (x = y && a.2.order ≤ b.2.order)) all).map Prod.fst

/-- The tenant's queue heads as its plug-in's call record lists them (R359). -/
def tenantHeads (s : State) (p t : Nat) : List (Nat × Nat) :=
  ((allQueues s).filter fun e => e.2.2.part = p && e.2.2.waiting ≠ [] && !e.2.2.promoted &&
    ((districtAt s e.1).map (·.tenant)) = some t).map fun e => (e.1, e.2.1)

/-- A tenant has a plug-in on the scheduler's core of a partition (R357, R359). -/
def pluginLoaded (s : State) (p t : Nat) : Bool :=
  match mget s.functions t with
  | some f => (mget f.plugins (2 * p)).isSome
  | none => false

/-- What each plug-in's permutation gives: rank of a head among its tenant's. A list that is no permutation of them is
ignored (R359). -/
def pluginRanks (s : State) (p : Nat) (ins : List PassInput) : List ((Nat × Nat) × Nat) :=
  ins.flatMap fun e => match e with
    | .order t q =>
      let hs := tenantHeads s p t
      if pluginLoaded s p t && q.length = hs.length && (List.range hs.length).all q.contains then
        q.mapIdx fun r i => (hs.getD i (0, 0), r)
      else []
    | _ => []

/-- Before the candidates: a plug-in that is ended leaves its tenant the default policy (R359), and a queue comes to be
served here, its reservation elsewhere over (R357, R369). -/
def passInput (p : Nat) (s : State) (e : PassInput) : State :=
  match e with
  | .order .. => s
  | .ends t => { s with functions := mmod s.functions t fun f => { f with plugins := mdel f.plugins (2 * p) } }
  | .serve d q => match queueOf s d q with
    | none => s
    | some x =>
      if x.part = p then s
      else (x.reserved.flatMap fun c => (coreCrews s c).map Prod.fst).foldl withdrawYield
        (modQueue s d q fun y => { y with part := p, promoted := false, reserved := [] })

/-- Head `a` comes before head `b` (R366). -/
def headBefore (s : State) (ranks : List ((Nat × Nat) × Nat)) (a b : Nat × Nat × TaskQueue) : Bool :=
  let pa := priorityOf s a.1
  let pb := priorityOf s b.1
  let rank := fun (e : Nat × Nat × TaskQueue) => (ranks.find? fun r => r.1 = (e.1, e.2.1)).map Prod.snd
  let tenant := fun (d : Nat) => (districtAt s d).map (·.tenant)
  if pa ≠ pb then pb < pa
  else if a.2.2.age ≠ b.2.2.age then b.2.2.age < a.2.2.age
  else match (if tenant a.1 = tenant b.1 then rank a else none), rank b with
    | some x, some y => x < y
    | _, _ => if a.1 ≠ b.1 then a.1 < b.1 else a.2.1 < b.2.1

def firstHead (s : State) (ranks : List ((Nat × Nat) × Nat)) : List (Nat × Nat × TaskQueue) → Option (Nat × Nat × TaskQueue)
  | [] => none
  | e :: r => match firstHead s ranks r with
    | none => some e
    | some f => if headBefore s ranks f e then some f else some e

/-- Considers heads best first; one that stays is not considered again in the pass. -/
def headsLoop (p : Nat) (ranks : List ((Nat × Nat) × Nat)) : Nat → List (Nat × Nat) → State → State
  | 0, _, s => s
  | fuel + 1, seen, s =>
    match firstHead s ranks ((allQueues s).filter fun e =>
        e.2.2.part = p && e.2.2.waiting ≠ [] && !e.2.2.promoted && !seen.contains (e.1, e.2.1)) with
    | none => s
    | some (d, q, _) => match tryHead s p d q with
      | some s => headsLoop p ranks fuel seen s
      | none => headsLoop p ranks fuel ((d, q) :: seen) (modQueue s d q fun x => { x with age := min 255 (x.age + 1) })

/-- The cores that a promoted head of this priority may take (R369). -/
def eligible (s : State) (prio core : Nat) : Bool :=
  (coreCrews s core).all fun e => e.2.gang.isNone && priorityOf s e.2.district ≤ prio

/-- The cluster with the most eligible cores, of equal ones the lowest. -/
def bestCluster (s : State) (prio : Nat) : List Nat → Nat × Nat
  | [] => (0, 0)
  | m :: r =>
    let n := ((clusterCores m).filter (eligible s prio)).length
    let b := bestCluster s prio r
    if b.2 ≤ n then (m, n) else b

/-- Chooses the target of a promoted head that has none, and sends its yield requests (R369, R370). -/
def reserveFor (s : State) (p d q : Nat) : State :=
  match queueOf s d q, headOf s d q with
  | some x, .task h =>
    if x.reserved ≠ [] then s
    else
      let prio := priorityOf s d
      let cs := if h.gang = 0 then ((partCores p).filter (eligible s prio)).take 1
        else
          let b := bestCluster s prio (partClusters p)
          if h.gang ≤ b.2 then ((clusterCores b.1).filter (eligible s prio)).take h.gang else []
      let s := modQueue s d q fun x => { x with reserved := cs }
      (cs.flatMap fun c => (coreCrews s c).map Prod.fst).foldl (fun s k =>
        modCrew s k fun c => { c with yieldAsked := true }) s
  | _, _ => s

/-- The promoted head is considered, before the others. -/
def promotedStep (s : State) (p : Nat) : State :=
  match promotedQueue s p with
  | none => s
  | some (d, q, _) =>
    let s := reserveFor s p d q
    match tryHead s p d q with
    | some s => s
    | none => modQueue s d q fun x => { x with age := min 255 (x.age + 1) }

/-- A head of age 64 or more is promoted when none is (R369). -/
def promoteHead (s : State) (p : Nat) : State :=
  if (promotedQueue s p).isSome then s
  else
    let hs := (allQueues s).filter fun e => e.2.2.part = p && e.2.2.waiting ≠ [] && 64 ≤ e.2.2.age
    match hs.foldl (fun (m : Option (Nat × Nat × TaskQueue)) e => match m with
      | none => some e
      | some b => if b.2.2.age < e.2.2.age then some e else some b) none with
    | none => s
    | some (d, q, _) => reserveFor (modQueue s d q fun x => { x with promoted := true }) p d q

/-- The scheduler of a partition runs (R352, R375, R390). -/
def schedulerRuns (s : State) (p : Nat) : Bool :=
  p < 8 && partRuns s p && !(partOf s p).restarting && !(partOf s p).swapping

/-- Tasks appended to the queues that a partition serves, and the waves and crews that it holds. -/
def appendedIn (s : State) (p : Nat) : Nat := sumOf (fun e => if e.2.2.part = p then e.2.2.appended else 0) (allQueues s)
def heldIn (s : State) (p : Nat) : List Nat :=
  ((s.waves.filter fun e => partOfCore (wkCore e.1) = p && wkSlot e.1 < 64 &&
    !slotGivenUp s (wkCore e.1) (wkSlot e.1) e.2).map Prod.fst) ++
  ((mkeys s.crews).filter fun k => partOfCore (keyCore k) = p).map (2 ^ 20 + ·)

/-- The pass is over. -/
def passDone (s : State) (p : Nat) : State :=
  modPart s p fun x => { x with pass := ⟨s.clock, appendedIn s p, heldIn s p, wakingSaved s p⟩ }

/-- The partition has a candidate, and since the latest pass resources have been freed, a task appended, or a wake
condition come to hold, or 8 µs have passed (R366). -/
def passDue (s : State) (p : Nat) : Bool :=
  let x := (partOf s p).pass
  let w := wakingSaved s p
  schedulerRuns s p && (w != [] || (allQueues s).any fun e => e.2.2.part = p && e.2.2.waiting ≠ []) &&
  (x.appended ≠ appendedIn s p || w.any (fun n => !x.waking.contains n) ||
   x.held.any (fun k => !(heldIn s p).contains k) || x.at_ + 10000 ≤ s.clock)

/-- What the scheduler's own passes take from the plug-ins that are loaded: free values (R359). -/
def ownInputs (s : State) (p : Nat) : List PassInput :=
  ((mkeys s.functions).filter (pluginLoaded s p)).map fun t =>
    if Config.pluginEnds t p s.clock then .ends t else .order t (Config.pluginOrder t p s.clock)

/-- R366: one pass. -/
def passOf (s : State) (p : Nat) (ins : List PassInput) : State :=
  let s := ins.foldl (passInput p) s
  let ranks := pluginRanks s p ins
  let s := (wakingSaved s p).foldl (fun s n => (restoreSaved s n).getD s) s
  let s := promotedStep s p
  let fuel := (allQueues s).foldl (fun m e => m + e.2.2.waiting.length + 1) 1
  passDone (promoteHead (headsLoop p ranks fuel [] s) p) p

/-- Something can be placed or restored. -/
def passWorks (s : State) (p : Nat) : Bool :=
  schedulerRuns s p &&
  ((wakingSaved s p).any (fun n => (restorePlace s n).isSome) ||
   (allQueues s).any fun e => e.2.2.part = p && (tryHead s p e.1 e.2.1).isSome)

def execPlacementPass (part : Nat) (ins : List PassInput) (s : State) : Out :=
  if part ≥ 8 then .fault .noSuchUnit
  else if schedulerRuns s part then .next (passOf s part ins) else .next s

end Sys2Proof.Machine
end

