-- ==== Sys2Proof/Machine/Context.lean ====
section
/-! DEFINITION. Evictions, migration, partition swaps and gating of clusters (R36, R77, R78, R132, R272, R371 to R375). -/

namespace Sys2Proof.Machine

/-! ## When a crew may be saved (R35, R36) -/

/-- The crew's context stands at a step boundary, not held there by the replay log (R132, R421). -/
def atBoundary (s : State) (k : Nat) : Bool :=
  match (crewAt s k).bind (·.seqCtx) with
  | none => false
  | some q => match envOf s q with
    | none => false
    | some e => e.c.eval.isNone && (match e.c.at_ with
      | .boundary => replayGate s e.dk (boundaryRecord e) != .stall
      | .frames => e.c.regs.runSteps ≠ 0
      | _ => false)

/-- A fibre waits at a blocking point, or is parked (R35, R293). -/
def atBlockingPoint (s : State) (w : Wave) (f : Fibre) : Bool :=
  match f.wait with
  | .waitm _ | .bwait .. | .bfwait .. | .remote | .svc .. | .parked | .yieldpt _ => true
  | .qget .. => w.window = []
  | .oderun _ | .odestep .. => atBoundary s w.id.crew
  | _ => false

def atJoin (f : Fibre) : Bool := match f.wait with | .join _ => true | _ => false

/-- The wave is at a blocking point (R36). -/
def waveBlocks (s : State) (w : Wave) : Bool :=
  w.fibres.any (fun e => atBlockingPoint s w e.2) && w.fibres.all fun e => atBlockingPoint s w e.2 || atJoin e.2

/-- The wave is stalled in a QPUT on a full window. -/
def waveStalls (s : State) (core : Nat) (w : Wave) : Bool :=
  let full := match (pairSlot s w true).bind (waveAt s core) with
    | some c => 8 ≤ c.window.length
    | none => false
  full && w.fibres.any (fun e => e.2.wait == .qput) &&
    w.fibres.all fun e => e.2.wait == .qput || atBlockingPoint s w e.2 || atJoin e.2

/-- No lane of the crew holds the serial token (R240). -/
def noToken (s : State) (k : Nat) (c : Crew) : Bool :=
  match (districtAt s c.district).bind (·.token) with
  | some (core, slot, _) => !(core = keyCore k && (crewWaves s k).any fun w => w.1 = slot)
  | none => true

/-- R272: operations on tiles and reservations are over, but for loads held by a missing page. -/
def opsSettled (s : State) (k : Nat) : Bool :=
  (crewOps s k).all fun o => !opTouches o || o.consumed || (opUnit o.instr = 1 && o.held)

/-- R36, for one crew. -/
def crewEvictable (s : State) (k : Nat) : Bool :=
  match crewAt s k with
  | none => false
  | some c =>
    let ws := (crewWaves s k).filter fun w => !w.2.ended
    !c.ending && ws.any (fun w => waveBlocks s w.2) &&
    ws.all (fun w => 64 ≤ w.1 || waveBlocks s w.2 || waveStalls s (keyCore k) w.2) && noToken s k c && opsSettled s k

/-- R36, R32: a crew with its gang. -/
def gangEvictable (s : State) (k : Nat) : Bool := gangKeys s k ≠ [] && (gangKeys s k).all (crewEvictable s)

/-! ## Saving (R36, R78, R272, R372) -/

/-- Bytes of a memory in a window, by offset. -/
def windowOf (m : Memory) (base n : Nat) : Memory :=
  (mfilter (fun i => base ≤ i && i < base + n) m).map fun e => (e.1 - base, e.2)

/-- A wave as its image holds it: the results of fixed latency have landed, and no convoy is under way. -/
def imageWave (w : Wave) : Wave :=
  let w := landPend w fun _ => true
  { w with away := [], sched := { w.sched with run := none, nextIssue := 0, nextClause := 0, delayed := 0 } }

/-- The crew leaves its core for the save area; the core's cache is written back. -/
def saveCrew (s : State) (k : Nat) (kind : SaveKind) : State :=
  match crewAt s k with
  | none => s
  | some c =>
    let (n, s) := takeSerial s
    let core := keyCore k
    let mrowp := mrowpOf (coreOf s core)
    let all := crewWaves s k
    let live := all.filter fun w => !w.2.ended
    let slots := all.map Prod.fst
    let idOf : Nat → Nat × Nat := fun j =>
      ((live.find? fun w => w.1 = j).map fun w => (1024 + n, w.2.id.index)).getD (noCore, 0)
    let s := releaseWrites s core 4 []
    let s := { s with flights := s.flights.map fun f => (f.1,
      if f.2.core = core && slots.contains f.2.slot then
        { f.2 with core := (idOf f.2.slot).1, slot := (idOf f.2.slot).2 } else f.2) }
    let s := renameReqs s core slots idOf
    let held := (crewOps s k).filter fun o => isTileLoad o.instr
    let s := modCore s core fun x => { x with
      ops := (x.ops.filter fun o => !held.contains o).map fun o =>
        if o.crew = k && o.saved.isNone then { o with saved := some n } else o }
    let scratch := (live.flatMap fun w => w.2.away).foldl (fun m e => writeByte m e.1 e.2)
      (windowOf s.mem.bytes (scratchPlace core (k % 16 * 2 ^ 19)) (2 ^ 19))
    let tiles := if (coreOf s core).tileOwner = some k then some (windowOf s.mem.tiles (tilePlace core 0 0 0) (2 ^ 18))
      else none
    let (seq, s) := match c.seqCtx, c.seqCtx.bind (mget s.seqs) with
      | some q, some x => (some (1536 + n), { rebind s q (some (1536 + n)) with
          seqs := mset (mdel s.seqs q) (1536 + n) { x with state := if x.state = 3 then 4 else x.state, owner := 768 * 16 + n } })
      | _, _ => (none, s)
    let image : Saved :=
      { kind := kind, crew := { c with yieldAsked := false, migrating := false, seqCtx := none },
        waves := live.foldl (fun m w => mset m w.2.id.index (imageWave w.2)) [],
        left := live.foldl (fun m w => mset m w.2.id.index (w.1 % 64)) [],
        scratch := scratch, ob := windowOf s.mem.ob (obPlace core (k % 16 * 2 ^ 18)) (2 ^ 18),
        tiles := tiles, mrowp := mrowp, ops := held.map fun o => { o with buf := [], todo := [] }, core := core, seq := seq,
        order := n }
    let s := freeTiles_ (clearGrants s k) k
    let s := { s with manage := { s.manage with
      migrations := if kind = SaveKind.migrated then s.manage.migrations + 1 else s.manage.migrations } }
    { s with
      mem := { s.mem with tiles := if tiles.isSome then mfilter (fun a => a / 2 ^ 18 != core) s.mem.tiles else s.mem.tiles },
      saved := mset s.saved n image, crews := mdel s.crews k,
      waves := s.waves.filter fun e => !(wkCore e.1 = core && e.2.id.crew = k) }

/-- Saves a crew with its gang, members of a migration as migrated. -/
def saveGang (s : State) (k : Nat) (kind : Crew → SaveKind) : State :=
  (gangKeys s k).foldl (fun s k => match crewAt s k with
    | some c => saveCrew s k (kind c)
    | none => s) s

def evictKind (c : Crew) : SaveKind := if c.migrating then .migrated else .evicted

/-- The crew has been asked to yield and can be saved now. -/
def evictNow (s : State) (k : Nat) : Bool :=
  schedulerRuns s (partOfCore (keyCore k)) &&
  (gangKeys s k).any (fun m => ((crewAt s m).map (·.yieldAsked)).getD false) && gangEvictable s k

/-- R36, R370. -/
def execCrewEviction (crew : Nat) (s : State) : Out :=
  if crew ≥ 768 * 16 then .fault .noSuchUnit
  else if evictNow s crew then .next (saveGang s crew evictKind) else .next s

/-! ## A wave alone (R36, R328, R373) -/

/-- The stacks of a wave's lane slots, by offset in the grant (R328). -/
def stackBytes (s : State) (c : Crew) (w : Wave) : List (Nat × Byte) :=
  let base := c.stackAt + 32 * w.id.index * c.stack
  (List.range (32 * c.stack)).map fun i => (base + i, readByte s.mem.bytes (grantBase w.id.crew c + base + i))

/-- No lane of the wave holds the serial token (R240). -/
def waveNoToken (s : State) (core slot : Nat) (c : Crew) : Bool :=
  match (districtAt s c.district).bind (·.token) with
  | some (k, j, _) => !(k = core && j = slot)
  | none => true

/-- A wave that waits for a service is evicted alone; none where it may not be (R36, R373). DESIGN CHOICE (log 68): it is
not evicted from a slot whose earlier occupant is still away. -/
def evictAlone (s : State) (core slot : Nat) : Option State :=
  match waveAt s core slot, waveAt s core (64 + slot) with
  | some w, none =>
    match crewAt s w.id.crew with
    | none => none
    | some c =>
      let svc := w.fibres.any fun e => match e.2.wait with | .svc .. => true | _ => false
      if !(svc && waveBlocks s w && waveNoToken s core slot c && !c.ending && schedulerRuns s (partOfCore core)) then none
      else
        let j := 64 + slot
        let w := { imageWave w with away := stackBytes s c w }
        let s := { s with
          waves := mset (mdel s.waves (wkey core slot)) (wkey core j) w,
          flights := s.flights.map fun f => (f.1,
            if f.2.core = core && f.2.slot = slot then { f.2 with slot := j } else f.2) }
        let s := renameReqs s core [slot] fun _ => (core, j)
        some (modCore s core fun x => { x with ops := x.ops.map fun o =>
          if o.saved.isNone && o.crew = w.id.crew && o.slot = slot then { o with slot := j } else o })
  | _, _ => none

/-- 10 µs in clocks. -/
def replyAfter : Nat := 12500

/-- A service of the wave has waited for its reply since 10 µs (R373). DEDUCED (log 85): counted from the clock in which
the request has completed. -/
def replyLate (s : State) (w : Wave) : Bool :=
  w.fibres.any fun e => match e.2.wait with
    | .svc .. => (mget s.flights e.2.flight).any fun f => f.due + replyAfter ≤ s.clock
    | _ => false

/-- A candidate that cannot go anywhere could go once the wave is away. -/
def neededBy (s t : State) (p : Nat) : Bool :=
  (wakingSaved s p).any (fun n => (restorePlace s n).isNone && (restorePlace t n).isSome) ||
  (allQueues s).any fun e => e.2.2.part = p && (tryHead s p e.1 e.2.1).isNone && (tryHead t p e.1 e.2.1).isSome

/-- The firmware's default policy for such a wave (R373). -/
def evictsAlone (s : State) (k : Nat) (w : Wave) : Bool :=
  wkSlot k < 64 && replyLate s w && (match evictAlone s (wkCore k) (wkSlot k) with
    | some t => neededBy s t (partOfCore (wkCore k))
    | none => false)

def execWaveEviction (core slot : Nat) (s : State) : Out :=
  if core ≥ 768 || slot ≥ 64 then .fault .noSuchUnit else .next ((evictAlone s core slot).getD s)

/-! ## Migration (R371) -/

/-- 2 ms in clocks. -/
def migrateAfter : Nat := 2500000

def execThermalMigration (crew : Nat) (s : State) : Out :=
  if crew ≥ 768 * 16 then .fault .noSuchUnit
  else match crewAt s crew with
    | none => .next s
    | some c =>
      let core := keyCore crew
      if decide (8 * (s.power.migrateAt : Int) ≤ tempOf s (clusterOf core)) && c.since + migrateAfter ≤ s.clock &&
          (partClusters (partOfCore core)).any (coolCluster s) then
        .next ((gangKeys s crew).foldl (fun s k => modCrew s k fun c => { c with yieldAsked := true, migrating := true }) s)
      else .next s

/-! ## Swapping a partition (R375) -/

def partCrews (s : State) (p : Nat) : List Nat := (s.crews.filter fun e => partOfCore (keyCore e.1) = p).map Prod.fst

/-- Every crew of the partition can be saved. -/
def swapReady (s : State) (p : Nat) : Bool := (partCrews s p).all (crewEvictable s)

/-- The exchange with the shadow: what was live is saved there, what the shadow held goes live where it was. -/
def swapNow (s : State) (p : Nat) : State :=
  let incoming := (s.saved.filter fun e => e.2.kind == .shadow && partOfCore e.2.core = p).map Prod.fst
  let s := (partCrews s p).foldl (fun s k => saveCrew s k .shadow) s
  let s := incoming.foldl (fun s n => match mget s.saved n with
    | some x => if coreFits s (savedNeed x) x.core then restoreOn s n x.core else s
    | none => s) s
  modPart s p fun x => { x with swapping := false }

def execPartitionSwap (part : Nat) (s : State) : Out :=
  if part ≥ 8 then .fault .noSuchUnit
  else if !partRuns s part || (partOf s part).restarting then .next s
  else if swapReady s part then .next (swapNow s part)
  else
    let s := modPart s part fun x => { x with swapping := true }
    .next ((partCrews s part).foldl (fun s k => modCrew s k fun c => { c with yieldAsked := true }) s)

/-! ## Gating (R77) -/

/-- A cluster with no crew is gated once its caches have been written back. -/
def execClusterGate (cluster : Nat) (s : State) : Out :=
  if cluster ≥ 192 then .fault .noSuchUnit
  else if (clusterCores cluster).any (fun c => coreCrews s c ≠ [] || (coreOf s c).ops ≠ []) then .next s
  else .next ((clusterCores cluster).foldl (fun s c =>
    let s := releaseWrites s c 4 []
    let s := { s with mem := { s.mem with released := s.mem.released.filter fun e => e.2 ≠ c } }
    modCore s c fun x => { x with gated := true }) s)

def execClusterUngate (cluster : Nat) (s : State) : Out :=
  if cluster ≥ 192 then .fault .noSuchUnit
  else .next ((clusterCores cluster).foldl (fun s c => modCore s c fun x => { x with gated := false }) s)

end Sys2Proof.Machine
end

