-- ==== Sys2Proof/Machine/Paging.lean ====
section
/-! DEFINITION. Held accesses and what ends their holds (R54, R64, R69, R384, R385, R390), page-fault records and the
page commands (R380 to R388). -/

namespace Sys2Proof.Machine

/-! ## Lanes whose access was held -/

/-- A wave by the core and slot of a request: resident, or of a saved crew (core 1,024 plus its number, WAVEID). -/
def reqPlace (r : MemReq) : Nat × SvcAt := if r.core < 1024 then (r.core, .live r.slot) else (0, .image (r.core - 1024) r.slot)
def reqWave (s : State) (r : MemReq) : Option Wave :=
  if r.core < 1024 then waveAt s r.core r.slot else (mget s.saved (r.core - 1024)).bind fun x => mget x.waves r.slot

/-- What the lane of a request waits on. -/
def reqWait (s : State) (r : MemReq) : Option Wait :=
  match (reqWave s r).bind fun w => mget w.fibres r.lane with
  | some f => if f.flight = r.flight then some f.wait else none
  | none => none

/-- The lane still waits with the flight of the request. -/
def reqWaits (s : State) (r : MemReq) : Bool :=
  match reqWait s r with
  | some (.hold _) | some .remote => true
  | _ => false

/-- The lane's access has been performed: its results join its flight, and it goes on. A wait for a remote load is a
blocking point (R35), after which the wave owes no inserted delay (R416); another hold is none (R314). -/
def lanePerformed (s : State) (r : MemReq) (ws : List (Target × W32)) : State :=
  if !reqWaits s r then s
  else
    let remote := reqWait s r == some .remote
    let s := flightLaneDone (flightWrites s r.flight ws 0) r.flight r.lane
    let owed := causalOwed s (realDistrict r.district)
    modSvc s (reqPlace r).1 (reqPlace r).2 fun w =>
      if remote then releaseLane (modSched w fun q => { q with paid := max q.paid owed }) r.lane else releaseHold w r.lane

/-- The lane's access faults: it parks at its instruction (R293). -/
def laneFaulted (s : State) (r : MemReq) (f : FaultRec) : State :=
  if !reqWaits s r then s
  else
    let s := flightLaneDone s r.flight r.lane
    match (reqWave s r).bind fun w => mget w.fibres r.lane with
    | none => s
    | some fb =>
      if r.core < 1024 then takeFaults s r.core r.slot fb.pc [(r.lane, f)]
      else
        let s := modSvc s 0 (reqPlace r).2 fun w => parkLane w fb.pc r.lane f
        let at_ := ((mget s.saved (r.core - 1024)).map (·.core)).getD 0
        let left := ((mget s.saved (r.core - 1024)).bind fun x => mget x.left r.slot).getD 0
        notify s at_ (noticeBytes 1 left (2 ^ r.lane) fb.pc.toNat)

/-- A held access of a core is tried again; `named` says that a command has named its page (R385). -/
def retryHeld (s : State) (core : Nat) (h : Held) (named : Bool) : State :=
  let r := h.req
  let rec_ := reqRecord s r
  let recorded := r.code != 0
  let aligned := r.va.toNat % r.size = 0
  let mark := fun (s : State) => modCore s core fun c => { c with
    held := c.held.map fun x => if x.seq = h.seq then { x with needed := x.needed || named } else x }
  if recorded && aligned && replayGate s (realDistrict r.district) rec_ = .stall then mark s
  else
    let t := modCore s core fun c => { c with held := c.held.filter (·.seq ≠ h.seq) }
    match performReq t r with
    | .done u ws =>
      lanePerformed (if recorded then (replayLog u (realDistrict r.district) rec_).1 else u) r ws
    | .logged u => lanePerformed u r []
    | .fault f => laneFaulted t r f
    | .held u _ => modCore u core fun c => { c with held := c.held.mapIdx fun i x =>
        if i + 1 = c.held.length then { x with seq := h.seq, needed := h.needed || named } else x }

/-- Every held access that `p` selects is tried again, in order of arrival. -/
def retryAll (s : State) (named : Bool) (p : Held → Bool) : State :=
  s.cores.foldl (fun s c => (c.2.held.filter p).foldl (fun s h => retryHeld s c.1 h named) s) s

/-- The 64 KiB pages that a request touches. -/
def reqPages (s : State) (r : MemReq) : List Nat :=
  match districtAt s r.district with
  | none => []
  | some d =>
    let page := fun (va : Nat) => iaOf d (va % 2 ^ 64) / 65536
    [page r.va.toNat, page (r.va.toNat + r.size - 1)].eraseDups

/-- An entry of the side log is replayed: true when it has gone from the log. -/
def replayEntry (s : State) (core : Nat) (h : Held) (named : Bool) : State × Bool :=
  let r := h.req
  let rec_ := reqRecord s r
  let recorded := r.code != 0
  let t := modCore s core fun c => { c with log := c.log.filter (·.seq ≠ h.seq) }
  let stay := fun (s : State) => (modCore s core fun c => { c with
    log := c.log.map fun x => if x.seq = h.seq then { x with needed := x.needed || named } else x }, false)
  if recorded && replayGate s (realDistrict r.district) rec_ = .stall then stay s
  else match performReq t r with
  | .done u _ => (if recorded then (replayLog u (realDistrict r.district) rec_).1 else u, true)
  | .fault _ => (postFault t r.district
      { event := 5, part := partOfCore core, ctx := r.ctx, va := ((districtAt s r.district).map fun x => iaOf x r.va.toNat).getD 0 },
      true)
  | .logged u => stay { s with partitions := u.partitions }
  | .held _ _ => stay s

/-- Replays the entries that `p` selects in log order; an entry does not pass one that stays for the same page. -/
def replayEntries_ (core : Nat) (named : Bool) (p : Held → Bool) : List Held → List Nat → State → State
  | [], _, s => s
  | h :: r, blocked, s =>
    let pages := reqPages s h.req
    if pages.any blocked.contains then replayEntries_ core named p r (pages ++ blocked) s
    else if !p h then replayEntries_ core named p r (pages ++ blocked) s
    else match replayEntry s core h named with
      | (s, true) => replayEntries_ core named p r blocked s
      | (s, false) => replayEntries_ core named p r (pages ++ blocked) s

/-! ## Accesses of the host through the aperture (R344, R356) -/

/-- What one byte of a host access translates to: a host-owned page is open to it, a read-only one to its reads. -/
def byteForHost (s : State) (d : District) (need va : Nat) : ByteAt :=
  match byteAt s d .home need va with
  | .hostOwned p ia => match walk s p d.ctx ia with
    | .leaf e _ bits =>
      if need &&& permW != 0 && bit e 2 then .readOnly p ia
      else .mem (hbmPlace p (field e 8 28 * 256 + ia % 2 ^ bits)) 0
    | .none fl => .noPage p ia fl
  | b => b

def apertureReach (s : State) (d : District) (need va n : Nat) : Reached :=
  reachAll ((List.range n).map fun i => ((va + i) % 2 ^ 64, byteForHost s d need ((va + i) % 2 ^ 64)))

/-- A host write is performed, or discarded; none while its page is missing, an engine owns a line of it, or its
partition resets. -/
def hostWriteNow (s : State) (x : HostWrite) : Option State :=
  match districtAt s x.district with
  | none => some s
  | some d => match apertureReach s d permW x.va x.data.length with
    | .places ps =>
      if homeReset s d x.va || engineOwns s ps then none
      else some (storeAt (markAccess s d true x.va x.data.length) d.ctx 0 true ps x.data)
    | .remote _ ps | .host ps => some (rawStore s 0 true ps x.data)
    | .noPage .. => none
    | .readOnly p ia => some (postFault s x.district { event := 3, code := 1, part := p, ctx := d.ctx, va := ia })
    | _ => some s

/-- The pages of a host write, with their context. -/
def hostPages (s : State) (x : HostWrite) : List (Nat × Nat) :=
  match districtAt s x.district with
  | none => []
  | some d => [(d.ctx, iaOf d x.va / 65536), (d.ctx, iaOf d ((x.va + x.data.length - 1) % 2 ^ 64) / 65536)]

/-- It waits behind an older one of its page. -/
def hostWaits (s : State) (older : List HostWrite) (x : HostWrite) : Bool :=
  older.any fun y => (hostPages s y).any (hostPages s x).contains

/-- A host write is held at its home; a page that it misses is reported (R383). -/
def holdHostWrite (s : State) (x : HostWrite) : State :=
  let s := { s with hostWrites := s.hostWrites ++ [x] }
  match districtAt s x.district with
  | none => s
  | some d => match apertureReach s d permW x.va x.data.length with
    | .noPage p ia fl => reportMiss s p d.ctx ia fl
    | _ => s

/-- Held host writes are tried again in order; none passes an older one of its page that stays. -/
def retryHost (s : State) : State :=
  s.hostWrites.foldl (fun s x =>
    match (if hostWaits s s.hostWrites x then none else hostWriteNow s x) with
    | some t => t
    | none => holdHostWrite s x) { s with hostWrites := [] }

/-- Side logs are replayed; loads and releases that waited for them go on (R64), and held writes of the host. -/
def replayLogs (s : State) (named : Bool) (p : Held → Bool) : State :=
  let s := s.cores.foldl (fun s c => replayEntries_ c.1 named p c.2.log [] s) s
  wakeDeferred isDeferred (retryHost (retryAll s false fun h => h.why == .log))

/-- What a home could not serve is tried again: held accesses of these kinds, and log entries released to their page. -/
def retryKinds (s : State) (whys : List HoldWhy) (f : Nat → Bool) : State :=
  replayLogs (retryAll s false fun h => whys.contains h.why && f h.req.flight) false fun h => h.needed && f h.req.flight

/-- R69: the engine has written the lines that this access, of a lane or the host, waits for. -/
def recallStep (s : State) (flight : Nat) : Option State :=
  let mine := fun (s : State) => s.hostWrites.any (·.flight = flight) || s.cores.any fun c =>
    c.2.held.any (fun h => h.why == .engine && h.req.flight = flight) ||
    c.2.log.any fun h => h.needed && h.req.flight = flight
  if mine s then
    let t := retryKinds s [.engine] (· = flight)
    if mine t then none else some t
  else none

def execDirectoryRecall (flight : Nat) (s : State) : Out := .next ((recallStep s flight).getD s)

/-! ## Page-fault records (R383) -/

/-- Held accesses and side-log entries that wait for a page. -/
def pageWaiters (s : State) (ctx ia : Nat) : Nat :=
  (s.hostWrites.filter fun x => (hostPages s x).contains (ctx, ia / 65536)).length + s.cores.foldl (fun m c => m + ((c.2.held ++ c.2.log).filter fun h =>
    h.req.ctx = ctx && (reqPages s h.req).contains (ia / 65536)).length) 0

def missBytes (s : State) (m : Miss) : List Byte :=
  toBytes 8 m.ia ++ toBytes 2 m.ctx ++ toBytes 1 m.flags ++ toBytes 1 0 ++
    toBytes 4 (min (pageWaiters s m.ctx m.ia) 0xFFFFFFFF)

/-- The oldest record goes to its handler's ring when there is room, or to the firmware. -/
def recordStep (s : State) (p : Nat) : Option State :=
  match (partOf s p).toPost with
  | [] => none
  | m :: r => match ctxHandler s p m.ctx with
    | some core =>
      if ringRoom (coreOf s core).pageRing then
        let bs := missBytes s m
        some (modCore (modPart s p fun x => { x with toPost := r }) core fun c => { c with
          pageRing := ringMove (ringPost c.pageRing bs) })
      else none
    | none => some (modPart s p fun x => { x with toPost := r, toServe := x.toServe ++ [m] })

def execPageFaultRecord (part : Nat) (s : State) : Out :=
  if part ≥ 8 then .fault .noSuchUnit else .next ((recordStep s part).getD s)

def setPageHead (c : Core) (value : Nat) : Core :=
  let r := c.pageRing
  if (value + 2 ^ 64 - r.head) % 2 ^ 64 ≤ (r.tail + 2 ^ 64 - r.head) % 2 ^ 64 then
    { c with pageRing := { r with head := value } } else c

def execPageFaultRingHeadWrite (core : Nat) (value : W64) (s : State) : Out :=
  if core ≥ 768 then .fault .noSuchUnit else .next (modCore s core fun c => setPageHead c value.toNat)

/-! ## Page commands (R382) -/

/-- PGSTAT values. -/
def pgDone : Nat := 0
def pgBusy : Nat := 2
def pgMalformed : Nat := 3
def pgContext : Nat := 4
def pgTable : Nat := 5

def cmdBase (cmd : PageCmd) : Nat := cmd.ia.toNat
def cmdCtx (cmd : PageCmd) : Nat := cmd.ctx.toNat

/-- Fields that every command needs well-formed; reserved fields are ignored (R7). -/
def cmdOk (p : Nat) (cmd : PageCmd) : Bool :=
  1 ≤ cmd.count.toNat && cmd.count.toNat ≤ 65536 && cmdCtx cmd < 4096 &&
  cmdBase cmd < 2 ^ 52 && cmdBase cmd % 65536 = 0 && field (cmdBase cmd) 48 4 = p &&
  field (cmdBase cmd) 0 48 + 65536 * cmd.count.toNat ≤ 2 ^ 48

/-- A page lies in a command's range of `n` bytes. -/
def inCmd (cmd : PageCmd) (n : Nat) (page : Nat) : Bool := cmdBase cmd ≤ page * 65536 && page * 65536 < cmdBase cmd + n
def reqIn (s : State) (cmd : PageCmd) (n : Nat) (h : Held) : Bool :=
  h.req.ctx = cmdCtx cmd && (reqPages s h.req).any (inCmd cmd n)

def mapsPage (s : State) (p ctx ia : Nat) : Bool := match walk s p ctx ia with | .leaf .. => true | .none _ => false

/-- Parts of the B and A rows that an `mmam` has still to read (R263). -/
def mmamSpans (o : EngineOp) (n : Nat) : List (Nat × Nat) :=
  let fresh := o.buf = []
  let rows := (activeRows o).drop o.row
  let partsB := if fresh || (o.row = 0 && o.todo.all fun e => n ≤ e.1) then [(0, n)] else o.todo.filter fun e => e.1 < n
  let partsA := if fresh then [(n, 256)] else o.todo.filter fun e => n ≤ e.1
  let inRow := fun (e : Nat × Nat) (r : Nat) =>
    (o.vb + r * o.vc 1 + (e.1 - 256 * r), min (e.1 + e.2) (256 * (r + 1)) - max e.1 (256 * r))
  (partsB.flatMap fun e => ((List.range (e.2 / 256 + 2)).map fun i => inRow e (e.1 / 256 + i)).filter (·.2 ≠ 0)) ++
    partsA.map (fun e => (o.va + rows.headD 0 * o.vc 0 + (e.1 - n), e.2)) ++
    (rows.drop 1).map fun r => (o.va + r * o.vc 0, 256)

/-- Those of the rows of an `mld` (R265). -/
def mldSpans (o : EngineOp) : List (Nat × Nat) :=
  let rows := (activeRows o).drop o.row
  (if o.buf = [] then [(0, 256)] else o.todo).map (fun e => (o.va + rows.headD 0 * o.vb + e.1, e.2)) ++
    (rows.drop 1).map fun r => (o.va + r * o.vb, 256)

/-- Parts of global memory that an operation has still to reach: address and bytes. -/
def opSpans (o : EngineOp) : List (Nat × Nat) :=
  match o.instr with
  | .mmam _ f => mmamSpans o (256 * ((mmaPair f.fmtA f.fmtB true).map (·.n)).getD 0)
  | .mld .. => mldSpans o
  | .mflush .. => o.todo.map fun e => (o.va + e.1 / 256 * o.vb + e.1 % 256, e.2)
  | .cpyt .. => cpytSpans o
  | _ => o.todo.map (fun e => (o.vb + e.1, e.2)) ++
      (o.unwritten.filter fun e => sourceRead o.todo e.1 e.2).map fun e => (o.va + e.1, e.2)

/-- Their 64 KiB pages, by intermediate address. -/
def opPages (d : District) (o : EngineOp) : List Nat :=
  ((opSpans o).flatMap fun e => (List.range (e.2 / 65536 + 1)).map (fun i => iaOf d ((e.1 + 65536 * i) % 2 ^ 64) / 65536) ++
    [iaOf d ((e.1 + e.2 - 1) % 2 ^ 64) / 65536]).eraseDups

/-- Pages of a command's range of `n` bytes that a held operation has still to reach. -/
def opPagesIn (s : State) (cmd : PageCmd) (n : Nat) (o : EngineOp) : List Nat :=
  match districtAt s o.district with
  | none => []
  | some d => if o.held && d.ctx = cmdCtx cmd then (opPages d o).filter (inCmd cmd n) else []

/-- A MAP or RETRY releases the lines of held operations (R385). -/
def releaseOps (s : State) (cmd : PageCmd) (n : Nat) : State :=
  { s with cores := s.cores.map fun (c : Nat × Core) => (c.1, { c.2 with ops := c.2.ops.map fun (o : EngineOp) =>
      { o with needs := o.needs ++ ((opPagesIn s cmd n o).map fun a => (cmdCtx cmd, a)) } }) }

/-- An operation needs a mapped page of the range. -/
def opNeeds (s : State) (p : Nat) (cmd : PageCmd) (n : Nat) : Bool :=
  s.cores.any fun c => c.2.ops.any fun o => (opPagesIn s cmd n o).any fun a =>
    o.needs.contains (cmdCtx cmd, a) && mapsPage s p (cmdCtx cmd) (a * 65536)

/-- A MAP or RETRY has named the range: misses there are reported anew, and what waits for it walks again. -/
def retryRange (s : State) (p : Nat) (cmd : PageCmd) (n : Nat) : State :=
  let out := fun (m : Miss) => !(m.ctx = cmdCtx cmd && inCmd cmd n (m.ia / 65536))
  let s := modPart s p fun x => { x with reported := x.reported.filter out, toServe := x.toServe.filter out }
  let s := retryAll s true fun h => h.why == .page && reqIn s cmd n h
  replayLogs (releaseOps s cmd n) true (reqIn s cmd n)

/-- The level-1 table of a context. -/
def rootOf (s : State) (p ctx : Nat) : Nat := field (readNat s.mem.bytes (ctxEntryAt s p ctx) 8) 21 15 * 2 ^ 21

/-- The pointer at a level leads to a table. -/
def pointerAt (s : State) (p table idx : Nat) : Option Nat :=
  let e := readNat s.mem.bytes (hbmPlace p (table + 8 * idx)) 8
  if bit e 0 && !bit e 1 && field e 36 28 = 0 then some (field e 8 28 * 256) else none

/-- Where the leaf for `ia` stands: its place and the bits of its page, the smallest size that the pointer tables in
place lead to. -/
def leafSlot (s : State) (p ctx ia : Nat) : Nat × Nat :=
  let t1 := rootOf s p ctx
  match pointerAt s p t1 (field ia 30 18) with
  | none => (hbmPlace p (t1 + 8 * field ia 30 18), 30)
  | some t2 => match pointerAt s p t2 (field ia 21 9) with
    | none => (hbmPlace p (t2 + 8 * field ia 21 9), 21)
    | some t3 => (hbmPlace p (t3 + 8 * field ia 16 5), 16)

/-- Copies `n` bytes of memory from one place to another. -/
def copyRange (m : Memory) (src dst n : Nat) : Memory :=
  (windowOf m src n).foldl (fun m (e : Host.Cell) => writeByte m (dst + e.1) e.2)
    (mfilter (fun i => i < dst || dst + n ≤ i) m)

/-- Drops marks of the caches for a frame: its lines have been written back and invalidated. -/
def cleanFrame (s : State) (base n : Nat) : State :=
  let out := fun (l : Nat) => l * 128 < base || base + n ≤ l * 128
  let s := homeSees s ((s.mem.l1Dirty.filter fun e => !out e.2).map (·.2))
  { s with mem := { s.mem with
      l1Dirty := s.mem.l1Dirty.filter (fun e => out e.2), sliceDirty := s.mem.sliceDirty.filter out,
      released := s.mem.released.filter (fun e => out e.1) } }

/-- A frame that is written with zeros. -/
def zeroFrame (s : State) (base n : Nat) : State :=
  let s := cleanFrame (modMem s fun m => mfilter (fun i => i < base || base + n ≤ i) m) base n
  { s with mem := { s.mem with poison := s.mem.poison.filter fun l => l * 128 < base || base + n ≤ l * 128 } }

/-- The frames of a leaf: that of its home, and of its replicas (R387). -/
def framesOf (p addr : Nat) (replicated : Bool) : List Nat :=
  if replicated then ([0, 1, 2, 3].map fun d => hbmPlace (replicaPart p d) addr).eraseDups else [hbmPlace p addr]

/-- A leaf that a MAP makes, and one that an UNMAP takes away (R53). -/
def addFrame (s : State) (f : Frame) : State := { s with mem := { s.mem with frames := s.mem.frames ++ [f] } }
def dropFrames (s : State) (ctx ia : Nat) : State :=
  { s with mem := { s.mem with frames := s.mem.frames.filter fun f => !(f.ctx = ctx && f.ia ≤ ia && ia < f.ia + f.size) } }

/-- The pages of a leaf of 2^bits bytes that is made or taken away are owned as the leaf says (R356). -/
def dropFlips (s : State) (ctx ia bits : Nat) : State :=
  { s with mem := { s.mem with
      flipped := s.mem.flipped.filter fun f => !(f.1 = ctx && f.2 * 65536 / 2 ^ bits = ia / 2 ^ bits) } }

def cmdMap (s : State) (p : Nat) (cmd : PageCmd) : Nat × State :=
  let ctx := cmdCtx cmd
  let leaf := cmd.leaf.toNat
  let addr := field leaf 8 28 * 256
  let bits := (leafSlot s p ctx (cmdBase cmd)).2
  let size := 2 ^ bits
  let n := cmd.count.toNat
  let ias := (List.range n).map fun i => cmdBase cmd + i * size
  if !bit leaf 0 || !bit leaf 1 || bit leaf 4 || field leaf 36 28 ≠ 0 || addr % 65536 ≠ 0 then (pgMalformed, s)
  else if !ctxValid s p ctx then (pgTable, s)
  else if ias.any (mapsPage s p ctx) then (pgBusy, s)
  else if (bits ≠ 16 && (bit leaf 3 || cmdBase cmd % size ≠ 0 || addr % size ≠ 0)) ||
      ias.any (fun ia => (leafSlot s p ctx ia).2 ≠ bits) then (pgTable, s)
  else if 2 ^ 36 < addr + n * size || 2 ^ 48 < field (cmdBase cmd) 0 48 + n * size then (pgMalformed, s)
  else
    let s := (List.range n).foldl (fun s i =>
      let s := if bit leaf 3 then
          (framesOf p (addr + i * size) true).foldl (fun s f =>
            if f = hbmPlace p (addr + i * size) then s
            else modMem s fun m => copyRange m (hbmPlace p (addr + i * size)) f size) s
        else s
      let s := modMem s fun m => writeNat m (leafSlot s p ctx (cmdBase cmd + i * size)).1 8 (leaf + i * size)
      (framesOf p (addr + i * size) (bit leaf 3)).foldl (fun s f =>
        addFrame s ⟨f, size, ctx, cmdBase cmd + i * size, !bit leaf 2⟩) (dropFlips s ctx (cmdBase cmd + i * size) bits)) s
    (pgDone, retryRange s p cmd (n * size))

def cmdUnmap (s : State) (p : Nat) (cmd : PageCmd) : Nat × State :=
  let ctx := cmdCtx cmd
  let n := 65536 * cmd.count.toNat
  let ias := (List.range cmd.count.toNat).map fun i => cmdBase cmd + 65536 * i
  let pinned := ias.any fun ia => match walk s p ctx ia with | .leaf e _ _ => bit e 5 | .none _ => false
  let needed := s.cores.any fun c => (c.2.held ++ c.2.log).any fun h => h.needed && reqIn s cmd n h
  if pinned || needed || opNeeds s p cmd n then (pgBusy, s)
  else (pgDone, ias.foldl (fun s ia => match walk s p ctx ia with
    | .none _ => s
    | .leaf e at_ bits =>
      let s := (framesOf p (field e 8 28 * 256) (bit e 3)).foldl (fun s f => cleanFrame s f (2 ^ bits)) s
      dropFlips (dropFrames (modMem s fun m => writeNat m at_ 8 (e - e % 2)) ctx ia) ctx ia bits) s)

/-- Pages that keep a wave's ready fibres from their next instruction (R54, R148, R149). -/
def fetchPages (s : State) (d : District) (w : Wave) : List Nat :=
  (w.fibres.filter fun e => fibreReady s.clock e.2).filterMap fun e =>
    let pc := e.2.pc.toNat
    (if e.2.fell then (skipPools s d pc).miss else match fetchWord s d pc with
      | .missing p ia fl => some (p, ia, fl)
      | .word h x => fallNeeded s d pc h x
      | .fault .. => none).map fun m => m.2.1 / 65536

/-- Districts with a held access or fetch, side-log entry, engine operation or sequencer context in a range (R382). -/
def waitingDistricts (s : State) (cmd : PageCmd) (n : Nat) : List Nat :=
  let lanes := s.cores.flatMap fun c => ((c.2.held.filter (·.why == .page) ++ c.2.log).filter (reqIn s cmd n)).map
    fun h => realDistrict h.req.district
  let opIn := fun (o : EngineOp) => (opPagesIn s cmd n o).any fun a =>
    field (a * 65536) 48 4 < 8 && !mapsPage s (field (a * 65536) 48 3) (cmdCtx cmd) (a * 65536)
  let ops := s.cores.flatMap fun c => (c.2.ops.filter opIn).map fun o => realDistrict o.district
  let seqs := s.seqs.filterMap fun q => match seqHeldAt s q.1, envOf s q.1 with
    | some (c, ia), some e => if c = cmdCtx cmd && inCmd cmd n (ia / 65536) then some e.dk else none
    | _, _ => none
  let going := s.flights.filterMap fun f => match f.2.again with
    | some g => if f.2.waits ≠ 0 && g.page.any fun p => p.1 = cmdCtx cmd && inCmd cmd n (p.2 / 65536) then
        some (realDistrict g.copy) else none
    | none => none
  let fetches := s.waves.filterMap fun e => match waveDistrict s e.2 with
    | none => none
    | some d => if d.ctx = cmdCtx cmd && (fetchPages s d e.2).any (inCmd cmd n) then
        (crewAt s e.2.id.crew).map (·.district) else none
  (lanes ++ ops ++ seqs ++ going ++ fetches).eraseDups

/-- R382: district code 50, with the page that the command names, once to each district that waits there. -/
def cmdNoframe (s : State) (p : Nat) (cmd : PageCmd) : Nat × State :=
  (pgDone, (waitingDistricts s cmd (65536 * cmd.count.toNat)).foldl (fun s d =>
    postFault s d { event := 2, code := 50, part := p, ctx := cmdCtx cmd, va := cmd.ia.toNat }) s)

/-- A command of the firmware of a partition, or of a handler core, whose PGSTAT holds the outcome. -/
def pageCommand (handler : Option Nat) (part : Nat) (cmd : PageCmd) (f : State → Nat → PageCmd → Nat × State) (s : State) :
    Out :=
  match handler with
  | none => if part ≥ 8 then .fault .noSuchUnit else .next (if cmdOk part cmd then (f s part cmd).2 else s)
  | some core =>
    if core ≥ 768 then .fault .noSuchUnit
    else
      let p := partOfCore core
      let (st, s) := if !cmdOk p cmd then (pgMalformed, s)
        else if ctxHandler s p (cmdCtx cmd) ≠ some core then (pgContext, s)
        else f s p cmd
      .next (modCore s core fun c => { c with pgstat := st })

def execMap (handler : Option Nat) (part : Nat) (cmd : PageCmd) (s : State) : Out := pageCommand handler part cmd cmdMap s
def execUnmap (handler : Option Nat) (part : Nat) (cmd : PageCmd) (s : State) : Out := pageCommand handler part cmd cmdUnmap s
/-- The model holds no translation back from memory, so there is nothing to drop. -/
def execInval (handler : Option Nat) (part : Nat) (cmd : PageCmd) (s : State) : Out :=
  pageCommand handler part cmd (fun s _ _ => (pgDone, s)) s
def execRetry (handler : Option Nat) (part : Nat) (cmd : PageCmd) (s : State) : Out :=
  pageCommand handler part cmd (fun s p cmd => (pgDone, retryRange s p cmd (65536 * cmd.count.toNat))) s
def execNoframe (handler : Option Nat) (part : Nat) (cmd : PageCmd) (s : State) : Out :=
  pageCommand handler part cmd cmdNoframe s

/-- The firmware serves its oldest record under route 0 with this frame: zeroed, mapped, and taken from the quota; with
no quota left, or no table to map it in, it issues NOFRAME (R383). -/
def execFirmwarePageFaultService (part : Nat) (frame : Nat) (s : State) : Out :=
  if part ≥ 8 then .fault .noSuchUnit
  else match (partOf s part).toServe with
    | [] => .next s
    | m :: r =>
      let s := modPart s part fun x => { x with toServe := r }
      let cmd : PageCmd := ⟨0, BitVec.ofNat 16 m.ctx, 1, BitVec.ofNat 64 m.ia, BitVec.ofNat 64 (frame % 2 ^ 20 * 65536 + 3), 0⟩
      if mapsPage s part m.ctx m.ia then .next (retryRange s part cmd 65536)
      else if ctxQuota s part m.ctx = 0 || (leafSlot s part m.ctx m.ia).2 ≠ 16 then .next (cmdNoframe s part cmd).2
      else
        let base := hbmPlace part (frame % 2 ^ 20 * 65536)
        let t := zeroFrame s base 65536
        match cmdMap t part cmd with
        | (0, u) =>
          let a := ctxEntryAt u part m.ctx + 0x0C
          .next (modMem u fun x => writeNat x a 4 (ctxQuota u part m.ctx - 1))
        | _ => .next (cmdNoframe s part cmd).2

end Sys2Proof.Machine
end

