-- ==== Sys2Proof/Machine/Remote.lean ====
section
/-! DEFINITION. Accesses that leave the package and accesses that arrive (R51, R77, R431 to R435). -/

namespace Sys2Proof.Machine

/-! ## Ports and routes (R431 to R435) -/

def portInit : Port := ⟨false, 0, 0, 0, 0x1FFF, 0⟩
def portAt (s : State) (i : Nat) : Port := (mget s.fabric.ports i).getD portInit
def modPort (s : State) (i : Nat) (f : Port → Port) : State :=
  { s with fabric := { s.fabric with ports := mset s.fabric.ports i (f (portAt s i)) } }
/-- Ports of the route to a node. -/
def routePorts (s : State) (node : Nat) : List Nat :=
  (List.range 18).filter (bit ((mget s.fabric.routes node).getD 0).toNat)
/-- A request to the node can go. A route taken away meanwhile does not affect requests issued before (R433). -/
def routeUp (s : State) (node : Nat) : Bool :=
  routePorts s node = [] || (routePorts s node).any fun i => (portAt s i).up
/-- The port that carries a line to a node (R433). -/
def routePort (s : State) (node ia : Nat) : Option Nat :=
  let ps := routePorts s node
  if ps = [] then none else ps[field ia 7 7 % ps.length]?
/-- 100 ms in clocks. -/
def downLimit : Nat := 125000000
/-- Every port of the route has been down for 100 ms. -/
def routeDead (s : State) (node : Nat) : Bool :=
  routePorts s node ≠ [] && (routePorts s node).all fun i => !(portAt s i).up && (portAt s i).downSince + downLimit ≤ s.clock

/-- Flits of a request or a reply with `n` data bytes: 64 bytes each, one more for the header of data (R430). -/
def flitsOf (n : Nat) : Nat := 1 + (n + 63) / 64
/-- Counts the flits that one exchange sends and receives. -/
def countFlits (s : State) (node ia sent received : Nat) : State :=
  match routePort s node ia with
  | none => s
  | some i => modPort s i fun p => { p with sent := p.sent + sent, received := p.received + received }

/-- Where a request leads outside the package: the node, none for the host, and the places of its bytes. -/
def outsideOf (s : State) (r : MemReq) : Option (Option Nat × List Nat) :=
  match districtAt s r.district with
  | none => none
  | some d =>
    let at_ := (List.range r.size).filterMap fun i => locationOf s d ((r.va.toNat + i) % 2 ^ 64)
    let node := (at_.find? fun e => e.1 ≠ s.fabric.node).map (·.1)
    if at_.length ≠ r.size then none
    else some (node, at_.map fun e => if e.1 = s.fabric.node then hostPlace (field e.2.2 0 48) else remotePlace e.1 e.2.2)

def outsideLines (s : State) (r : MemReq) : List Nat := (((outsideOf s r).map (·.2)).getD []).map lineOf

/-- Earlier requests to the same line that have not reached the home (R434). -/
def remoteBehind (s : State) (seq : Nat) (ls : List Nat) : Bool :=
  s.fabric.writes.any (fun w => w.1 < seq && (outsideLines s w.2.req).any ls.contains) ||
  s.cores.any fun c => c.2.held.any fun h => h.why == .remote && h.seq < seq && (outsideLines s h.req).any ls.contains

/-! ## Replies and acknowledgements -/

/-- A held request is performed outside, and its lane goes on. -/
def serveRemote (s : State) (core : Nat) (h : Held) : Option State :=
  let r := h.req
  let rec_ := reqRecord s r
  match outsideOf s r with
  | none => none
  | some (node, ps) =>
    let up := match node with
      | some n => routeUp s n
      | none => s.manage.linkUp
    let due := ((mget s.flights r.flight).map (·.due)).getD 0
    if !up || s.clock < due || remoteBehind s h.seq (ps.map lineOf) then none
    else if r.code != 0 && replayGate s (realDistrict r.district) rec_ = .stall then none
    else
      let s := modCore s core fun c => { c with held := c.held.filter (·.seq ≠ h.seq) }
      let s := match node with
        | some n => countFlits s n (ps.headD 0) (if writesMem r.op then flitsOf r.size else 1) (flitsOf r.size)
        | none => s
      match performOrdered s { r with scope := 5 } ps with
      | .done t ws =>
        let t := if r.code != 0 then (replayLog t (realDistrict r.district) rec_).1 else t
        some (lanePerformed (noteInPlace t r (writesNow r (ofBytes (seenBytes s ps 0)))) r ws)
      | .fault f => some (laneFaulted s r f)
      | _ => none

/-- The other words of a whole-line access that waits for its replies (R66). -/
def serveLine (core : Nat) : List Held → State → State
  | [], s => s
  | h :: r, s => serveLine core r ((serveRemote s core h).getD s)

/-- The first request of a flight that can be served, with the other words of a whole-line access. -/
def replyStep (s : State) (flight : Nat) : Option State :=
  s.cores.findSome? fun c =>
    let hs := c.2.held.filter fun h => h.why == .remote && h.req.flight = flight
    hs.findSome? fun h => (serveRemote s c.1 h).map fun t =>
      if h.req.line then serveLine c.1 (hs.filter fun x => x.req.line && x.seq ≠ h.seq) t else t

/-- R35, R51. -/
def execRemoteReply (flight : Nat) (s : State) : Out := .next ((replyStep s flight).getD s)

/-- The home package performs one write. -/
def ackWrite (s : State) (n : Nat) : Option State :=
  match mget s.fabric.writes n with
  | none => none
  | some w =>
    match outsideOf s w.req with
    | none => none
    | some (_, ps) =>
      if !routeUp s w.node || s.clock < w.due || remoteBehind s n (ps.map lineOf) then none
      else
        let s := { s with fabric := { s.fabric with writes := mdel s.fabric.writes n } }
        let s := countFlits s w.node (ps.headD 0) (flitsOf w.req.size) 1
        some (match performAt s { w.req with scope := 5 } ps with
          | .done s _ => s
          | _ => s)

/-- The writes of a whole-line store after its first (R66). -/
def ackLine : List Nat → State → State
  | [], s => s
  | n :: r, s => ackLine r ((ackWrite s n).getD s)

/-- The home package performs a write, or the whole line that it belongs to, and acknowledges it (R66, R434). -/
def ackStep (s : State) (n : Nat) : Option State :=
  match mget s.fabric.writes n with
  | none => none
  | some w =>
    let rest := (s.fabric.writes.filter fun e => e.1 ≠ n && w.req.line && e.2.req.line && e.2.req.flight = w.req.flight).map
      Prod.fst
    (ackWrite s n).map fun t => wakeDeferred isDeferred (ackLine rest t)

def execRemoteWriteAck (write : Nat) (s : State) : Out := .next ((ackStep s write).getD s)

/-- R435: the requests that wait for a dead route. -/
def deadHeld (s : State) (node : Nat) : List (Nat × Held) :=
  s.cores.flatMap fun c => (c.2.held.filter fun h => h.why == .remote && (outsideOf s h.req).map (·.1) = some (some node)).map
    fun h => (c.1, h)

def deadStep (s : State) (node : Nat) : Option State :=
  let hs := deadHeld s node
  let ws := s.fabric.writes.filter fun w => w.2.node = node
  if !routeDead s node || (hs = [] && ws = []) then none
  else
    let s := hs.foldl (fun s e =>
      let s := modCore s e.1 fun c => { c with held := c.held.filter (·.seq ≠ e.2.seq) }
      laneFaulted s e.2.req { cause := 4, access := accessCode e.2.req.op, addr := e.2.req.va.toNat }) s
    let s := ws.foldl (fun s w =>
      let r := w.2.req
      let s := { s with fabric := { s.fabric with writes := mdel s.fabric.writes w.1 } }
      let ia := ((districtAt s r.district).map fun d => iaOf d r.va.toNat).getD 0
      postFault s r.district
        { event := 5, part := if r.core < 768 then partOfCore r.core else 0, ctx := r.ctx, va := ia }) s
    some (wakeDeferred isDeferred s)

def execRouteDownTimeout (node : Nat) (s : State) : Out := .next ((deadStep s node).getD s)

/-- R431: time only. -/
def execFlitRetry (port : Nat) (s : State) : Out :=
  if port ≥ 18 then .fault .noSuchUnit else .next (modPort s port fun p => { p with retries := p.retries + 1 })

/-- A port that some route names (R433). -/
def portRouted (s : State) (port : Nat) : Bool := s.fabric.routes.any fun r => bit r.2.toNat port

def setReady (s : State) (i : Nat) (on : Bool) : State :=
  let w := s.secure.readiness.toNat
  let b := 2 ^ i
  { s with secure := { s.secure with
      readiness := BitVec.ofNat 64 (if on then (if bit w i then w else w + b) else if bit w i then w - b else w) } }

/-- R432, R433, R435: no port trains before the node number is set, or while no route names it. -/
def execPortLinkChange (port : Nat) (up : Bool) (peer : Nat) (s : State) : Out :=
  if port ≥ 18 then .fault .noSuchUnit
  else if up then
    if s.fabric.nodeSet && portRouted s port then
      .next (setReady (modPort s port fun p => { p with up := true, peer := peer % 65536 }) (19 + port) true)
    else .next s
  else .next (setReady (modPort s port fun p =>
    { p with up := false, peer := 0x1FFF, downSince := if p.up then s.clock else p.downSince }) (19 + port) false)

/-! ## Accesses that arrive (R51, R77) -/

/-- How an access from outside the compute dies was answered. -/
def ansDone : Nat := 0
/-- refused: a reserved region, a host-owned page, or an operation that the home does not have -/
def ansRefused : Nat := 1
/-- not performed yet: no page, an owned line, or a partition in reset -/
def ansHeld : Nat := 2
/-- poisoned data -/
def ansPoison : Nat := 3

def answer (s : State) (code : Nat) (bs : List Byte) : State := { s with reply := ⟨bs, code⟩ }

/-- Bytes of an access at their intermediate addresses. -/
def outsideBytes (s : State) (a : OutsideAccess) (write : Bool) : List (Nat × ByteAt) :=
  (List.range a.size).map fun i => (a.ia + i, byteAtIa s a.ctx .home write ((a.ia + i) % 2 ^ 52))

def outsideSize (n : Nat) : Bool := n == 1 || n == 2 || n == 4 || n == 8 || n == 16

/-- The access acts at `.system` at its home slice. One that reads, from the processor chiplet, is a wide acquire: narrow
releases into its lines are promoted, which those of other packages are not (R57). DEDUCED (log 78). -/
def outsideStep (chiplet : Bool) (s : State) (a : OutsideAccess) : State :=
  let write := match a.kind with | .load => false | _ => true
  let p := if field a.ia 48 4 < 8 then field a.ia 48 3 else field a.ia 32 3
  let bad := match a.kind with
    | .atomic k => 12 ≤ k.toNat || !(a.size == 4 || a.size == 8) || a.ia % a.size ≠ 0
    | .cas => !(a.size == 4 || a.size == 8 || a.size == 16) || a.ia % a.size ≠ 0
    | _ => false
  let act := fun (s : State) (ps : List Nat) =>
    let old := ofBytes (seenBytes s ps 0)
    let took := fun (t : State) => tookShared s t ps
    let w := 8 * a.size
    let store := fun (x : Nat) => storeAt s a.ctx 0 true ps (toBytes a.size x)
    match a.kind with
    | .load => if poisoned s ps then answer s ansPoison [] else answer (took s) ansDone (toBytes a.size old)
    | .store => answer (store a.data.toNat) ansDone []
    | .atomic k => if poisoned s ps then answer s ansPoison []
        else answer (took <| store (atomValue k.toNat w old (a.data.toNat % 2 ^ w)).1) ansDone (toBytes a.size old)
    | .cas => if poisoned s ps then answer s ansPoison []
        else answer (took <| if old = a.cmp.toNat % 2 ^ w then store (a.data.toNat % 2 ^ w) else s) ansDone (toBytes a.size old)
  if bad || !outsideSize a.size || 2 ^ 52 ≤ a.ia then answer s ansRefused []
  else if field a.ia 48 4 < 9 && !partReady s p then answer s ansHeld []
  else match reachAll (outsideBytes s a write) with
    | .places ps =>
      if engineOwns s ps then answer s ansHeld []
      else
        let s := markLeaf s a.ctx a.ia write
        act (if chiplet && a.kind ≠ .store then promote s 4 (ps.map lineOf).eraseDups else s) ps
    | .host ps => act (if write then markHostPlaces s ps else s) ps
    | .noPage p ia fl => answer (reportMiss s p a.ctx ia fl) ansHeld []
    | .readOnly .. => answer s ansDone (match a.kind with
        | .store => []
        | _ => match reachAll (outsideBytes s a false) with
          | .places ps => readPlaces s ps
          | _ => [])
    | _ => answer s ansRefused []

def execArrivingRemoteAccess (access : OutsideAccess) (s : State) : Out := .next (outsideStep false s access)

/-- R77: an application core of the processor chiplet, on the shared directory. -/
def execProcessorChipletAccess (app : Nat) (access : OutsideAccess) (s : State) : Out :=
  if app ≥ 64 then .fault .noSuchUnit else .next (outsideStep true s access)

end Sys2Proof.Machine
end

