-- ==== Sys2Proof/Machine/Districts.lean ====
section
/-! DEFINITION. Districts: control blocks and their checks, creation, reload and destruction (R33, R333 to R336, R341,
R365, R376, R439), tenants (R340), and flips of page ownership (R356). -/

namespace Sys2Proof.Machine

/-! ## The control block (R333, R334, R365) -/

def bf (b : List Byte) (off n : Nat) : Nat := ofBytes ((b.drop off).take n)
/-- Some set bit of R333 is set in a block. -/
def blockSets (b : List Byte) (i : Nat) : Bool := bit (bf b 8 4) i

/-- Range register `i` of a block. -/
def rangeIn (b : List Byte) (i : Nat) : Range :=
  let o := 0x100 + 32 * i
  ⟨BitVec.ofNat 64 (bf b o 8), BitVec.ofNat 64 (bf b (o + 8) 8), BitVec.ofNat 64 (bf b (o + 0x10) 8),
   bf b (o + 0x18) 2 % 2 ^ 13, BitVec.ofNat 5 (bf b (o + 0x1A) 1), bit (bf b (o + 0x1A) 1) 7⟩
def rangesIn (b : List Byte) : List Range := (List.range 16).map (rangeIn b)

/-- Every reserved field of a block is 0. The fields that the firmware writes are ignored. -/
def blockRsvOk (b : List Byte) : Bool :=
  field (bf b 8 4) 10 22 = 0 && field (bf b 0x00C 2) 12 4 = 0 && field (bf b 0x00E 1) 4 4 = 0 &&
  field (bf b 0x01C 4) 3 29 = 0 && bf b 0x022 2 = 0 && field (bf b 0x034 4) 8 24 = 0 && bf b 0x044 4 = 0 &&
  bf b 0x054 4 = 0 && bf b 0x064 4 = 0 && bf b 0x080 128 = 0 &&
  (List.range 16).all fun i =>
    let o := 0x100 + 32 * i
    field (bf b (o + 0x18) 2) 13 3 = 0 && field (bf b (o + 0x1A) 1) 5 2 = 0 && bf b (o + 0x1B) 5 = 0

/-- Sizes and counts of a block. -/
def blockSizesOk (b : List Byte) : Bool :=
  isPow2 (bf b 0x070 4) && (!blockSets b 2 || isPow2 (bf b 0x018 4)) &&
  (!blockSets b 6 || bf b 0x038 8 = 0 || isPow2 (bf b 0x040 4)) &&
  (!blockSets b 7 || (1 ≤ bf b 0x050 4 && bf b 0x050 4 ≤ 65536)) && (!blockSets b 8 || bf b 0x060 4 ≤ 256) &&
  1 ≤ bf b 0x074 4 && bf b 0x074 4 ≤ 16

/-- A task queue descriptor of R439; its reserved bytes are ignored (R7). -/
def descriptorOk (bs : List Byte) : Bool :=
  bs.length = 32 && bf bs 0 8 % 16 = 0 && isPow2 (bf bs 8 4) && 16 ≤ bf bs 8 4 && bf bs 8 4 ≤ 65536

def blockOk (b : List Byte) : Bool := b.length = 768 && blockRsvOk b && blockSizesOk b

/-- The block with the fields that the firmware writes: parent address, depth, belfry tags. -/
def stampBlock (b : List Byte) (parentAt depth tags : Nat) : List Byte :=
  toBytes 8 parentAt ++ (b.drop 8).take 7 ++ toBytes 1 depth ++ (b.drop 0x10).take 0x24 ++ toBytes 4 tags ++ b.drop 0x38

/-- The budgets of a block: set bit, offset and bytes (R333). -/
def budgetFields : List (Nat × (Nat × Nat)) := [(4, 0x020, 2), (4, 0x024, 4), (4, 0x028, 4), (4, 0x02C, 4), (5, 0x030, 4)]

/-- A budget that a block sets larger than its parent's becomes the parent's (R33, R365). -/
def clampBudgets (s : State) (parent : Option Nat) (b : List Byte) : List Byte :=
  match parent with
  | none => b
  | some p => budgetFields.foldl (fun b f =>
      let (i, o, n) := f
      match setter s 9 p i with
      | some y => if blockSets b i then b.take o ++ toBytes n (min (bf b o n) (blkNat y o n)) ++ b.drop (o + n) else b
      | none => b) b

/-! ## Copies (R33, R335) -/

def debugInit : Debug := ⟨⟨0, 0, 0, [], false, 0, 0, 0⟩, 0, [], ⟨0, 0, 0, 0⟩, [], 0, []⟩
def districtInit : District :=
  ⟨[], 0, 0, none, 1, 0, 0, [], [], [], 0, [], 0, 0, 0, [], none, [], debugInit, ⟨false, [], []⟩⟩

/-- Splits bytes into entries of `n` bytes. -/
def entries (n : Nat) : Nat → List Byte → List (List Byte)
  | 0, _ => []
  | k + 1, bs => bs.take n :: entries n k (bs.drop n)

/-- What a district has under R33: context, range registers, and the routine table of the district that sets it. -/
def refreshOne (s : State) (k : Nat) : State :=
  modDistrict s k fun x => { x with
    ctx := inherited s k 0 0x00C 2 % 4096,
    ranges := ((setter s 9 k 9).map fun y => rangesIn y.block).getD [],
    routines := ((setter s 9 k 8).map (·.routines)).getD [] }

/-- Every district's, after a block has changed. Old copies keep theirs. -/
def refreshAll (s : State) : State :=
  ((mkeys s.districts).filter (· < 2 ^ 32)).foldl refreshOne s

/-- The tables of a district that sets them, read at their addresses through its range registers. -/
def copyTables (s : State) (k : Nat) : State :=
  match districtAt s k with
  | none => s
  | some x =>
    let b := x.block
    let types := if blockSets b 7 then entries 64 (bf b 0x050 4) (bytesFor s k (bf b 0x048 8) (64 * bf b 0x050 4)) else []
    let routines := if blockSets b 8 then entries 16 (bf b 0x060 4) (bytesFor s k (bf b 0x058 8) (16 * bf b 0x060 4)) else []
    modDistrict s k fun x => { x with types := types, routines := routines }

/-- The task queue descriptors of a block, in the district's address space. -/
def descriptors (s : State) (k : Nat) (b : List Byte) : List (List Byte) :=
  (List.range (bf b 0x074 4)).map fun i => bytesFor s k ((bf b 0x078 8 + 32 * i) % 2 ^ 64) 32

def newQueue (part : Nat) (bs : List Byte) : TaskQueue :=
  ⟨BitVec.ofNat 64 (bf bs 0 8), bf bs 8 4, [], 0, 0, 0, false, [], part, none⟩

/-- A district of another tenant has the context of district `k`; tenants never share one (R340). -/
def ctxTaken (s : State) (k : Nat) : Bool :=
  match districtAt s k with
  | none => false
  | some x => s.districts.any fun e => e.1 < 2 ^ 32 && e.2.tenant ≠ x.tenant && e.2.ctx = x.ctx

/-- A new district of a tenant under a parent: none when R365 refuses it, or its context is another tenant's (R340). Its
queues are served by partition `part`. -/
def addDistrict (s : State) (tenant : Nat) (parent : Option Nat) (block : List Byte) (at_ part handle : Nat) :
    Option (Nat × State) :=
  let depth := match parent.bind (districtAt s) with
    | some x => x.depth + 1
    | none => 1
  if !blockOk block || depth > 8 then none
  else
    let (k, s) := takeSerial s
    let up := ((parent.bind (districtAt s)).map fun x => x.blockAt.toNat).getD 0
    let b := clampBudgets s parent (stampBlock block up depth 0)
    let x : District := { districtInit with
      block := b, blockAt := BitVec.ofNat 64 at_, blockPart := part, parent := parent, depth := depth, tenant := tenant,
      handle := BitVec.ofNat 32 handle }
    let s := refreshOne { s with districts := mset s.districts k x } k
    let ds := descriptors s k b
    if !ds.all descriptorOk || ctxTaken s k then none
    else
      let s := modDistrict s k fun x => { x with queues := ds.mapIdx fun i d => (i, newQueue part d) }
      some (k, refreshOne (copyTables s k) k)

/-! ## Functions and handles (R340, R341) -/

def functionInit : Function := ⟨false, [], [], [], [], [], [], false, true, 0, 0, 0, 0, [], []⟩
def functionAt (s : State) (f : Nat) : Function := (mget s.functions f).getD functionInit
def modFunction (s : State) (f : Nat) (g : Function → Function) : State :=
  { s with functions := mset s.functions f (g (functionAt s f)) }
/-- The district of a handle of a tenant's table. -/
def handleOf (s : State) (f h : Nat) : Option Nat := mget (functionAt s f).handles h
def rootDistrict (s : State) (f : Nat) : Option Nat := handleOf s f 0

/-- R340: the firmware creates the tenant's root district with handle 0 from this block; its queues are served by the
partition of the tenant's number modulo 8. For a tenant that is enabled the block is what function 0 has written since
where the root's block lies: a reload of the root reads it (R335). DESIGN CHOICE (log 63). -/
def execTenantEnable (fn : Nat) (block : List Byte) (s : State) : Out :=
  if fn > 64 then .fault .noSuchUnit
  else if (functionAt s fn).enabled then .next (modFunction s fn fun f => { f with rootBlock := block })
  else match addDistrict s fn none block 0 (fn % 8) 0 with
    | none => .next s
    | some (k, s) => .next (modFunction s fn fun f => { f with enabled := true, handles := [(0, k)], rootBlock := block })

/-- A free handle: the one requested, or the lowest for 0xFFFF (R341). -/
def freeHandle (s : State) (f want : Nat) : Option Nat :=
  let used := fun (h : Nat) => (handleOf s f h).isSome
  if want = 0xFFFF then ((List.range 1023).map (· + 1)).find? fun h => !used h
  else if 1 ≤ want && want ≤ 1023 && !used want then some want else none

/-- R341: the block is read at the parent's address with its R permission; the handle, or none for status 7. -/
def createDistrict (s : State) (f parent at_ want part : Nat) : Option (Nat × State) :=
  match districtAt s parent with
  | none => none
  | some x =>
    let block := match access s x .home permR at_ 768 with
      | .places ps | .host ps | .remote _ ps => readPlaces s ps
      | _ => []
    match freeHandle s f want with
    | none => none
    | some h => match addDistrict s f (some parent) block at_ part h with
      | none => none
      | some (k, s) => some (h, modFunction s f fun y => { y with handles := mset y.handles h k })

/-- The district has a child, or a task of it is queued or placed (R341). -/
def districtBusy (s : State) (k : Nat) : Bool :=
  s.districts.any (fun e => e.1 < 2 ^ 32 && e.2.parent = some k) ||
  s.crews.any (fun e => e.2.district = k) || s.saved.any (fun e => e.2.crew.district = k) ||
  ((districtAt s k).map fun x => x.queues.any fun q => q.2.waiting ≠ []).getD false ||
  s.launches.any fun l => l.2.district = k && l.2.appended < l.2.total

/-- R341, R364: the handle, tags, queues and the district itself are free. -/
def destroyDistrict (s : State) (f h : Nat) : Option State :=
  match handleOf s f h with
  | none => none
  | some k =>
    if h = 0 || districtBusy s k then none
    else
      let s := (List.range 8).foldl (fun s t => if (belfryAt s t).district = some k then freeTag s t else s) s
      some { modFunction s f (fun y => { y with handles := mdel y.handles h }) with districts := mdel s.districts k }

/-! ## Reload (R335, R376) -/

/-- A context of a crew of district `k` is in a run, which goes on with the copies it began with (R335). -/
def runOf (s : State) (k : Nat) (c : SeqCtx) : Bool := c.inRun && ((crewAt s c.owner).map (·.district)) = some k

/-- What was accepted for a district before a reload and is still under way: accesses, operations, runs of the
sequencer, and instructions that lanes go on with. -/
def districtInUse (s : State) (k : Nat) : Bool :=
  s.cores.any (fun c => (c.2.held ++ c.2.log).any (fun h => h.req.district = k) || c.2.ops.any fun o => o.district = k) ||
  s.fabric.writes.any (fun w => w.2.req.district = k) || s.hostWrites.any (·.district = k) ||
  s.seqs.any (fun c => c.2.old = some k || (c.2.old = none && runOf s k c.2)) ||
  s.flights.any fun f => (f.2.again.map (·.copy)) = some k

/-- Accepted accesses and operations of a district go on with its old copy, kept under a key of its own. -/
def keepOld (s : State) (k : Nat) : State :=
  match districtAt s k with
  | none => s
  | some x =>
    if !districtInUse s k then s
    else
      let (n, s) := takeSerial s
      let old := k + 2 ^ 32 * n
      let re := fun (r : MemReq) => if r.district = k then { r with district := old } else r
      let rh := fun (h : Held) => { h with req := re h.req }
      { s with
        districts := mset s.districts old { x with queues := [], evWaiting := [], token := none, tokenWaiters := [], dbg := debugInit },
        cores := s.cores.map fun c => (c.1, { c.2 with
          held := c.2.held.map rh, log := c.2.log.map rh,
          ops := c.2.ops.map fun o => if o.district = k then { o with district := old } else o }),
        seqs := s.seqs.map fun c => (c.1, if c.2.old = none && runOf s k c.2 then { c.2 with old := some old } else c.2),
        flights := s.flights.map fun f => (f.1, { f.2 with again := f.2.again.map fun g =>
          if g.copy = k then { g with copy := old } else g }),
        hostWrites := s.hostWrites.map fun w => if w.district = k then { w with district := old } else w,
        fabric := { s.fabric with writes := s.fabric.writes.map fun w => (w.1, { w.2 with req := re w.2.req }) } }

/-- Old copies that nothing uses any more go. -/
def dropOld (s : State) : State :=
  { s with districts := s.districts.filter fun e => e.1 < 2 ^ 32 || districtInUse s e.1 }

/-- A district and its descendants. -/
def subtree (s : State) (k : Nat) : List Nat :=
  ((mkeys s.districts).filter (· < 2 ^ 32)).filter fun j => (pathOf s 9 j).contains k

/-- R335: block and tables are copied anew at one point; none when R365 refuses the block, or its context is another
tenant's (R340). The queues do not change (R439). -/
def reloadDistrict (s : State) (k : Nat) : Option State :=
  match districtAt s k with
  | none => none
  | some x =>
    let block := match x.parent.bind (districtAt s) with
      | none => (functionAt s x.tenant).rootBlock
      | some p => match access s p .home permR x.blockAt.toNat 768 with
        | .places ps | .host ps | .remote _ ps => readPlaces s ps
        | _ => []
    if !blockOk block then none
    else
      let s := dropOld ((subtree s k).foldl keepOld s)
      let s := modDistrict s k fun y => { y with
        block := clampBudgets s x.parent (stampBlock block (blkNat y 0 8) y.depth (blkNat y 0x034 4)),
        replay := { y.replay with diverged := false } }
      let s := refreshAll s
      if ctxTaken s k then none else some (refreshAll (copyTables s k))

/-! ## Flips (R356) -/

/-- The leaf of a page of a district's mapping: place, entry, partition and page bits. -/
def flipLeaf (s : State) (d : District) (va : Nat) : Option (Nat × Nat × Nat × Nat) :=
  match rangeOf d va with
  | none => none
  | some g =>
    let ia := iaOf d va
    if !(g.node = s.fabric.node || g.node = 0x1FFF) || field ia 48 4 ≥ 8 then none
    else match walk s (field ia 48 3) d.ctx ia with
      | .leaf e at_ bits => some (at_, e, field ia 48 3, bits)
      | .none _ => none

def flipPages (va n : Nat) : List Nat := (List.range n).map fun i => (va + 65536 * i) % 2 ^ 64

/-- Status 6: a page that the district's mapping does not hold. -/
def flipBad (s : State) (d : District) (va n : Nat) : Bool :=
  n = 0 || n > 65536 || va % 65536 ≠ 0 || (flipPages va n).any fun a => (flipLeaf s d a).isNone

/-- The frames of 64 KiB that hold a range's pages. -/
def flipFrames (s : State) (d : District) (va n : Nat) : List Nat :=
  ((flipPages va n).flatMap fun a => match flipLeaf s d a with
    | some (_, e, p, bits) => framesOf p (field e 8 28 * 256 + iaOf d a % 2 ^ bits / 65536 * 65536) (bit e 3)
    | none => []).eraseDups

/-- An engine operation still owns a line of the range or has still to read it: its accesses were accepted before the
flip point, which comes when they are complete. -/
def flipWaits (s : State) (d : District) (va n : Nat) : Bool :=
  let fs := flipFrames s d va n
  let ias := (flipPages va n).map fun a => iaOf d a / 65536
  s.cores.any fun c => c.2.ops.any fun o =>
    (o.owns.any fun k => (keyLine s k).any fun l => fs.any fun f => f ≤ l * 128 && l * 128 < f + 65536) ||
    match districtAt s o.district with
    | some x => x.ctx = d.ctx && (opPages x o).any ias.contains
    | none => false

/-- A host write to the range is still held: it is performed before a flip to the device (R356). -/
def hostWritesIn (s : State) (d : District) (va n : Nat) : Bool :=
  s.hostWrites.any fun x => (hostPages s x).any fun p => p.1 = d.ctx && ((flipPages va n).map fun a => iaOf d a / 65536).contains p.2

/-- The owner of a page becomes the host or the device: bit 4 of its leaf, or for a larger leaf the page alone. -/
def flipOwner (s : State) (ctx ia e at_ bits : Nat) (host : Bool) : State :=
  if hostOwns s ctx ia e bits = host then s
  else if bits = 16 then modMem s fun m => writeNat m at_ 8 (if host then e + 16 else e - 16)
  else { s with mem := { s.mem with
    flipped := if s.mem.flipped.contains (ctx, ia / 65536) then s.mem.flipped.filter (· != (ctx, ia / 65536))
      else s.mem.flipped ++ [(ctx, ia / 65536)] } }

/-- Changes the owner: to the host, with the caches written back and invalidated; or to the device. -/
def flipNow (s : State) (d : District) (va n : Nat) (host : Bool) : State :=
  let s := if host then (flipFrames s d va n).foldl (fun s f => cleanFrame s f 65536) s else s
  (flipPages va n).foldl (fun s a => match flipLeaf s d a with
    | some (at_, e, _, bits) => flipOwner s d.ctx (iaOf d a) e at_ bits host
    | none => s) s

end Sys2Proof.Machine
end

