-- ==== Sys2Proof/Machine/HostQueues.lean ====
section
/-! DEFINITION. Host queues (R345 to R354): doorbells, control, submission entries and their effects, completion
entries, firmware restarts, migration and dirty tracking (R355). -/

namespace Sys2Proof.Machine

/-! ## Queues -/

def qkey (fn q : Nat) : Nat := fn * 64 + q
/-- A queue after reset; the firmware serves it from the partition of its number modulo 8. -/
def hostQueueInit (k : Nat) : HostQueue :=
  ⟨0, 0, 0, false, false, false, 0, 0, 0, 0, 0, true, false, k % 8, none, [], [], 0, 0, 0⟩
def hostQueue (s : State) (k : Nat) : HostQueue := (mget s.queues k).getD (hostQueueInit k)
def setQueue (s : State) (k : Nat) (x : HostQueue) : State := { s with queues := mset s.queues k x }
def withQueue (s : State) (k : Nat) (f : HostQueue → HostQueue) : State := setQueue s k (f (hostQueue s k))
def HostQueue.enabled (x : HostQueue) : Bool := bit x.ctl.toNat 0
def HostQueue.stopSet (x : HostQueue) : Bool := bit x.ctl.toNat 1
/-- A configuration register's log2 size, 1 to 16 (R346). -/
def cfgEntries (cfg : W32) : Nat := 2 ^ min 16 (max 1 (field cfg.toNat 0 5))

/-- An MSI-X message (R345). -/
def message (s : State) (fn vector : Nat) : State :=
  modFunction s fn fun f => { f with messages := mset f.messages vector ((mget f.messages vector).getD 0 + 1) }

/-- No such function or queue. -/
def noQueue (fn q : Nat) : Bool := fn > 64 || q > 63

/-- R346, R347. -/
def writeTail (s : State) (k offset size : Nat) (value : W64) : State :=
  let x := hostQueue s k
  let overfull := message (withQueue s k fun x => { x with overrun := true }) (k / 64) 0
  if size ≠ 8 || offset ≠ 0 then overfull
  else if value.toNat ≤ x.tail.toNat then s
  else if value.toNat ≤ x.head.toNat + cfgEntries x.ringCfg then setQueue s k { x with tail := value }
  else overfull

def execQtaildbWrite (fn q : Nat) (offset size : Nat) (value : W64) (s : State) : Out :=
  if noQueue fn q then .fault .noSuchUnit else .next (writeTail s (qkey fn q) offset size value)

/-- The firmware that serves the queue is restarting (R352, R390). -/
def serverDown (s : State) (x : HostQueue) : Bool := (partOf s x.part).restarting

/-- QSTAT (R346). -/
def qstat (s : State) (x : HostQueue) : Nat :=
  (if x.enabled && !x.stopped && !serverDown s x then 1 else 0) + (if x.stopped then 2 else 0) +
  (if serverDown s x then 4 else 0) + (if x.overrun then 8 else 0) + (if x.errSeen then 16 else 0)

/-- R346: a read answers and clears the sticky bits. -/
def execQstatRead (fn q : Nat) (s : State) : Out :=
  if noQueue fn q then .fault .noSuchUnit
  else
    let k := qkey fn q
    let x := hostQueue s k
    .next (answer (setQueue s k { x with overrun := false, errSeen := false }) 0 (toBytes 4 (qstat s x)))

/-- The tags that a queue's entries left on task queues are none of its new numbering (R352). -/
def clearQueueTags (s : State) (k : Nat) : State :=
  { s with districts := s.districts.map fun e => (e.1, { e.2 with queues := e.2.queues.map fun q =>
      (q.1, if q.2.tag.any fun t => t.1 = k then { q.2 with tag := none } else q.2) }) }

/-- R346, R354. -/
def enableQueue (s : State) (k : Nat) : State :=
  let x := hostQueue s k
  if x.enabled then s
  else if x.imported then setQueue s k { x with ctl := x.ctl ||| 1, imported := false }
  else setQueue (clearQueueTags s k) k { x with
    ctl := x.ctl ||| 1, tail := 0, head := 0, cplIndex := 0, cplPhase := true, current := none, past := [],
    stopped := false, first := 0, since := s.serial, cplWritten := 0 }
def disableQueue (s : State) (k : Nat) : State := withQueue s k fun x => { x with ctl := x.ctl &&& ~~~ 1#32 }
/-- R353. -/
def stopQueue (s : State) (k : Nat) : State := withQueue s k fun x => { x with ctl := x.ctl ||| 2 }
def resumeQueue (s : State) (k : Nat) : State :=
  withQueue s k fun x => { x with ctl := x.ctl &&& ~~~ 2#32, stopped := false }

def execQueueEnable (fn q : Nat) (s : State) : Out :=
  if noQueue fn q then .fault .noSuchUnit else .next (enableQueue s (qkey fn q))
def execQueueDisable (fn q : Nat) (s : State) : Out :=
  if noQueue fn q then .fault .noSuchUnit else .next (disableQueue s (qkey fn q))
def execQueueStop (fn q : Nat) (s : State) : Out :=
  if noQueue fn q then .fault .noSuchUnit else .next (stopQueue s (qkey fn q))
def execQueueResume (fn q : Nat) (s : State) : Out :=
  if noQueue fn q then .fault .noSuchUnit else .next (resumeQueue s (qkey fn q))

/-- A launch entry of the queue that has not completed. -/
def launchOpen (s : State) (k : Nat) : Bool := s.launches.any fun l => l.2.key = k && !l.2.complete

/-- Every consumed entry of a queue that is to stop has completed. -/
def stopReady (s : State) (k : Nat) : Bool :=
  let x := hostQueue s k
  x.enabled && x.stopSet && !x.stopped && x.current.isNone && x.done = [] && !launchOpen s k

def execQueueStopped (fn q : Nat) (s : State) : Out :=
  if noQueue fn q then .fault .noSuchUnit
  else if stopReady s (qkey fn q) then .next (message (withQueue s (qkey fn q) fun x => { x with stopped := true }) fn 0)
  else .next s

/-! ## Rings in host or device memory -/

/-- Places of `n` ring bytes: a host address in a window, or an address of the tenant's root (R346). -/
def ringPlaces (s : State) (fn : Nat) (device : Bool) (addr n : Nat) : Option (List Nat) :=
  if device then match rootDistrict s fn with
    | some d => placesFor s d addr n
    | none => none
  else if (List.range n).all fun i => inWindow s fn (addr + i) then some ((List.range n).map fun i => hostPlace (addr + i))
  else none

/-- The entry at the head, when the queue's server may consume it now (R348, R350, R353, R398). -/
def entryNow (s : State) (k : Nat) : Option (List Byte) :=
  let x := hostQueue s k
  if x.enabled && !x.stopSet && x.current.isNone && x.head.toNat < x.tail.toNat &&
      schedulerRuns s x.part then
    let at_ := x.ringBase.toNat + 64 * (x.head.toNat % cfgEntries x.ringCfg)
    (ringPlaces s (k / 64) (bit x.ringCfg.toNat 15) at_ 64).map (readPlaces s)
  else none

def eOp (e : List Byte) : Nat := bf e 0 1
def eHandle (e : List Byte) : Nat := bf e 2 2

/-- The entry is consumed, and completes with this status and handle. -/
def finishEntry (s : State) (k : Nat) (e : List Byte) (status handle : Nat) : State :=
  withQueue s k fun x => { x with
    head := x.head + 1, errSeen := x.errSeen || status ≠ 0,
    done := x.done ++ [⟨x.head.toNat, eOp e, status, 0, handle, bit (bf e 1 1) 0⟩] }

/-- Reserved fields of an entry, by op (R349, R341). -/
def entryRsvOk (e : List Byte) : Bool :=
  field (bf e 1 1) 1 7 = 0 && bf e 5 3 = 0 && bf e 0x30 16 = 0 &&
  (match eOp e with
  | 0 => true
  | 1 => bf e 4 1 < 16 && bf e 0x14 4 = 0
  | 2 => bf e 4 1 = 0 && bf e 0x10 8 = 0 && bf e 0x20 16 = 0
  | 3 => bf e 4 1 = 0 && bf e 8 40 = 0
  | 4 => bf e 4 1 = 0 && bf e 0x14 4 < 2 && bf e 0x18 24 = 0
  | 5 => bf e 4 1 = 0 && field (bf e 0x10 4) 16 16 = 0 && bf e 0x14 28 = 0
  | 6 => bf e 4 1 = 0 && bf e 8 40 = 0
  | _ => false)

/-- The head entry when its op is one of these. -/
def entryOf (s : State) (k : Nat) (ops : Nat → Bool) : Option (List Byte) :=
  match entryNow s k with
  | some e => if ops (eOp e) then some e else none
  | none => none

/-- An event on the head entry of a queue. -/
def onEntry (fn q : Nat) (ops : Nat → Bool) (f : State → Nat → List Byte → Option State) (s : State) : Out :=
  if noQueue fn q then .fault .noSuchUnit
  else match entryOf s (qkey fn q) ops with
    | none => .next s
    | some e =>
      if entryRsvOk e then .next ((f s (qkey fn q) e).getD s) else .next (finishEntry s (qkey fn q) e 1 0)

/-- R350; a reserved op completes with status 1, as its reserved fields say (R351). -/
def execEntryNop (fn q : Nat) (s : State) : Out :=
  onEntry fn q (fun o => o = 0 || o > 6) (fun s k e => some (finishEntry s k e 0 0)) s

/-! ## Launches (R349, R350, R439) -/

/-- A record with its depth field 0 (R27). -/
def launchRecord (bs : List Byte) : List Byte := toBytes 4 (bf bs 0 4 % 2 ^ 28) ++ (bs.drop 4).take 12

/-- Appends the next record of a launch: none while its queue is full or its page is missing. A record that the
district may not read is refused. -/
def appendRecord (s : State) (n : Nat) : Option State :=
  match mget s.launches n with
  | none => none
  | some l =>
    if l.total ≤ l.appended then none
    else match queueOf s l.district l.queue, districtAt s l.district with
      | some q, some d =>
        if queueFull q then none
        else
          let va := (l.addr.toNat + 16 * l.appended) % 2 ^ 64
          let next := fun (s : State) (undone : Nat) => modLaunch s n fun l => { l with
            appended := l.appended + 1,
            undone := if undone = 0 then l.undone else mset l.undone l.appended undone,
            unseen := if undone = 0 then l.unseen else mset l.unseen l.appended undone }
          match access s d .home permR va 16 with
          | .places ps | .host ps | .remote _ ps =>
            let bs := launchRecord (readPlaces s ps)
            let g := match typeEntry s l.district (taskOf bs).type with
              | some e => max 1 (tyGang e)
              | none => 1
            let s := appendTask s l.district l.queue bs ⟨some ⟨n, l.appended⟩, none⟩
            let s := if (hostQueue s l.key).current = some n then
                modQueue s l.district l.queue fun q => { q with tag := some (l.key, l.n) } else s
            some (next s g)
          | .noPage p ia fl => if missReported s p d.ctx ia then none else some (reportMiss s p d.ctx ia fl)
          | _ => some (next (modLaunch (postCode s l.district 48 0xFFFF) n fun l => { l with refused := true }) 0)
      | _, _ => none

/-- Appends records while there is room. -/
def appendMany (n : Nat) : Nat → State → State
  | 0, s => s
  | fuel + 1, s => match appendRecord s n with
    | none => s
    | some s => appendMany n fuel s

/-- A launch has appended all: its entry is consumed, unless the queue has been enabled anew since. -/
def launchAppended (s : State) (k n : Nat) : State :=
  match mget s.launches n with
  | none => s
  | some l =>
    if l.appended < l.total then s
    else
      let s := withQueue s k fun x => if x.current = some n then
          { x with head := BitVec.ofNat 64 (l.n + 1), current := none, past := x.past ++ [(l.n, l.total)] } else x
      launchCheck s n

/-- R349 to R351. A dependency on an entry below the imported QHEAD is met: that entry is complete (R354). -/
def launchStart (s : State) (k : Nat) (e : List Byte) : Option State :=
  let x := hostQueue s k
  let n := x.head.toNat
  let count := bf e 0x10 4
  let dep := bf e 0x20 8
  match handleOf s (k / 64) (eHandle e) with
  | none => some (finishEntry s k e 2 0)
  | some d =>
    if (queueOf s d (bf e 4 1)).isNone then some (finishEntry s k e 1 0)
    else if count = 0 || count > 2 ^ 24 then some (finishEntry s k e 3 0)
    else if dep ≠ 2 ^ 64 - 1 && !(dep < n && bf e 0x28 4 ≤ bf e 0x2C 4 &&
        (dep < x.first || x.past.any fun p => p.1 = dep && bf e 0x2C 4 < p.2)) then some (finishEntry s k e 4 0)
    else
      let on := (s.launches.find? fun l => l.2.key = k && l.2.n = dep && x.since ≤ l.1).map Prod.fst
      let (m, s) := takeSerial s
      let l : Launch :=
        { key := k, n := n, district := d, queue := bf e 4 1, addr := BitVec.ofNat 64 (bf e 8 8),
          arg := BitVec.ofNat 64 (bf e 0x18 8), appended := 0, total := count,
          dep := on.map fun j => (j, bf e 0x28 4, bf e 0x2C 4), undone := [], unseen := [], refused := false,
          endedByDomain := 0, interrupt := bit (bf e 1 1) 0, complete := false }
      let s := withQueue { s with launches := mset s.launches m l } k fun x => { x with current := some m }
      some (launchAppended (appendMany m count s) k m)

def execLaunch (fn q : Nat) (s : State) : Out := onEntry fn q (· = 1) launchStart s

/-- A launch of the queue that is under way can append. -/
def roomStep (s : State) (k : Nat) : Option State :=
  if !schedulerRuns s (hostQueue s k).part then none
  else (s.launches.filter fun l => l.2.key = k && l.2.appended < l.2.total).findSome? fun l =>
    (appendRecord s l.1).map fun s => launchAppended (appendMany l.1 l.2.total s) k l.1

def execLaunchAppendOnRoom (fn q : Nat) (s : State) : Out :=
  if noQueue fn q then .fault .noSuchUnit else .next ((roomStep s (qkey fn q)).getD s)

/-! ## The other entries -/

/-- R350: after every earlier launch has completed; an address outside the tenant's windows completes with status 1. -/
def signalStart (s : State) (k : Nat) (e : List Byte) : Option State :=
  if launchOpen s k then none
  else
    let a := bf e 8 8
    match ringPlaces s (k / 64) false a 8 with
    | none => some (finishEntry s k e 1 0)
    | some ps => some (finishEntry (rawStore s 0 true ps (toBytes 8 (bf e 0x18 8))) k e 0 0)

def execSignal (fn q : Nat) (s : State) : Out := onEntry fn q (· = 2) signalStart s

/-- R335, R365. -/
def reloadStart (s : State) (k : Nat) (e : List Byte) : Option State :=
  match handleOf s (k / 64) (eHandle e) with
  | none => some (finishEntry s k e 2 0)
  | some d => match reloadDistrict s d with
    | none => some (finishEntry s k e 1 0)
    | some s => some (finishEntry s k e 0 0)

def execReload (fn q : Nat) (s : State) : Out := onEntry fn q (· = 3) reloadStart s

/-- R356. -/
def flipStart (s : State) (k : Nat) (e : List Byte) : Option State :=
  match handleOf s (k / 64) (eHandle e) with
  | none => some (finishEntry s k e 2 0)
  | some dk => match districtAt s dk with
    | none => some (finishEntry s k e 2 0)
    | some d =>
      let va := bf e 8 8
      let n := bf e 0x10 4
      if flipBad s d va n then some (finishEntry s k e 6 0)
      else if (if bf e 0x14 4 = 1 then flipWaits s d va n else hostWritesIn s d va n) then none
      else some (finishEntry (flipNow s d va n (bf e 0x14 4 = 1)) k e 0 0)

def execFlip (fn q : Nat) (s : State) : Out := onEntry fn q (· = 4) flipStart s

/-- R341: the new district's queues are served by the partition that serves this host queue. -/
def createStart (s : State) (k : Nat) (e : List Byte) : Option State :=
  match handleOf s (k / 64) (eHandle e) with
  | none => some (finishEntry s k e 2 0)
  | some parent => match createDistrict s (k / 64) parent (bf e 8 8) (bf e 0x10 2) (hostQueue s k).part with
    | none => some (finishEntry s k e 7 0)
    | some (h, s) => some (finishEntry s k e 0 h)

def execCreateDistrict (fn q : Nat) (s : State) : Out := onEntry fn q (· = 5) createStart s

def destroyStart (s : State) (k : Nat) (e : List Byte) : Option State :=
  match destroyDistrict s (k / 64) (eHandle e) with
  | none => some (finishEntry s k e 8 0)
  | some s => some (finishEntry s k e 0 0)

def execDestroyDistrict (fn q : Nat) (s : State) : Out := onEntry fn q (· = 6) destroyStart s

/-- The head entry of a queue has an effect now. -/
def entryStep (s : State) (k : Nat) : Option State :=
  match entryNow s k with
  | none => none
  | some e =>
    if !entryRsvOk e then some (finishEntry s k e 1 0)
    else match eOp e with
      | 0 => some (finishEntry s k e 0 0)
      | 1 => launchStart s k e
      | 2 => signalStart s k e
      | 3 => reloadStart s k e
      | 4 => flipStart s k e
      | 5 => createStart s k e
      | 6 => destroyStart s k e
      | _ => some (finishEntry s k e 1 0)

/-! ## Completion entries (R345, R351) -/

def completionEntry (d : QDone) (phase : Bool) : List Byte :=
  toBytes 8 d.n ++ toBytes 1 d.status ++ toBytes 1 d.op ++ toBytes 2 d.ended ++
    toBytes 4 ((if phase then 1 else 0) + d.handle * 2 ^ 16)

/-- The completion ring has room: fewer entries than it has have been written that the host has not taken. How many it
has taken is free. -/
def cplRoom (s : State) (k : Nat) (x : HostQueue) : Bool :=
  x.cplWritten < cfgEntries x.cplCfg || x.cplWritten - Config.cplTaken k s.clock < cfgEntries x.cplCfg

/-- The oldest completed entry is reported when its ring has room: its completion entry, then its interrupt. -/
def completionStep (s : State) (k : Nat) : Option State :=
  let x := hostQueue s k
  match x.done with
  | [] => none
  | d :: r =>
    if !schedulerRuns s x.part || !cplRoom s k x then none
    else
      let n := cfgEntries x.cplCfg
      let fn := k / 64
      let s := match ringPlaces s fn (bit x.cplCfg.toNat 15) (x.cplBase.toNat + 16 * (x.cplIndex % n)) 16 with
        | some ps => rawStore s 0 true ps (completionEntry d x.cplPhase)
        | none => s
      let s := setQueue s k { x with
        done := r, cplWritten := x.cplWritten + 1, cplIndex := (x.cplIndex + 1) % n, cplPhase := if x.cplIndex + 1 = n then !x.cplPhase else x.cplPhase }
      some (if d.interrupt && bit x.ctl.toNat 2 then message s fn (field x.ringCfg.toNat 8 7) else s)

def execCompletionEntryWrite (fn q : Nat) (s : State) : Out :=
  if noQueue fn q then .fault .noSuchUnit else .next ((completionStep s (qkey fn q)).getD s)

/-! ## Migration (R354) -/

/-- The queue that MIGFN and MIGQ name, and the buffer's places. -/
def migTarget (s : State) : Option (Nat × List Nat) :=
  let m := s.migrate
  if 1 ≤ m.fn.toNat && m.fn.toNat ≤ 64 && m.q.toNat < 64 && m.addr.toNat % 64 = 0 then
    (ringPlaces s 0 false m.addr.toNat 256).map fun ps => (qkey m.fn.toNat m.q.toNat, ps)
  else none

def setMigStat (s : State) (x : Nat) : State := { s with migrate := { s.migrate with stat := x } }

/-- The canonical layout of a queue's state. -/
def queueBytes (x : HostQueue) : List Byte :=
  toBytes 8 x.ringBase.toNat ++ toBytes 4 x.ringCfg.toNat ++ toBytes 4 x.cplCfg.toNat ++ toBytes 8 x.cplBase.toNat ++
  toBytes 8 x.tail.toNat ++ toBytes 8 x.head.toNat ++ toBytes 8 x.cplIndex ++
  toBytes 4 ((if x.cplPhase then 1 else 0) + 2 * field x.ctl.toNat 0 3) ++ toBytes 4 1 ++ copies 200 0

def exportQueue (s : State) : State :=
  match migTarget s with
  | none => setMigStat s 2
  | some (k, ps) =>
    if !(hostQueue s k).stopped then setMigStat s 2
    else setMigStat (rawStore s 0 true ps (queueBytes (hostQueue s k))) 0

def execQueueStateExport (value : W32) (s : State) : Out := if value = 1 then .next (exportQueue s) else .next s

def importQueue (s : State) : State :=
  match migTarget s with
  | none => setMigStat s 2
  | some (k, ps) =>
    let x := hostQueue s k
    let b := readPlaces s ps
    if x.enabled || bf b 0x34 4 ≠ 1 then setMigStat s 2
    else setMigStat (setQueue (clearQueueTags s k) k { x with
      ringBase := BitVec.ofNat 64 (bf b 0 8), ringCfg := BitVec.ofNat 32 (bf b 8 4),
      cplCfg := BitVec.ofNat 32 (bf b 0x0C 4), cplBase := BitVec.ofNat 64 (bf b 0x10 8),
      tail := BitVec.ofNat 64 (bf b 0x18 8), head := BitVec.ofNat 64 (bf b 0x20 8), cplIndex := bf b 0x28 8,
      cplPhase := bit (bf b 0x30 4) 0, ctl := BitVec.ofNat 32 (field (bf b 0x30 4) 1 3),
      stopped := bit (bf b 0x30 4) 2, imported := !bit (bf b 0x30 4) 1, current := none,
      past := [], first := bf b 0x20 8, since := s.serial, cplWritten := 0 }) 0

def execQueueStateImport (value : W32) (s : State) : Out := if value = 2 then .next (importQueue s) else .next s

/-! ## Dirty tracking (R355) -/

/-- A write to DIRTYCTL with a nonzero reserved bit is discarded; bit 1 ignores writes. -/
def dirtyCtl (s : State) (fn : Nat) (value : W32) : State :=
  if field value.toNat 2 30 ≠ 0 then s
  else modFunction s fn fun f =>
    if bit value.toNat 0 then { f with dirtyOn := true }
    else { f with dirtyOn := false, dirtyDone := if f.dirtyOn then false else f.dirtyDone }

def execDirtyTrackingEnable (fn : Nat) (value : W32) (s : State) : Out :=
  if fn = 0 || fn > 64 then .fault .noSuchUnit
  else if bit value.toNat 0 then .next (dirtyCtl s fn value) else .next s

def execDirtyTrackingDisable (fn : Nat) (value : W32) (s : State) : Out :=
  if fn = 0 || fn > 64 then .fault .noSuchUnit
  else if bit value.toNat 0 then .next s else .next (dirtyCtl s fn value)

/-- A write of DIRTYADDR: while tracking is on it swaps bitmaps. -/
def swapBitmap (s : State) (fn : Nat) (addr : W64) : State :=
  modFunction s fn fun f => { f with dirtyAddr := addr, dirtyDone := if f.dirtyOn then false else f.dirtyDone }
def execDirtyBitmapSwap (fn : Nat) (addr : W64) (s : State) : Out :=
  if fn = 0 || fn > 64 then .fault .noSuchUnit else .next (swapBitmap s fn addr)

/-- Every write accepted so far has been marked: the model marks a page in the step that writes it. -/
def execDirtySwapDone (fn : Nat) (s : State) : Out :=
  if fn = 0 || fn > 64 then .fault .noSuchUnit
  else .next (modFunction s fn fun f => { f with dirtyDone := true })

/-! ## The aperture (R344) -/

/-- The district and virtual address that a BAR2 offset reaches, where a valid entry with permission bit `b` holds every
byte. -/
def apertureAt (s : State) (fn offset size b : Nat) : Option (Nat × Nat) :=
  (functionAt s fn).apertures.findSome? fun e =>
    let x := e.2
    let base := bf x 0 8
    if offset + size ≤ 2 ^ 36 && bit (bf x 0x1A 1) 7 && bit (bf x 0x1A 1) b && base ≤ offset &&
        offset + size ≤ base + bf x 8 8 then
      (handleOf s fn (bf x 0x18 2)).map fun d => (d, (bf x 0x10 8 + (offset - base)) % 2 ^ 64)
    else none

/-- Unsupported Request. -/
def ansUnsupported : Nat := 1

/-- R344: code 2 says that the read is held, by a missing page, an owned line or a partition in reset. -/
def execApertureRead (fn : Nat) (offset size : Nat) (s : State) : Out :=
  if fn > 64 then .fault .noSuchUnit
  else match apertureAt s fn offset size 0 with
    | none => .next (answer s ansUnsupported [])
    | some (dk, va) =>
      let s := retryHost s
      match districtAt s dk with
      | none => .next (answer s ansUnsupported [])
      | some d => match apertureReach s d permR va size with
        | .places ps =>
          if homeReset s d va || engineOwns s ps then .next (answer s ansHeld [])
          else if poisoned s ps then .next (answer s ansPoison [])
          else .next (answer (tookShared s (markAccess s d false va size) ps) ansDone (seenBytes s ps 0))
        | .remote _ ps | .host ps => .next (answer s ansDone (readPlaces s ps))
        | .noPage p ia fl => .next (answer (reportMiss s p d.ctx ia fl) ansHeld [])
        | _ => .next (answer s ansUnsupported [])

/-- R344: a write that matches no entry or fails is discarded; code 2 says that it is held at its home, where it is
performed when its page is mapped. -/
def execApertureWrite (fn : Nat) (offset : Nat) (data : List Byte) (s : State) : Out :=
  if fn > 64 then .fault .noSuchUnit
  else match apertureAt s fn offset data.length 1 with
    | none => .next (answer s ansUnsupported [])
    | some (dk, va) =>
      match districtAt s dk with
      | none => .next (answer s ansUnsupported [])
      | some d => match apertureReach s d permW va data.length with
        | .fault .. => .next (answer s ansUnsupported [])
        | _ =>
          match (if hostWaits s s.hostWrites ⟨dk, va, data, 0⟩ then none else hostWriteNow s ⟨dk, va, data, 0⟩) with
          | some t => .next (answer t ansDone [])
          | none =>
            let (n, s) := takeSerial s
            .next (answer (holdHostWrite s ⟨dk, va, data, n⟩) ansHeld [])

end Sys2Proof.Machine
end

