-- ==== Sys2Proof/Machine/Bringup.lean ====
section
/-! DEFINITION. Signed images, measurements and boot (R392 to R395), readiness (R397 to R399), firmware restarts (R352),
plug-ins (R359), soft errors and resets (R389, R390, R403), power and temperature (R400 to R403). -/

namespace Sys2Proof.Machine

/-! ## Images (R392, R393) -/

def imageHeader (i : Image) : List Byte :=
  toBytes 4 i.magic.toNat ++ toBytes 2 i.version.toNat ++ toBytes 2 i.kind.toNat ++ toBytes 4 i.security.toNat ++
  toBytes 4 i.bodyLen.toNat ++ toBytes 8 i.load.toNat ++ i.signer ++ i.rsv
/-- What the signature covers. -/
def signedBytes (i : Image) : List Byte := imageHeader i ++ i.body
def imageBytes (i : Image) : List Byte := signedBytes i ++ i.signature

/-- The image that bytes hold: its header, then as many bytes of body as the header says, then its signature. -/
def imageOf (b : List Byte) : Option Image :=
  if b.length < 256 then none
  else
    let n := bf b 0x0C 4
    some ⟨BitVec.ofNat 32 (bf b 0 4), BitVec.ofNat 16 (bf b 4 2), BitVec.ofNat 16 (bf b 6 2), BitVec.ofNat 32 (bf b 8 4),
      BitVec.ofNat 32 n, BitVec.ofNat 64 (bf b 0x10 8), (b.drop 0x18).take 64, (b.drop 0x58).take 168,
      (b.drop 256).take n, b.drop (256 + n)⟩

/-- A root public key is accepted when its digest is one of the fuses' and not revoked (R392). -/
def rootAccepted (s : State) (key : List Byte) : Bool := s.secure.roots.any fun r => !r.2 && r.1 = Config.shake256 key

/-- The fused minimum of a kind. -/
def minSecurity (s : State) (kind : Nat) : Nat := (mget s.secure.minVersion kind).getD 0

/-- No case of R393 holds. -/
def imageOk (s : State) (accepted : List Byte → Bool) (i : Image) : Bool :=
  i.magic == 0x464A4231 && i.version == 1 && 1 ≤ i.kind.toNat && i.kind.toNat ≤ 5 &&
  i.signer.length == 64 && i.rsv == copies 168 0 && i.body.length == i.bodyLen.toNat && i.signature.length == 29792 &&
  accepted i.signer && Config.slhVerify i.signer (signedBytes i) i.signature && minSecurity s i.kind.toNat ≤ i.security.toNat

/-! ## Measurements (R394) -/

def measureAt (s : State) (i : Nat) : List Byte := (mget s.secure.measures i).getD (copies 48 0)
def extendMeasure (s : State) (i : Nat) (digest : List Byte) : State :=
  { s with secure := { s.secure with measures := mset s.secure.measures i (Config.sha3 (measureAt s i ++ digest)) } }
/-- The image is measured before it runs. -/
def measureImage (s : State) (i : Nat) (x : Image) : State := extendMeasure s i (Config.sha3 (signedBytes x))
/-- The index that an image of a kind extends. -/
def measureIndex (kind : Nat) : Nat := if kind = 4 then 4 else kind + 1

/-! ## The readiness word (R397) -/

def bootFailed (s : State) : State := setReady s 63 true
/-- Some stage of R401 is active. -/
def throttling (s : State) : Bool := s.power.duty.any (· < 16)
def readinessWord (s : State) : Nat := s.secure.readiness.toNat + (if throttling s then 2 ^ 62 else 0)
def runsKind (s : State) (kind : Nat) : Bool := (mget s.secure.running kind).isSome
def setRunning (s : State) (kind security : Nat) : State :=
  { s with secure := { s.secure with running := mset s.secure.running kind security } }

/-! ## Firmware restarts (R352) -/

/-- Functions that have an enabled queue on this partition's firmware. -/
def servedFns (s : State) (p : Nat) : List Nat :=
  ((s.queues.filter fun q => q.2.part = p && q.2.enabled).map fun q => q.1 / 64).eraseDups

/-- The restart begins: QSTAT shows it, and vector 0 fires. -/
def beginRestart (s : State) (p : Nat) : State :=
  if (partOf s p).restarting then s
  else (servedFns s p).foldl (fun s f => message s f 0) (modPart s p fun x => { x with restarting := true })

/-- The image that a restart runs: the one given, one that an update has stored, or the one in force. -/
def restartImage (s : State) (p : Nat) (image : Option Image) : Option Image :=
  match image with
  | some i => some i
  | none => imageOf ((mget s.manage.stored 2).getD (partOf s p).firmware)

/-- R352, R394: the restarted image is verified and measured; a refused one does not run, and no restart begins. -/
def restartWith (s : State) (p : Nat) (image : Option Image) : State :=
  match restartImage s p image with
  | none => beginRestart s p
  | some i =>
    if i.kind == 2 && imageOk s (rootAccepted s) i then
      let s := setRunning (measureImage s 3 i) 2 i.security.toNat
      beginRestart (modPart s p fun x => { x with firmware := imageBytes i }) p
    else bootFailed s

def execFirmwareRestartBegin (part : Nat) (image : Option Image) (s : State) : Out :=
  if part ≥ 8 then .fault .noSuchUnit else .next (restartWith s part image)

/-- Some task queue of the package carries the tag of this entry. -/
def entryTagged (s : State) (k n : Nat) : Bool := s.districts.any fun d => d.2.queues.any fun q => q.2.tag = some (k, n)

/-- The firmware returns: entries already applied are passed over, and vector 0 fires. -/
def endRestart (s : State) (p : Nat) : State :=
  if !(partOf s p).restarting then s
  else
    let s := modPart s p fun x => { x with restarting := false }
    let s := ((s.queues.filter fun q => q.2.part = p).map Prod.fst).foldl (fun s k =>
      let x := hostQueue s k
      if x.current.isNone && x.head.toNat < x.tail.toNat && entryTagged s k x.head.toNat then
        withQueue s k fun x => { x with head := x.head + 1 } else s) s
    (servedFns s p).foldl (fun s f => message s f 0) s

/-- A restart that a reset of the partition has begun ends with the reset (R390). -/
def execFirmwareRestartEnd (part : Nat) (s : State) : Out :=
  if part ≥ 8 then .fault .noSuchUnit
  else if partReady s part then .next (endRestart s part) else .next s

/-! ## Plug-ins (R359, R392, R394) -/

def execPluginLoad (fn : Nat) (core : Nat) (image : Image) (s : State) : Out :=
  if fn > 64 || core ≥ 16 then .fault .noSuchUnit
  else if image.kind == 5 && imageOk s (fun k => k = (functionAt s fn).pluginKey) image then
    let s := setRunning (measureImage s (0x10 + fn) image) 5 image.security.toNat
    .next (modFunction s fn fun f => { f with plugins := mset f.plugins core image.security })
  else .next (bootFailed s)

/-! ## A reset of a partition (R390) -/

/-- Indices of the entries of a table that are not all zero. -/
def listedEntries (m : Memory) (base size n : Nat) : List Nat :=
  ((mfilter (fun a => base ≤ a && a < base + size * n) m).map fun e => (e.1 - base) / size).eraseDups

/-- Tables that the listed pointers of a table lead to. -/
def tablesBelow (s : State) (p table n : Nat) : List Nat :=
  (listedEntries s.mem.bytes (hbmPlace p table) 8 n).filterMap (pointerAt s p table)

/-- Frames of the replicated leaves that partition p is the home of (R387). -/
def replicatedFrames (s : State) (p : Nat) : List Nat :=
  let ctxs := (listedEntries s.mem.bytes (ctxEntryAt s p 0) 32 4096).filter (ctxValid s p)
  let t3 := (ctxs.flatMap fun c => tablesBelow s p (rootOf s p c) 262144).flatMap fun t => tablesBelow s p t 512
  t3.flatMap fun t => (listedEntries s.mem.bytes (hbmPlace p t) 8 32).filterMap fun i =>
    let e := readNat s.mem.bytes (hbmPlace p (t + 8 * i)) 8
    if bit e 0 && bit e 1 && bit e 3 then some (field e 8 28 * 256) else none

/-- Lines of the replicas that partition p holds for pages of the partitions on other dies. -/
def replicaLines (s : State) (p : Nat) : List Nat :=
  let homes := (List.range 8).filter fun q => q ≠ p && q % 2 = p % 2
  (homes.flatMap (replicatedFrames s)).flatMap fun f => (List.range 512).map fun i => lineOf (hbmPlace p f) + i

/-- What the caches lose, and what they write back. -/
def resetCaches (s : State) (p : Nat) : State :=
  let home := fun (l : Nat) => placePart (l * 128) = p
  let own := fun (e : Nat × Nat) => partOfCore e.1 = p
  let back := ((s.mem.l1Dirty.filter fun e => !own e && home e.2).map Prod.snd).eraseDups
  let lost := s.mem.sliceDirty.filter home ++ (s.mem.l1Dirty.filter own).map Prod.snd ++ replicaLines s p
  let s := homeSees s back
  { s with mem := { s.mem with
      poison := ((lost ++ s.mem.poison).eraseDups).filter fun l => !back.contains l,
      carveLost := mset s.mem.carveLost p (back.filter fun l => carvePart l = some p),
      sliceDirty := back ++ s.mem.sliceDirty.filter fun l => !home l,
      l1Dirty := s.mem.l1Dirty.filter fun e => !own e && !home e.2,
      released := s.mem.released.filter fun e => partOfCore e.2 ≠ p } }

/-- Home partition of a request. -/
def reqHome (s : State) (r : MemReq) : Option Nat :=
  match districtAt s r.district with
  | none => none
  | some d => match rangeOf d r.va.toNat with
    | none => none
    | some g =>
      let ia := iaOf d r.va.toNat
      if (g.node = s.fabric.node || g.node = 0x1FFF) && field ia 48 4 < 9 then
        some (if field ia 48 4 < 8 then field ia 48 3 else field ia 32 3) else none

/-- Accesses from elsewhere that wait for a page of the partition wait for the partition now. -/
def resetHolds (s : State) (p : Nat) : State :=
  { s with cores := s.cores.map fun c => (c.1, { c.2 with
      held := c.2.held.map fun h => if h.why == .page && reqHome s h.req = some p then { h with why := .partition } else h,
      log := c.2.log.map fun h => if reqHome s h.req = some p then { h with needed := true } else h }) }

/-- Every record of a core counts as acted on. -/
def actAll (core : Nat) : Nat → State → State
  | 0, s => s
  | n + 1, s => actAll core n (actOldest s core)

/-- A crew ends with its partition: its record waits to be posted, and its slots are free. -/
def resetCrew (s : State) (k : Nat) : State :=
  match crewAt s k with
  | none => s
  | some c =>
    let s := if c.ending then modDistrict s c.district fun d => { d with
        evWaiting := d.evWaiting.map fun e => if e.crew = k then { e with crew := noCore } else e }
      else queueRecord s c.district ⟨completionBytes c.task 2 c.rank 0, c.dispatcher, c.launch, 2, noCore, 0⟩
    freeCrew (modCrew s k fun c => { c with endKind := 2 }) k

/-- The cores of a partition, with what runs there. -/
def resetCores (s : State) (p : Nat) : State :=
  let mine := fun (c : Nat) => c < 768 && partOfCore c = p
  let keys := partCrews s p
  let ds := (keys.filterMap fun k => (crewAt s k).map (·.district)).eraseDups
  let gone := (s.cores.filter (mine ·.1)).flatMap fun c => c.2.ops.filterMap (·.saved)
  let s := keys.foldl (fun s k => ((crewWaves s k).map Prod.fst).foldl (fun s j => endWaveFibres s (keyCore k) j) s) s
  let s := gone.foldl (fun s n => (savedGang s n).foldl (fun s n => endSaved s n 0) s) s
  let s := { s with
    flights := s.flights.filter fun f => !mine f.2.core,
    cores := s.cores.map fun c => if mine c.1 then (c.1, { c.2 with held := [], log := [], ops := [] }) else c }
  let s := keys.foldl resetCrew s
  let s := ds.foldl (fun s d => postFault s d
    { event := 4, part := p, ctx := ((districtAt s d).map (·.ctx)).getD 0 }) s
  (partCores p).foldl (fun s c =>
    setCore (actAll c (coreOf s c).acts.length s) c { coreInit with cyclesFrom := s.clock, failing := (coreOf s c).failing }) s

/-- The start of a reset: the readiness bit clears before any effect (R399). -/
def resetPart (s : State) (p : Nat) : State :=
  let s := setReady s (8 + p) false
  let s := resetHolds (resetCaches s p) p
  let s := resetCores s p
  let s := { s with seqs := s.seqs.filter fun e => !(e.1 < 1536 && e.1 / 192 = p) }
  let s := ((List.range 8).filter fun t => (belfryAt s t).district.isSome && (belfryAt s t).part = p).foldl freeTag s
  let s := modPart s p fun x => { x with swapping := false, reported := [], toPost := [], toServe := [] }
  beginRestart { s with manage := { s.manage with resets := s.manage.resets + 1 } } p

def execPartitionReset (part : Nat) (s : State) : Out :=
  if part ≥ 8 then .fault .noSuchUnit else .next (resetPart s part)

/-! ## Soft errors (R389) -/

def execCorrectableError (part : Nat) (s : State) : Out :=
  if part ≥ 8 then .fault .noSuchUnit else .next (modPart s part fun x => { x with corrected := x.corrected + 1 })

/-- A place of the partition's stack or of its carve-out. -/
def placeIn (p place : Nat) : Bool := place < 2 ^ 41 && placePart place = p

def execUncorrectableError (part : Nat) (site : ErrorSite) (s : State) : Out :=
  if part ≥ 8 then .fault .noSuchUnit
  else
    let s := match site with
      | .subArray .. => s
      | _ => modPart s part fun x => { x with uncorrected := x.uncorrected + 1 }
    match site with
    | .line place =>
      if !placeIn part place then .fault .noSuchUnit
      else .next { s with mem := { s.mem with poison := lineOf place :: s.mem.poison.filter (· ≠ lineOf place) } }
    | .control => .next (resetPart s part)
    | .subArray core i =>
      if i ≥ 16 || core ≥ 768 || partOfCore core ≠ part then .fault .noSuchUnit
      else .next (modCore s core fun c => { c with failing := c.failing ||| BitVec.ofNat 16 (2 ^ i) })

/-! ## Readiness (R398, R399) -/

/-- A function that finishes its initialisation, where what it needs is there. -/
def readyNeeds (s : State) (i : Nat) : Bool :=
  let w := s.secure.readiness.toNat
  if i < 8 then true
  else if i < 16 then bit w (i - 8) && runsKind s 1 && runsKind s 2 && runsKind s 3
  else if i = 16 then runsKind s 1
  else if i = 17 then true
  else if i = 18 then runsKind s 1 && runsKind s 2 && runsKind s 3 && runsKind s 4
  else if i < 37 then s.fabric.nodeSet && (portAt s (i - 19)).up
  else i = 37 && runsKind s 4

/-- The bit sets. When a partition is ready its firmware returns, and accesses that waited for it are served (R390). -/
def functionReady (s : State) (i : Nat) : State :=
  if bit s.secure.readiness.toNat i || !readyNeeds s i || (s.power.tripped && i ≠ 37) then s
  else
    let s := setReady s i true
    if 8 ≤ i && i < 16 then retryKinds (endRestart s (i - 8)) [.partition] (fun _ => true) else s

def execFunctionReady (bit : Nat) (s : State) : Out :=
  if bit < 38 then .next (functionReady s bit) else if bit < 64 then .next s else .fault .noSuchUnit

/-! ## Package reset and boot (R392 to R395, R427) -/

/-- One image of the flash boots: verified, measured, run. -/
def bootKind (s : State) (kind : Nat) : State :=
  match (mget s.manage.stored kind).bind imageOf with
  | none => s
  | some i =>
    if i.kind.toNat = kind && imageOk s (rootAccepted s) i then
      let s := setRunning (measureImage s (measureIndex kind) i) kind i.security.toNat
      if kind = 2 then (List.range 8).foldl (fun s p => modPart s p fun x => { x with firmware := imageBytes i }) s else s
    else bootFailed s

/-- Flash contents that the boot finds beside what updates have stored. -/
def flashWith (stored : List (Nat × List Byte)) (boot : List Image) : List (Nat × List Byte) :=
  boot.foldl (fun m i => if (mget m i.kind.toNat).isSome then m else mset m i.kind.toNat (imageBytes i)) stored

/-- What a package reset keeps: the fuses, the flash, memory outside the package, sensors, the host link, what is
still to come from outside, and the model's own counters. -/
def keptAtReset (s : State) (boot : List Image) : State :=
  { State.reset with
    agenda := s.agenda.map fun e => (e.1 - s.clock, e.2),
    delays := s.delays, free := s.free, serial := s.serial,
    mem := { State.reset.mem with bytes := mfilter (fun a => 2 ^ 48 ≤ a) s.mem.bytes },
    power := { State.reset.power with temps := s.power.temps },
    secure := { State.reset.secure with roots := s.secure.roots, minVersion := s.secure.minVersion },
    manage := { State.reset.manage with stored := flashWith s.manage.stored boot, linkUp := s.manage.linkUp } }

def packageReset (s : State) (boot : List Image) : State :=
  let s := keptAtReset s boot
  let s := extendMeasure s 1 Config.romDigest
  let s := [1, 2, 3, 4].foldl bootKind s
  extendMeasure s 5 (Config.fuseDigest (s.secure.roots.map Prod.snd) s.secure.minVersion)

def execPackageReset (boot : List Image) (s : State) : Out := .next (packageReset s boot)

/-! ## Power (R400, R401) -/

def execPwrlimitWrite (value : W32) (s : State) : Out :=
  if value.toNat > 48 then .next s else .next { s with power := { s.power with limit := value.toNat } }

/-- The limit in mW. -/
def limitMw (s : State) : Nat := 1600000 + 25000 * s.power.limit
/-- The least duties of the stages. -/
def dutyMin : List Nat := [8, 8, 8, 4]

/-- The earliest stage above its minimum is lowered. -/
def lowerDuty : List Nat → List Nat → List Nat
  | d :: ds, m :: ms => if m < d then (d - 1) :: ds else d :: lowerDuty ds ms
  | ds, _ => ds

/-- The latest stage below 16/16 is raised. -/
def raiseDuty : List Nat → List Nat
  | [] => []
  | d :: ds => if ds.any (· < 16) then d :: raiseDuty ds else (if d < 16 then d + 1 else d) :: ds

/-- 10 µs in clocks. -/
def limiterClocks : Nat := 12500

/-- R401: the end of an interval, with its measured power. -/
def execLimiterStep (milliwatts : Nat) (s : State) : Out :=
  if s.clock < s.power.nextStep then .next s
  else
    let duty := if limitMw s < milliwatts then lowerDuty s.power.duty dutyMin
      else if milliwatts + 50000 ≤ limitMw s then raiseDuty s.power.duty else s.power.duty
    .next { s with power := { s.power with
      duty := duty, last := milliwatts, sum := s.power.sum + milliwatts, count := s.power.count + 1,
      nextStep := s.power.nextStep + limiterClocks } }

/-! ## Temperature (R403); readings in eighths of a degree -/

/-- A cluster's issue duty after a reading: a limit is lifted 3 °C below its threshold. -/
def thermalDuty (now : Nat) (eighths : Int) : Nat :=
  if 840 ≤ eighths || (now = 4 && 816 < eighths) then 4
  else if 800 ≤ eighths || (now < 16 && 776 < eighths) then 8
  else 16

def sensorReads (s : State) (cluster : Nat) (eighths : Int) : State :=
  let now := (mget s.power.clusterDuty cluster).getD 16
  let d := thermalDuty now eighths
  { s with power := { s.power with
      temps := mset s.power.temps cluster eighths,
      clusterDuty := if d = 16 then mdel s.power.clusterDuty cluster else mset s.power.clusterDuty cluster d } }

def execClusterThermalLimit (cluster : Nat) (eighths : Int) (s : State) : Out :=
  if cluster ≥ 192 then .fault .noSuchUnit else .next (sensorReads s cluster eighths)

/-- 110 °C. -/
def tripEighths : Int := 880

/-- The trip: all partitions are held in reset, and bits 36:0 clear. -/
def tripPackage (s : State) : State :=
  let s := (List.range 37).foldl (fun s i => setReady s i false) s
  let s := (List.range 8).foldl resetPart s
  { s with power := { s.power with tripped := true }, manage := { s.manage with trips := s.manage.trips + 1 } }

def execPackageTrip (cluster : Nat) (eighths : Int) (s : State) : Out :=
  if cluster ≥ 192 then .fault .noSuchUnit
  else if eighths < tripEighths then .next s
  else .next (if s.power.tripped then sensorReads s cluster eighths else tripPackage (sensorReads s cluster eighths))

end Sys2Proof.Machine
end

