-- ==== Sys2Proof/Machine/Manage.lean ====
section
/-! DEFINITION. The management port (R425 to R430), SPDM (R396) and the link to the host. A request is answered in
`reply`: its code, then its bytes. -/

namespace Sys2Proof.Machine

/-! ## Telemetry (R430) -/

/-- The record of an Arcade port. -/
def portBytes (s : State) (i : Nat) : List Byte :=
  let p := portAt s i
  let state := if !portRouted s i then 3 else if p.up then 2 else 0
  toBytes 8 p.sent ++ toBytes 8 p.received ++ toBytes 8 p.retries ++ toBytes 1 state ++ toBytes 1 0 ++
    toBytes 2 (if p.up then p.peer else 0x1FFF) ++ toBytes 4 0

/-- The mean rail power over the intervals since the latest snapshot. -/
def railMean (s : State) : Nat := if s.power.count = 0 then s.power.last else s.power.sum / s.power.count

/-- The snapshot of 1,152 bytes. -/
def telemetryBytes (s : State) (seq : Nat) : List Byte :=
  toBytes 8 (readinessWord s) ++ toBytes 8 seq ++ toBytes 4 (railMean s) ++ toBytes 4 s.power.limit ++
  (s.power.duty.take 4).flatMap (toBytes 1) ++ toBytes 4 s.manage.dropped ++
  ((List.range 192).flatMap fun c => toBytes 2 (wrap 16 (tempOf s c))) ++
  ((List.range 8).flatMap fun p => toBytes 8 (partOf s p).corrected) ++
  ((List.range 8).flatMap fun p => toBytes 8 (partOf s p).uncorrected) ++
  ((List.range 18).flatMap (portBytes s)) ++
  toBytes 8 s.manage.migrations ++ toBytes 8 s.manage.resets ++ toBytes 8 s.manage.trips ++ toBytes 8 0

/-- 1 ms in clocks. -/
def telemetryClocks : Nat := 1250000
def telemetryDue (s : State) : Bool := s.manage.nextTelemetry ≤ s.clock

def execTelemetryRefresh (s : State) : Out :=
  if !telemetryDue s then .next s
  else
    let n := s.manage.telemetrySeq + 1
    .next { s with
      manage := { s.manage with telemetry := telemetryBytes s n, telemetrySeq := n, nextTelemetry := s.manage.nextTelemetry + telemetryClocks },
      power := { s.power with sum := 0, count := 0 } }

/-- The latest snapshot; zeros before the first. -/
def snapshot (s : State) : List Byte := if s.manage.telemetry = [] then copies 1152 0 else s.manage.telemetry

/-! ## Completion codes (R428) -/

def cmdDone : Nat := 0
def cmdInvalid : Nat := 1
def cmdNotNow : Nat := 2

/-- MCTP message types that the port carries (R425). -/
def mctpTypes : List Nat := [0x00, 0x01, 0x05, 0x7F]

/-! ## MCTP control (R425) -/

def execSetEndpointId (eid : Byte) (s : State) : Out :=
  .next (answer { s with manage := { s.manage with eid := eid } } cmdDone [])
def execGetEndpointId (s : State) : Out := .next (answer s cmdDone [s.manage.eid])
/-- The versions of a supported type are those of the DMTF standard. -/
def execGetMctpVersionSupport (type : Byte) (s : State) : Out :=
  if mctpTypes.contains type.toNat then .next (answer s cmdDone (Config.dmtfReply type.toNat 4))
  else .next (answer s cmdInvalid [])
def execGetMessageTypeSupport (s : State) : Out := .next (answer s cmdDone (mctpTypes.flatMap (toBytes 1)))
/-- A message of another type is dropped and counted. -/
def execMctpUnsupportedMessage (type : Byte) (s : State) : Out :=
  if mctpTypes.contains type.toNat then .next s
  else .next { s with manage := { s.manage with dropped := s.manage.dropped + 1 } }

/-! ## PLDM (R425 to R427) -/

/-- Type 0 base requests: what they answer is the DMTF standard's. -/
def execPldmBaseCommand (command : Byte) (s : State) : Out :=
  .next (answer s cmdDone (Config.dmtfReply 1 command.toNat))

/-- R426: a sensor's value in the latest snapshot, where the sensor exists. -/
def sensorValue (b : List Byte) : Sensor → Option (List Byte)
  | .clusterTemp c => if c < 192 then some ((b.drop (0x20 + 2 * c)).take 2) else none
  | .railPower => some ((b.drop 0x10).take 4)
  | .duty i => if 1 ≤ i && i ≤ 4 then some ((b.drop (0x18 + (i - 1))).take 1) else none
  | .readiness i => if i < 64 then some (toBytes 1 (if bit (bf b 0 8) i then 1 else 0)) else none

def execPldmSensorRead (sensor : Sensor) (s : State) : Out :=
  match sensorValue (snapshot s) sensor with
  | some v => .next (answer s cmdDone v)
  | none => .next (answer s cmdInvalid [])

/-- Writes bytes into a list at an offset, with zeros before them where it was shorter. -/
def putBytes (m : List Byte) (off : Nat) (bs : List Byte) : List Byte :=
  m.take off ++ copies (off - m.length) 0 ++ bs ++ m.drop (off + bs.length)

def isComponent (c : Nat) : Bool := 1 ≤ c && c ≤ 4

def execPldmFirmwareUpdateTransfer (component : Nat) (offset : Nat) (data : List Byte) (s : State) : Out :=
  if !isComponent component then .next (answer s cmdInvalid [])
  else
    let m := (mget s.manage.staged component).getD []
    .next (answer { s with manage := { s.manage with staged := mset s.manage.staged component (putBytes m offset data) } }
      cmdDone [])

/-- The image is checked under R393; the stored one stays when it is refused. -/
def execPldmTransferComplete (component : Nat) (s : State) : Out :=
  match mget s.manage.staged component with
  | none => .next (answer s cmdInvalid [])
  | some b =>
    let s := { s with manage := { s.manage with staged := mdel s.manage.staged component } }
    match imageOf b with
    | none => .next (answer (bootFailed s) cmdInvalid [])
    | some i =>
      if i.kind.toNat = component && imageOk s (rootAccepted s) i then
        .next (answer { s with manage := { s.manage with stored := mset s.manage.stored component b } } cmdDone [])
      else .next (answer (bootFailed s) cmdInvalid [])

/-- R427: ActivateFirmware starts the restart of a partition's firmware. -/
def execPldmActivateFirmware (part : Nat) (s : State) : Out :=
  if part ≥ 8 then .next (answer s cmdInvalid []) else .next (answer (restartWith s part none) cmdDone [])

/-! ## Vendor commands (R428, R429) -/

def execReadTelemetry (offset : BitVec 16) (len : Byte) (s : State) : Out :=
  let n := len.toNat
  if n = 0 || n > 64 || offset.toNat + n > 0x480 then .next (answer s cmdInvalid [])
  else .next (answer s cmdDone (((snapshot s).drop offset.toNat).take n))

def execReadReadiness (s : State) : Out := .next (answer s cmdDone (toBytes 8 (readinessWord s)))

def execWritePowerLimit (value : W32) (s : State) : Out :=
  if value.toNat > 48 then .next (answer s cmdInvalid [])
  else .next (answer { s with power := { s.power with limit := value.toNat } } cmdDone [])

def execSetMigrationThreshold (celsius : Byte) (s : State) : Out :=
  if 80 ≤ celsius.toNat && celsius.toNat ≤ 100 then
    .next (answer { s with power := { s.power with migrateAt := celsius.toNat } } cmdDone [])
  else .next (answer s cmdInvalid [])

/-- R432: once per package reset. -/
def execSetNodeNumber (node : BitVec 16) (s : State) : Out :=
  if node.toNat > 6143 then .next (answer s cmdInvalid [])
  else if s.fabric.nodeSet then .next (answer s cmdNotNow [])
  else .next (answer { s with fabric := { s.fabric with node := node.toNat, nodeSet := true } } cmdDone [])

/-- A port that no route names any more is disabled (R433). -/
def disablePort (s : State) (i : Nat) : State :=
  if portRouted s i || !(portAt s i).up then s
  else setReady (modPort s i fun p => { p with up := false, peer := 0x1FFF, downSince := s.clock }) (19 + i) false

def execWriteRoute (node : BitVec 16) (mask : W32) (s : State) : Out :=
  if node.toNat ≥ 8192 || mask.toNat ≥ 2 ^ 18 then .next (answer s cmdInvalid [])
  else
    let r := if mask = 0 then mdel s.fabric.routes node.toNat else mset s.fabric.routes node.toNat mask
    let s := { s with fabric := { s.fabric with routes := r } }
    .next (answer ((List.range 18).foldl disablePort s) cmdDone [])

def execResetPartition (part : Byte) (s : State) : Out :=
  if part.toNat ≥ 8 then .next (answer s cmdInvalid [])
  else if s.power.tripped then .next (answer s cmdNotNow [])
  else .next (answer (resetPart s part.toNat) cmdDone [])

def execClearTrip (s : State) : Out :=
  if s.power.tripped then .next (answer (packageReset s []) cmdDone []) else .next (answer s cmdNotNow [])

/-- R393: a kind's fused minimum rises to the version of the image in force. -/
def execCommitImage (kind : Byte) (s : State) : Out :=
  let k := kind.toNat
  if k = 0 || k > 5 then .next (answer s cmdInvalid [])
  else match mget s.secure.running k with
    | none => .next (answer s cmdNotNow [])
    | some v => .next (answer { s with secure := { s.secure with
        minVersion := mset s.secure.minVersion k (max v (minSecurity s k)) } } cmdDone [])

/-! ## SPDM (R396) -/

/-- An ERROR response: its code byte is 0x7F. -/
def spdmError (s : State) (code : Nat) : State := answer s 0x7F (toBytes 1 code)
def errInvalid : Nat := 0x01
def errBusy : Nat := 0x03
def errUnsupported : Nat := 0x07
def errNotReady : Nat := 0x42

/-- A request of the other path is being signed. -/
def spdmBusy (s : State) (path : SpdmPath) : Bool :=
  match s.secure.signing with
  | some (p, until_) => p ≠ path && s.clock < until_
  | none => false

/-- A request is served, or told to come again. -/
def spdmServe (path : SpdmPath) (f : State → State) (s : State) : Out :=
  .next (if spdmBusy s path then spdmError s errBusy else f s)

/-- The measurements that the alias key is derived from (R395). -/
def aliasSeed (s : State) : List (List Byte) := [1, 2, 3, 4, 5].map (measureAt s)

/-- A signed response: the responder is busy with it for a while. -/
def spdmSigned (path : SpdmPath) (body : List Byte) (nonce : List Byte) (s : State) : State :=
  let (d, s) := takeDelay s
  answer { s with secure := { s.secure with signing := some (path, s.clock + d) } } 0 (body ++ Config.slhSign (aliasSeed s) (body ++ nonce))

/-- The alias certificate has been issued (R397). -/
def attested (s : State) : Bool := bit s.secure.readiness.toNat 18

/-- The chain of slot 0, and its digest. -/
def certChain (s : State) : List Byte := Config.certificate (aliasSeed s)

/-- Version 1.4. -/
def execGetVersion (path : SpdmPath) (s : State) : Out := spdmServe path (fun s => answer s 0 [0x14]) s
/-- The CT exponent. -/
def execGetCapabilities (path : SpdmPath) (s : State) : Out := spdmServe path (fun s => answer s 0 [21]) s
def execNegotiateAlgorithms (path : SpdmPath) (algs : SpdmAlgs) (s : State) : Out :=
  spdmServe path (fun s => if algs.slhDsaShake256s && algs.sha3_384 then answer s 0 [] else spdmError s errInvalid) s
def execGetDigests (path : SpdmPath) (s : State) : Out :=
  spdmServe path (fun s => answer s 0 (Config.sha3 (certChain s))) s
def execGetCertificate (path : SpdmPath) (slot : Byte) (s : State) : Out :=
  spdmServe path (fun s => if slot = 0 then answer s 0 (certChain s) else spdmError s errInvalid) s
def execChallenge (path : SpdmPath) (nonce : List Byte) (s : State) : Out :=
  spdmServe path (fun s =>
    if attested s then spdmSigned path (Config.sha3 (certChain s)) nonce s else spdmError s errNotReady) s

/-- A measurement index of R394. -/
def isMeasure (i : Nat) : Bool := (1 ≤ i && i ≤ 5) || (0x10 ≤ i && i ≤ 0x50)

/-- The measurements that a request names: 0 their number, 0xFF all of them. -/
def measureBody (s : State) (index : Nat) : Option (List Byte) :=
  let all := (List.range 0x51).filter isMeasure
  if index = 0 then some (toBytes 1 all.length)
  else if index = 0xFF then some (all.flatMap fun i => toBytes 1 i ++ measureAt s i)
  else if isMeasure index then some (toBytes 1 index ++ measureAt s index)
  else none

def execGetMeasurements (path : SpdmPath) (index : Byte) (nonce : List Byte) (s : State) : Out :=
  spdmServe path (fun s =>
    if !attested s then spdmError s errNotReady
    else match measureBody s index.toNat with
      | none => spdmError s errInvalid
      | some b => if nonce = [] then answer s 0 b else spdmSigned path b nonce s) s

def execSpdmUnsupportedRequest (path : SpdmPath) (code : Byte) (s : State) : Out :=
  spdmServe path (fun s => let _ := code; spdmError s errUnsupported) s

/-! ## The link to the host (R429) -/

def execHostLinkChange (up : Bool) (s : State) : Out := .next { s with manage := { s.manage with linkUp := up } }

end Sys2Proof.Machine
end

