-- ==== Sys2Proof/Machine/DebugWindow.lean ====
section
/-! DEFINITION. The debug window (R405, R406, R412, R413, R415), PC samples (R411) and what the replay ring releases
(R421 to R423). -/

namespace Sys2Proof.Machine

/-! ## The debug window (R405) -/

def dbgDone : Nat := 0
def dbgFailed : Nat := 2

/-- The district that DBGHANDLE names. -/
def dbgTarget (s : State) (fn : Nat) : Option Nat := handleOf s fn (functionAt s fn).dbgHandle
def setDbgStat (s : State) (fn n : Nat) : State := modFunction s fn fun f => { f with dbgStat := n }

/-- A debug command: it acts on the district, or fails and changes nothing. -/
def debugCommand (fn : Nat) (f : State → Nat → Option State) (s : State) : Out :=
  if fn > 64 then .fault .noSuchUnit
  else match (dbgTarget s fn).bind (f s) with
    | some s => .next (setDbgStat s fn dbgDone)
    | none => .next (setDbgStat s fn dbgFailed)

/-! ## The descriptor (R406, R412) -/

/-- A monitor entry, with the place that its address has now; none when it breaks R412 or does not translate. An entry
that is off holds no monitor. -/
def monitorIn (s : State) (d : District) (b : List Byte) : Option (Option Monitor) :=
  let va := bf b 0 8
  let cond := bf b 0x0C 1
  let action := bf b 0x0D 1
  if va % 4 ≠ 0 || cond > 4 || action > 3 || bf b 0x0E 2 ≠ 0 then none
  else if cond = 0 then some none
  else match access s d .home permR va 4, rangeOf d va with
    | .fault .., _ => none
    | _, some g =>
      let m : Monitor := ⟨g.node, d.ctx, iaOf d va, BitVec.ofNat 32 (bf b 8 4), cond, action, false⟩
      some (some { m with known := monitorHolds s m })
    | _, none => none

/-- The monitors of a descriptor by number. -/
def monitorsIn (s : State) (d : District) (b : List Byte) : Nat → Option (List (Nat × Monitor))
  | 0 => some []
  | n + 1 =>
    let i := 3 - n
    match monitorIn s d ((b.drop (0x28 + 16 * i)).take 16), monitorsIn s d b n with
    | some (some m), some r => some ((i, m) :: r)
    | some none, some r => some r
    | _, _ => none

def spanWords (b : List Byte) : List Nat := (List.range 4).map fun i => bf b (0x10 + 4 * i) 4

/-- Reserved fields, period and ring size of a descriptor. -/
def descriptorSound (b : List Byte) : Bool :=
  let period := bf b 0x0C 4
  (bf b 0 8 = 0 || isPow2 (bf b 8 4)) && (period = 0 || (256 ≤ period && period ≤ 2 ^ 24)) &&
  (spanWords b).all (· < 2 ^ 20) && bf b 0x20 4 < 4 && bf b 0x24 4 = 0 && bf b 0x68 4 < 65536 && bf b 0x6C 4 < 65536 &&
  bf b 0x70 16 = 0

/-- Waves of a district, with their keys. -/
def districtWaves (s : State) (k : Nat) : List (Nat × Wave) :=
  s.waves.filter fun e => (crewAt s e.2.id.crew).map (·.district) = some k

/-- R406: command 1 sets the debugging state all at once. -/
def loadDebug (s : State) (fn k : Nat) : Option State :=
  match districtAt s k, ringPlaces s fn false (functionAt s fn).dbgAddr.toNat 128 with
  | some d, some ps =>
    let b := readPlaces s ps
    if !descriptorSound b then none
    else match monitorsIn s d b 4 with
      | none => none
      | some ms =>
        let trace : Trace :=
          ⟨BitVec.ofNat 64 (bf b 0 8), bf b 8 4, bf b 0x0C 4, (spanWords b).map (BitVec.ofNat 32 ·), bit (bf b 0x20 4) 0, 0, 0, 0⟩
        let dbg : Debug :=
          { trace := trace, capture := if bit (bf b 0x20 4) 1 then 1 else 0, monitors := ms,
            causal := ⟨BitVec.ofNat 16 (bf b 0x68 4), bf b 0x6C 4, 0, 0⟩, counters := [], since := s.clock, samples := [] }
        let s := modDebug s k fun _ => dbg
        some { s with waves := s.waves.map fun e =>
          if (crewAt s e.2.id.crew).map (·.district) = some k then
            (e.1, modSched e.2 fun q => { q with paid := 0 }) else e }
  | _, _ => none

def execLoadDescriptor (fn : Nat) (s : State) : Out := debugCommand fn (fun s k => loadDebug s fn k) s

/-- R415. -/
def counterBytes (s : State) (d : District) : List Byte :=
  let x := d.dbg
  ((List.range 16).flatMap fun i => toBytes 8 ((mget x.counters i).getD 0).toNat) ++
  toBytes 8 x.causal.owed ++ toBytes 8 x.causal.visits ++ toBytes 8 (s.clock - x.since) ++
  toBytes 8 x.trace.written ++ toBytes 8 x.trace.dropped ++ toBytes 1 x.capture ++ copies 23 0

def execReadCounters (fn : Nat) (s : State) : Out :=
  debugCommand fn (fun s k => match districtAt s k, ringPlaces s fn false (functionAt s fn).dbgAddr.toNat 192 with
    | some d, some ps => some (rawStore s 0 true ps (counterBytes s d))
    | _, _ => none) s

/-- The number of a debug-window command in a record (R413). -/
def windowNum : Nat := 0xFFFF
def execStartCapture (fn : Nat) (s : State) : Out := debugCommand fn (fun s k => some (captureStart s k windowNum)) s
def execStopCapture (fn : Nat) (s : State) : Out := debugCommand fn (fun s k => some (captureStop s k windowNum)) s
def execUnfreeze (fn : Nat) (s : State) : Out := debugCommand fn (fun s k => some (captureUnfreeze s k)) s

/-! ## PC samples (R411) -/

/-- The wave slots of a district on a core. -/
def sampleSlots (s : State) (core k : Nat) : List Nat :=
  ((districtWaves s k).filter fun e => wkCore e.1 = core && wkSlot e.1 < 64).map fun e => wkSlot e.1

/-- The clock of a core's next sample, and the slot sampled last; 64 before the first. -/
def sampleState (d : Debug) (core : Nat) : Nat × Nat := (mget d.samples core).getD (d.since + d.trace.period, 64)

def sampleDue (s : State) (core k : Nat) : Bool :=
  match districtAt s k with
  | none => false
  | some d => d.dbg.capture = 1 && d.dbg.trace.period ≠ 0 && (sampleState d.dbg core).1 ≤ s.clock &&
      sampleSlots s core k ≠ []

/-- What a sample reports of a wave: state, PC, lane mask, and the deferred-quit bit. -/
structure Sample where
  state : Nat
  pc : Nat
  lanes : Nat
  deferred : Bool

/-- The crew's last QUIT waits for its operations (R16, R273). -/
def quitDeferred (s : State) (w : Wave) : Bool :=
  (crewWaves s w.id.crew).all (·.2.ended) && crewOps s w.id.crew ≠ []

/-- The next instruction or its header cannot be read yet. -/
def fetchWaits (s : State) (d : District) (f : Fibre) : Bool :=
  f.fell || (match fetchWord s d f.pc.toNat with | .missing .. => true | _ => false)

/-- The states of R411 for a fibre that has not issued in this clock: 1 ready, 2 stalled, 3 waiting, 4 held, 5 parked,
6 fetch-wait. -/
def fibreState (s : State) (d : District) (w : Wave) (f : Fibre) : Nat :=
  match f.wait with
  | .parked => 5
  | .hold _ | .again => 4
  | .fresh | .quit _ => 2
  | .ready | .paced _ =>
    if !fibreReady s.clock f || s.clock < w.sched.nextIssue || s.clock < w.sched.delayed then 2
    else if fetchWaits s d f then 6
    else match pcReady s d w f.pc.toNat with
      | .yes => 1
      | _ => 2
  | _ => 3

def sampleOf (s : State) (d : District) (w : Wave) : Sample :=
  match w.fibres with
  | [] =>
    let q := quitDeferred s w
    ⟨7, w.sched.lastQuit.toNat, if q then w.sched.quitLanes.toNat else 0, q⟩
  | (l, f) :: _ =>
    let mask := maskOf ((w.fibres.filter fun e => e.2.pc = f.pc).map Prod.fst)
    match w.sched.lastIssue with
    | some (c, pc, ls) =>
      if c = s.clock && bit ls.toNat l then ⟨0, pc.toNat, mask, false⟩
      else ⟨fibreState s d w f, if f.wait == .parked then (laneAt w l).trap.pc.toNat else f.pc.toNat, mask, false⟩
    | none => ⟨fibreState s d w f, if f.wait == .parked then (laneAt w l).trap.pc.toNat else f.pc.toNat, mask, false⟩

/-- One sample: the next wave slot of the district in turn. -/
def sampleNow (s : State) (core k : Nat) : State :=
  match districtAt s k with
  | none => s
  | some d =>
    let slots := sampleSlots s core k
    let last := (sampleState d.dbg core).2
    let j := (slots.find? fun x => last < 64 && last < x).getD (slots.headD 0)
    match waveAt s core j with
    | none => s
    | some w =>
      let x := sampleOf s d w
      let s := modDebug s k fun y => { y with samples := mset y.samples core (s.clock + y.trace.period, j) }
      traceRec s k
        { kind := 3, id := (w.spans.stack.headD 0).toNat, core := core, slot := j,
          flags := x.state + (if x.deferred then 16 else 0), lanes := x.lanes, value := x.pc, cycles := cyclesOf s core }

def execPcSample (core district : Nat) (s : State) : Out :=
  if core ≥ 768 then .fault .noSuchUnit
  else if sampleDue s core district then .next (sampleNow s core district) else .next s

/-! ## What the replay ring releases (R421 to R423) -/

def waitsReplay (e : Nat × Fibre) : Bool := e.2.wait == .replay

/-- A `yieldpt` whose event is over but for its record: restored since, or no longer asked to yield. -/
def yieldOver (s : State) (w : Wave) (e : Nat × Fibre) : Bool :=
  match e.2.wait with
  | .yieldpt true => true
  | .yieldpt false => !((crewAt s w.id.crew).map (·.yieldAsked)).getD false
  | _ => false

/-- Waves of the district with a `yieldpt` that the ring lets complete. -/
def yieldsReady (s : State) (k : Nat) : List (Nat × Nat) :=
  ((districtWaves s k).filter fun e => wkSlot e.1 < 64 && e.2.fibres.any (yieldOver s e.2) &&
    (let ev := e.2.fibres.any fun x => x.2.wait == .yieldpt true
     replayGate s k (yieldRecord (wkCore e.1) (wkSlot e.1) ev) != .stall)).map fun e => (wkCore e.1, wkSlot e.1)

def endYields (s : State) (k : Nat) : State :=
  (yieldsReady s k).foldl (fun s e => endYield (endYield s e.1 e.2 true) e.1 e.2 false) s

/-- Lanes of the district that wait for the ring and that `p` selects, by wave key and lane, issue again. -/
def wakeReplay (s : State) (k : Nat) (p : Nat → Nat → Bool) : State :=
  { s with waves := s.waves.map fun e =>
      if (crewAt s e.2.id.crew).map (·.district) = some k then
        (e.1, wakeWave (fun l f => f.wait == .replay && p e.1 l) e.2) else e }

def replayWaits (s : State) (k : Nat) (p : Nat → Nat → Bool) : Bool :=
  (districtWaves s k).any fun e => e.2.fibres.any fun x => waitsReplay x && p e.1 x.1

/-- Held and logged accesses that only the ring still holds. -/
def ringHeld (k : Nat) (h : Held) : Bool :=
  realDistrict h.req.district = k && h.req.code ≠ 0 && (h.needed || h.why == .partition)

/-- They are tried again, where that changes anything. -/
def retryRing (s : State) (k : Nat) : Option State :=
  if !(s.cores.any fun c => (c.2.held ++ c.2.log).any (ringHeld k)) then none
  else
    let t := replayLogs (retryAll s false (ringHeld k)) false (ringHeld k)
    if t.cores = s.cores then none else some t

/-- R421: there is room in the ring again, or the ring is off. -/
def stallStep (s : State) (k : Nat) : Option State :=
  let mode := replayMode s k
  if mode = 2 || (mode = 1 && replayHead s k - replayTail s k ≥ replayEntries s k) then none
  else if replayWaits s k fun _ _ => true then some (wakeReplay s k fun _ _ => true)
  else if yieldsReady s k ≠ [] then some (endYields s k)
  else retryRing s k

def execReplayLogStallRelease (district : Nat) (s : State) : Out := .next ((stallStep s district).getD s)

/-- The agent named at tail has ended (R423). -/
def agentGone (s : State) (k : Nat) (bs : List Byte) : Bool :=
  match districtAt s k with
  | none => false
  | some d =>
    let f := fun (off n : Nat) => bf bs off n
    let core := f 8 2
    match f 5 1 with
    | 1 | 2 | 5 | 7 => d.replay.goneSlots.contains (core, f 0x0A 1)
    | 3 => d.replay.goneCrews.contains (core, f 0x0B 1)
    | 8 => d.replay.goneSlots.contains (core, f 0x0C 4)
    | _ => false

/-- R422, R423: the record at tail lets its agent go on, or its agent is gone. -/
def resolveStep (s : State) (k : Nat) : Option State :=
  if replayMode s k ≠ 2 || replayHead s k ≤ replayTail s k || ((districtAt s k).map (·.replay.diverged)).getD true then none
  else
    let bs := rrecAt s k (replayTail s k)
    let kind := bf bs 5 1
    let core := bf bs 8 2
    let lane := bf bs 0x0B 1
    let named := fun (key l : Nat) =>
      if kind = 3 || kind = 4 then true
      else wkCore key = core && wkSlot key = bf bs 0x0A 1 && (lane = 0xFF || lane = l)
    if agentGone s k bs then some (diverge s k core)
    else if replayWaits s k named then some (wakeReplay s k named)
    else if yieldsReady s k ≠ [] then some (endYields s k)
    else retryRing s k

def execReplayEventResolve (district : Nat) (s : State) : Out := .next ((resolveStep s district).getD s)

end Sys2Proof.Machine
end

