-- ==== Sys2Proof/Machine/Approx.lean ====
section
/-! DEFINITION. The reciprocal, root and transcendental instructions (R202, R203). The exact value is enclosed in
fixed point with 400 fraction bits; the result is any value within the bound of R202, a free value of the part. -/

namespace Sys2Proof.Machine

/-- Fraction bits of the fixed-point values below. -/
def fxBits : Nat := 400
def fxOne : Nat := 2 ^ fxBits
/-- 2π and ln 2 in fixed point. -/
def fxTwoPi : Nat := 0x6487ed5110b4611a62633145c06e0e68948127044533e63a0105df531d89cd9128a5043cc71a026ef7ca8cd9e69d218d98158
def fxLn2 : Nat := 0xb17217f7d1cf79abc9e3b39803f2f6af40f343267298b62d8a0d175b8baafa2be7b876206debac98559552fb4afa1b10ed2e

/-- Σ z^k/k! from a term on. -/
def fxExpSum : Nat → Nat → Nat → Nat → Nat
  | 0, _, _, _ => 0
  | n + 1, k, term, z => term + fxExpSum n (k + 1) (term * z / fxOne / k) z
/-- e^z for 0 ≤ z < 1 in fixed point. -/
def fxExp (z : Nat) : Nat := fxExpSum 110 1 fxOne z

/-- Alternating sum term − term·r²/(k(k+1)) + … -/
def fxTrig : Nat → Nat → Int → Nat → Int
  | 0, _, _, _ => 0
  | n + 1, k, term, r2 => term + fxTrig n (k + 2) (-(term * r2 / fxOne / (k * (k + 1) : Nat))) r2
/-- sin and cos of 0 ≤ r < 2π. -/
def fxSin (r : Nat) : Int := fxTrig 90 2 r (r * r / fxOne)
def fxCos (r : Nat) : Int := fxTrig 90 1 fxOne (r * r / fxOne)

/-- Σ y^(2k+1)/(2k+1). -/
def fxAtanhSum : Nat → Nat → Nat → Nat → Nat
  | 0, _, _, _ => 0
  | n + 1, k, term, y2 => term / k + fxAtanhSum n (k + 2) (term * y2 / fxOne) y2
/-- ln u for 1 ≤ u < 2. -/
def fxLn (u : Nat) : Nat :=
  let y := (u - fxOne) * fxOne / (u + fxOne)
  2 * fxAtanhSum 140 1 y (y * y / fxOne)

/-- m × 2^e in fixed point. -/
def fxOf (m : Nat) (e : Int) : Nat := (scaleQuot m 1 (e + fxBits)).1 / (scaleQuot m 1 (e + fxBits)).2

/-- 2^x for x = ± z in fixed point: mantissa in fixed point and exponent. -/
def fxExp2 (neg : Bool) (z : Nat) : Nat × Int :=
  let i := z / fxOne
  let f := z % fxOne
  if !neg then (fxExp (f * fxLn2 / fxOne), i)
  else if f = 0 then (fxOne, -(i : Int))
  else (fxExp ((fxOne - f) * fxLn2 / fxOne), -(i : Int) - 1)

/-- |± m × 2^e − y| ≤ n / 2^fxBits × 2^e' for an exact y = s × 2^(ye − fxBits) and a bound b × 2^be. -/
def nearEx (neg : Bool) (m : Nat) (e : Int) (y : Int) (ye : Int) (b : Nat) (be : Int) : Bool :=
  let t := min e (min (ye - fxBits) be)
  let d := alignTo t neg m e - alignTo t (decide (y < 0)) y.natAbs (ye - fxBits)
  d.natAbs ≤ (alignTo t false b be).natAbs

/-- The distance between the two values of a format that bracket a nonzero exact value (R202): its exponent. -/
def ulpExp (f : Fmt) (y : Int) (ye : Int) : Int :=
  max (ilogb y.natAbs fxOne + ye - fmtFrac f) (fmtEmin f - fmtFrac f)

/-- A result of R202: the part's own bits where they meet the bound of b × 2^be (and do not exceed 1 in magnitude
under `unit`), the correctly rounded value otherwise. NX is set. DESIGN CHOICE (log 65): UF and OF are those of the
exact value's correct rounding and not of the part's own bits, and under `.ftz` the correctly rounded value stands in
for subnormal bits of the part. -/
def approxResult (op : Nat) (f : Fmt) (x : Nat) (y : Int) (ye : Int) (b : Nat) (be : Int) (unit : Bool) (ftz : Bool) : Nat × Nat :=
  let r := roundEx f .rne ftz (.num (decide (y < 0)) y.natAbs fxOne ye)
  let fl := flagNX ||| r.2
  if fl &&& flagOF ≠ 0 then (r.1, fl)
  else
    let z := Config.approx op (fmtBits f + fmtFrac f) x % 2 ^ fmtBits f
    match fpDecode f z with
    | .fin n m e =>
      if nearEx n m e y ye b be && (!unit || nearEx false m e 0 0 1 0) && !(ftz && isSubnormal f z) then (z, fl)
      else (r.1, fl)
    | _ => (r.1, fl)

/-- An odd function whose value at a small positive x lies below x by less than x × 2^−190: x less a sticky bit stands
for it, which rounds and compares with the values of a format as the exact value does. None from 2^−100 on. -/
def belowArg (n : Bool) (m : Nat) (e : Int) : Option (Int × Int) :=
  if ilogb m 1 + e < -100 then
    let y : Int := (m * 2 ^ 200 - 1 : Nat)
    some (if n then -y else y, e - 200 + fxBits)
  else none

/-- Ulps that an entry admits: two for f32, one for f16 and bf16 (R202). -/
def ulps (f : Fmt) : Nat := if f = .f32 then 2 else 1

/-- rsq (R203): f16 and bf16 correctly rounded, f32 and f64 within 1 ulp (R202). The root is known to many bits with
a sticky one below them, which decides every comparison with a value of the format. -/
def fpRsq (f : Fmt) (ftz : Bool) (a : Nat) : Nat × Nat :=
  match fpDecode f (flushIn ftz f a) with
  | .nan s => (canonNaN f, if s then flagNV else 0)
  | .inf n => if n then (canonNaN f, flagNV) else (0, 0)
  | .fin n m e =>
    if m = 0 then (infBits f n, flagDZ)
    else if n then (canonNaN f, flagNV)
    else
      let x := sqrtEx 1 m (-e)
      let near := roundEx f .rne ftz x
      if near.2 = 0 || f = .f16 || f = .bf16 then near
      else match x with
        | .num _ q _ k => approxResult 0x031 f a q (k + fxBits) 1 (ulpExp f q (k + fxBits)) false ftz
        | _ => near

/-- ex2 (R203). -/
def fpEx2 (f : Fmt) (ftz : Bool) (a : Nat) : Nat × Nat :=
  match fpDecode f (flushIn ftz f a) with
  | .nan s => (canonNaN f, if s then flagNV else 0)
  | .inf n => if n then (0, 0) else (infBits f false, 0)
  | .fin n m e =>
    if m = 0 then ((fpOfInt f .rne 1).1, 0)
    else if ilogb m 1 + e ≥ 10 then
      (if n then roundEx f .rne ftz (.num false 1 1 (-5000)) else roundEx f .rne ftz (.num false 1 1 5000))
    else
      let z := fxOf m e
      let (y, ye) := fxExp2 n z
      -- exact where x is integral and the result representable
      let exact := roundEx f .rne ftz (.num false 1 1 ye)
      if z % fxOne = 0 && z != 0 then exact
      else approxResult 0x033 f a y ye (ulps f) (ulpExp f y ye) false ftz

/-- lg2 (R203). -/
def fpLg2 (f : Fmt) (ftz : Bool) (a : Nat) : Nat × Nat :=
  match fpDecode f (flushIn ftz f a) with
  | .nan s => (canonNaN f, if s then flagNV else 0)
  | .inf n => if n then (canonNaN f, flagNV) else (infBits f false, 0)
  | .fin n m e =>
    if m = 0 then (infBits f true, flagDZ)
    else if n then (canonNaN f, flagNV)
    else
      let k := ilogb m 1
      if m = 2 ^ k.toNat then roundEx f .rne ftz (exInt (k + e) 0)
      else
        let u := fxOf m (-k)
        let y : Int := (k + e) * (fxOne : Int) + ((fxLn u * fxOne / fxLn2 : Nat) : Int)
        if f = .f32 && k + e = -1 || f = .f32 && k + e = 0 then approxResult 0x034 f a y 0 1 (-22) false ftz
        else approxResult 0x034 f a y 0 (ulps f) (ulpExp f y 0) false ftz

/-- sin and cos (R203): absolute error 2^−21 for f32, one ulp for f16 and bf16. -/
def fpTrig (cos : Bool) (f : Fmt) (ftz : Bool) (a : Nat) : Nat × Nat :=
  match fpDecode f (flushIn ftz f a) with
  | .nan s => (canonNaN f, if s then flagNV else 0)
  | .inf _ => (canonNaN f, flagNV)
  | .fin n m e =>
    if m = 0 then (if cos then (fpOfInt f .rne 1).1 else signBit f n, 0)
    else
      let r := fxOf m e % fxTwoPi
      let (y, ye) := if cos then (fxCos r, 0) else (belowArg n m e).getD (if n then -fxSin r else fxSin r, 0)
      let op := if cos then 0x036 else 0x035
      if f = .f32 then approxResult op f a y ye 1 (-21) false ftz
      else approxResult op f a y ye 1 (ulpExp f y ye) false ftz

/-- tanh (R203). -/
def fpTanh (f : Fmt) (ftz : Bool) (a : Nat) : Nat × Nat :=
  match fpDecode f (flushIn ftz f a) with
  | .nan s => (canonNaN f, if s then flagNV else 0)
  | .inf n => (signBit f n + (fpOfInt f .rne 1).1, 0)
  | .fin n m e =>
    if m = 0 then (signBit f n, 0)
    else
      -- beyond 2^7 the exact value lies within 2^−184 of ±1
      let z := if ilogb m 1 + e ≥ 7 then 128 * fxOne else fxOf m e
      let (g, ge) := fxExp2 false (2 * z * fxOne / fxLn2)
      let big := g * 2 ^ ge.toNat
      let t := (big - fxOne) * fxOne / (big + fxOne)
      let (y, ye) := (belowArg n m e).getD (if n then -(t : Int) else t, 0)
      approxResult 0x037 f a y ye (ulps f) (ulpExp f y ye) true ftz

end Sys2Proof.Machine
end

