-- ==== Sys2Proof/Machine/IntOps.lean ====
section
/-! DEFINITION. The pure results of the integer, logic, bit-field, predicate, lane and mask instructions (R177 to R190). -/

namespace Sys2Proof.Machine

/-- An operand read as an exact integer, signed or unsigned as its type says (R177). -/
def exactInt (t : Ty) (x : Nat) : Int :=
  if tySigned t then sval (tyBits t) x else ((x % 2 ^ tyBits t : Nat) : Int)

/-- The bounds of an integer type (R82). -/
def intLo (t : Ty) : Int := if tySigned t then -((2 ^ (tyBits t - 1) : Nat) : Int) else 0
def intHi (t : Ty) : Int :=
  if tySigned t then ((2 ^ (tyBits t - 1) : Nat) : Int) - 1 else ((2 ^ tyBits t : Nat) : Int) - 1
def clampInt (lo hi x : Int) : Int := if x < lo then lo else if hi < x then hi else x

/-- The last line of R177: the clamp of `.sat`, then the result modulo 2^w. -/
def intResult (t : Ty) (sat : Bool) (x : Int) : Nat :=
  wrap (tyBits t) (if sat then clampInt (intLo t) (intHi t) x else x)

inductive ArithOp where
  | add | sub | mul | mulhi | mad | min | max | abs | neg | div | rem
  deriving DecidableEq, Repr

/-- The exact result of R177. -/
def arithInt (op : ArithOp) (t : Ty) (a b c : Int) : Int :=
  match op with
  | .add => a + b
  | .sub => a - b
  | .mul => a * b
  | .mulhi => (a * b) / ((2 ^ tyBits t : Nat) : Int)
  | .mad => a * b + c
  | .min => if a ≤ b then a else b
  | .max => if a ≤ b then b else a
  | .abs => if a < 0 then -a else a
  | .neg => -a
  | .div => if b = 0 then (if tySigned t then -1 else ((2 ^ tyBits t : Nat) : Int) - 1) else Int.tdiv a b
  | .rem => if b = 0 then a else a - b * Int.tdiv a b

/-- Integer arithmetic on raw operands (R177). -/
def arithBits (op : ArithOp) (t : Ty) (sat : Bool) (a b c : Nat) : Nat :=
  intResult t sat (arithInt op t (exactInt t a) (exactInt t b) (exactInt t c))

/-- R178. -/
def leaBits (signed : Bool) (a b sh : Nat) : Nat :=
  wrap 64 (a + (if signed then sval 32 b else ((b % 2 ^ 32 : Nat) : Int)) * ((2 ^ sh : Nat) : Int))

inductive ShiftOp where
  | shl | shr | sra | rot
  deriving DecidableEq, Repr

/-- Shifts and rotation of R179 at width `w` by amount `n`. -/
def shiftBits (op : ShiftOp) (w a n : Nat) : Nat :=
  match op with
  | .shl => if n ≥ w then 0 else a * 2 ^ n % 2 ^ w
  | .shr => if n ≥ w then 0 else a / 2 ^ n
  | .sra => if n ≥ w then (if bit a (w - 1) then 2 ^ w - 1 else 0)
    else wrap w (sval w a / ((2 ^ n : Nat) : Int))
  | .rot => let k := n % w
    (a * 2 ^ k % 2 ^ w) ||| (a / 2 ^ (w - k))

inductive LogicOp where
  | and | or | xor
  deriving DecidableEq, Repr

def logicBits (op : LogicOp) (a b : Nat) : Nat :=
  match op with
  | .and => a &&& b
  | .or => a ||| b
  | .xor => a ^^^ b

def notBits (w a : Nat) : Nat := 2 ^ w - 1 - a % 2 ^ w

/-- Leading zeros of the low `n` bits. -/
def clzBits (w : Nat) : Nat → Nat → Nat
  | 0, _ => w
  | n + 1, a => if bit a n then w - 1 - n else clzBits w n a
/-- Trailing zeros: the lowest set bit from `i` on, `w` when there is none in `n` bits. -/
def ctzBits (w : Nat) : Nat → Nat → Nat → Nat
  | 0, _, _ => w
  | n + 1, i, a => if bit a i then i else ctzBits w n (i + 1) a
/-- Bit reversal of the low `n` bits. -/
def brevBits : Nat → Nat → Nat
  | 0, _ => 0
  | n + 1, a => a % 2 * 2 ^ n + brevBits n (a / 2)

/-- The number whose bit i, below `n`, is `f i`. -/
def ofBits (f : Nat → Bool) : Nat → Nat
  | 0 => 0
  | n + 1 => ofBits f n + (if f n then 2 ^ n else 0)

/-- `bfe` of R180; `pw` is the position word. -/
def bfeBits (signed : Bool) (w a pw : Nat) : Nat :=
  let p := field pw 0 8
  let l := min (field pw 8 8) w
  let f := fun i => if p + i < w then bit a (p + i) else signed && bit a (w - 1)
  if l = 0 then 0
  else ofBits (fun i => if i < l then f i else signed && f (l - 1)) w

/-- `bfi` of R180. -/
def bfiBits (w a b pw : Nat) : Nat :=
  let p := field pw 0 8
  let l := field pw 8 8
  ofBits (fun j => if p ≤ j && j < p + l then (if j - p < w then bit a (j - p) else false) else bit b j) w

/-- The six integer conditions of R160. -/
def condInt (c : Nat) (a b : Int) : Bool :=
  match c with
  | 0 => a == b
  | 1 => a != b
  | 2 => decide (a < b)
  | 3 => decide (a ≤ b)
  | 4 => decide (a > b)
  | _ => decide (a ≥ b)

/-- The combination of R160. -/
def combine (comb : Nat) (x c : Bool) : Bool :=
  match comb with
  | 0 => x
  | 1 => x && c
  | 2 => x || c
  | _ => x != c

/-- The predicate writes of a P-format instruction with result `x` (R181). -/
def predResult (v : View) (l : Nat) (f : PF) (x : Bool) : List (Nat × Bool) :=
  let y := combine f.comb.toNat x (v.pred l f.pcomb.toNat != f.ncomb)
  [(f.pdst.toNat, y), (f.pdst2.toNat, !y)]

inductive RedOp where
  | add | min | max | and | or | xor
  deriving DecidableEq, Repr

/-- The operation that sub bits 2:0 select (R188). -/
def redOf (n : Nat) : RedOp :=
  match n % 8 with
  | 0 => .add | 1 => .min | 2 => .max | 3 => .and | 4 => .or | _ => .xor

/-- The identity of R188, as raw bits. -/
def redIdentity (op : RedOp) (t : Ty) : Nat :=
  match op with
  | .add | .or | .xor => 0
  | .and => 2 ^ tyBits t - 1
  | .min => wrap (tyBits t) (intHi t)
  | .max => wrap (tyBits t) (intLo t)

/-- The exact combination of a list of raw values (R188). -/
def redValue (op : RedOp) (t : Ty) (sat : Bool) : List Nat → Nat
  | [] => redIdentity op t
  | x :: xs =>
    match op with
    | .add => intResult t sat (xs.foldl (fun s y => s + exactInt t y) (exactInt t x))
    | .min => wrap (tyBits t) (xs.foldl (fun s y => if exactInt t y < s then exactInt t y else s) (exactInt t x))
    | .max => wrap (tyBits t) (xs.foldl (fun s y => if s < exactInt t y then exactInt t y else s) (exactInt t x))
    | .and => xs.foldl (· &&& ·) x
    | .or => xs.foldl (· ||| ·) x
    | .xor => xs.foldl (· ^^^ ·) x

/-- The source lane of `shfl` (R185): none outside 0 to 31. -/
def shflLane (mode l n : Nat) : Option Nat :=
  match mode with
  | 0 => some (n % 32)
  | 1 => if n ≤ l then some (l - n) else none
  | 2 => if l + n < 32 then some (l + n) else none
  | _ => some (l ^^^ (n % 32))

/-- The condition of `ktest` in lane `l` (R190). -/
def ktestCond (c l ka kb : Nat) : Bool :=
  match c with
  | 0 => ka == kb
  | 1 => ka != kb
  | 2 => (ka &&& kb) != 0
  | 3 => (ka &&& kb) == 0
  | 4 => (ka &&& kb) == kb
  | _ => bit ka l

/-- The lowest set lane of a mask, 32 for none; with `hi` the highest (R189). -/
def firstLane (hi : Bool) (m : Nat) : Nat :=
  if hi then ((lanesOf m).getLast?).getD 32 else ((lanesOf m).head?).getD 32

end Sys2Proof.Machine
end

