-- ==== Sys2Proof/Machine/Integer.lean ====
section
/-! DEFINITION. The meanings of class 0: moves, integer and floating arithmetic on the shared opcodes, logic,
shifts, bit fields, compares and predicates (R173 to R184, R200, R201). -/

namespace Sys2Proof.Machine

/-- Operands a, b and c of a G-format instruction of `n` registers each in a lane. -/
def gA (v : View) (l : Nat) (f : GF) (n : Nat) : Nat := v.opd l f.a n
def gB (v : View) (l : Nat) (f : GF) (n : Nat) : Nat := v.opd l f.b n
def gC (v : View) (l : Nat) (f : GF) (n : Nat) : Nat := v.opd l f.c n

/-- A floating result of a lane with its flags. -/
def outFp (e : BitVec 8) (t : Ty) (x : Nat × Nat) : LaneRes :=
  .done { wr := [⟨e, tyRegs t, x.1⟩], flags := x.2 }

/-- Integer arithmetic in a lane (R177). -/
def laneArith (op : ArithOp) (f : GF) (v : View) (l : Nat) : LaneRes :=
  let t := tyOf f.dtype
  let n := tyRegs t
  outReg f.dst n (arithBits op t f.sat (gA v l f n) (gB v l f n) (gC v l f n))

/-- Floating arithmetic in a lane (R200). -/
def laneFp (op : Fmt → Rnd → Bool → Nat → Nat → Nat → Nat × Nat) (f : GF) (v : View) (l : Nat) : LaneRes :=
  let t := tyOf f.dtype
  let n := tyRegs t
  outFp f.dst t (onElems t (fun g => op g (rndOf f.rnd) f.ftz) (gA v l f n) (gB v l f n) (gC v l f n))

/-- The shared opcodes act on integers or floating values as the type selects (R167). -/
def laneShared (op : ArithOp) (fp : Fmt → Rnd → Bool → Nat → Nat → Nat → Nat × Nat) (f : GF) (v : View) (l : Nat) : LaneRes :=
  if tyFp6 (tyOf f.dtype) then laneFp fp f v l else laneArith op f v l

def immRegs (isel : BitVec 2) : Nat := 1 + isel.toNat % 2

/-- The immediate of R159 as an operand of its width. -/
def immValue (f : GIF) : Nat :=
  match f.isel.toNat with
  | 0 => f.imm.toNat
  | 1 => wrap 64 (sval 32 f.imm.toNat)
  | 2 => f.imm.toNat
  | _ => (fpCvt .f32 .f64 .rne false f.imm.toNat).1

/-- The immediate moved as bits: an FP32 pattern, NaN included, is converted to FP64 by its value (R174). -/
def laneImmArith (op : ArithOp) (fp : Fmt → Nat → Nat → Nat × Nat) (f : GIF) (v : View) (l : Nat) : LaneRes :=
  let n := immRegs f.isel
  let a := v.opd l f.a n
  match f.isel.toNat with
  | 0 => outReg f.dst 1 (arithBits op .s32 false a (immValue f) 0)
  | 1 => outReg f.dst 2 (arithBits op .s64 false a (immValue f) 0)
  | 2 => outFp f.dst .f32 (fp .f32 a (immValue f))
  | _ =>
    let sig := nvSig [fpDecode .f32 f.imm.toNat]
    let r := fp .f64 a (immValue f)
    outFp f.dst .f64 (r.1, r.2 ||| sig)

/-- R173. -/
def execNop (h : Ctl) (f : GF) (s : State) : Out :=
  .next (perLane (.nop h f) (fun _ _ => .done {}) s)

/-- R174. -/
def execMov (h : Ctl) (f : GF) (s : State) : Out :=
  .next (perLane (.mov h f) (fun v l => let n := tyRegs (tyOf f.dtype); outReg f.dst n (gA v l f n)) s)

/-- R174, R159. -/
def execMovImm (h : Ctl) (f : GIF) (s : State) : Out :=
  .next (perLane (.movImm h f) (fun _ _ => outReg f.dst (immRegs f.isel) (immValue f)) s)

/-- R184. -/
def execSel (h : Ctl) (f : GF) (s : State) : Out :=
  .next (perLane (.sel h f) (fun v l =>
    let n := tyRegs (tyOf f.dtype)
    outReg f.dst n (if v.predField l (f.sub.toNat % 16) then gA v l f n else gB v l f n)) s)

/-- R177 for integers, R200 for floating values. -/
def execAdd (h : Ctl) (f : GF) (s : State) : Out :=
  .next (perLane (.add h f) (laneShared .add (fun g r z a b _ => fpAdd g r z a b) f) s)

/-- R177 for integers, R200 for floating values. -/
def execSub (h : Ctl) (f : GF) (s : State) : Out :=
  .next (perLane (.sub h f) (laneShared .sub (fun g r z a b _ => fpSub g r z a b) f) s)

/-- R177 for integers, R200 for floating values. -/
def execMul (h : Ctl) (f : GF) (s : State) : Out :=
  .next (perLane (.mul h f) (laneShared .mul (fun g r z a b _ => fpMul g r z a b) f) s)

/-- R177 for integers, R201 for floating values. -/
def execMin (h : Ctl) (f : GF) (s : State) : Out :=
  .next (perLane (.min h f) (laneShared .min (fun g _ _ a b _ => fpMinMax g false a b) f) s)

/-- R177 for integers, R201 for floating values. -/
def execMax (h : Ctl) (f : GF) (s : State) : Out :=
  .next (perLane (.max h f) (laneShared .max (fun g _ _ a b _ => fpMinMax g true a b) f) s)

/-- R177 for integers, R200 for floating values. -/
def execAbs (h : Ctl) (f : GF) (s : State) : Out :=
  .next (perLane (.abs h f) (laneShared .abs (fun g _ _ a _ _ => (fpAbs g a, 0)) f) s)

/-- R177 for integers, R200 for floating values. -/
def execNeg (h : Ctl) (f : GF) (s : State) : Out :=
  .next (perLane (.neg h f) (laneShared .neg (fun g _ _ a _ _ => (fpNeg g a, 0)) f) s)

/-- R177 for integers, R200 for floating values. -/
def execDiv (h : Ctl) (f : GF) (s : State) : Out :=
  .next (perLane (.div h f) (laneShared .div (fun g r z a b _ => fpDiv g r z a b) f) s)

/-- R200. -/
def execFma (h : Ctl) (f : GF) (s : State) : Out :=
  .next (perLane (.fma h f) (laneFp fpFma f) s)

/-- R177. -/
def execMulhi (h : Ctl) (f : GF) (s : State) : Out :=
  .next (perLane (.mulhi h f) (laneArith .mulhi f) s)

/-- R177. -/
def execMad (h : Ctl) (f : GF) (s : State) : Out :=
  .next (perLane (.mad h f) (laneArith .mad f) s)

/-- R177. -/
def execRem (h : Ctl) (f : GF) (s : State) : Out :=
  .next (perLane (.rem h f) (laneArith .rem f) s)

/-- R176, R177, R200. -/
def execAddImm (h : Ctl) (f : GIF) (s : State) : Out :=
  .next (perLane (.addImm h f) (laneImmArith .add (fun g a b => fpAdd g .rne false a b) f) s)

/-- R176, R177, R200. -/
def execMulImm (h : Ctl) (f : GIF) (s : State) : Out :=
  .next (perLane (.mulImm h f) (laneImmArith .mul (fun g a b => fpMul g .rne false a b) f) s)

/-- R179. -/
def execAnd (h : Ctl) (f : GF) (s : State) : Out :=
  .next (perLane (.and h f) (fun v l => let n := tyRegs (tyOf f.dtype); outReg f.dst n (logicBits .and (gA v l f n) (gB v l f n))) s)

/-- R179, R159. -/
def execAndImm (h : Ctl) (f : GIF) (s : State) : Out :=
  .next (perLane (.andImm h f) (fun v l => let n := immRegs f.isel; outReg f.dst n (logicBits .and (v.opd l f.a n) (immValue f))) s)

/-- R179. -/
def execOr (h : Ctl) (f : GF) (s : State) : Out :=
  .next (perLane (.or h f) (fun v l => let n := tyRegs (tyOf f.dtype); outReg f.dst n (logicBits .or (gA v l f n) (gB v l f n))) s)

/-- R179, R159. -/
def execOrImm (h : Ctl) (f : GIF) (s : State) : Out :=
  .next (perLane (.orImm h f) (fun v l => let n := immRegs f.isel; outReg f.dst n (logicBits .or (v.opd l f.a n) (immValue f))) s)

/-- R179. -/
def execXor (h : Ctl) (f : GF) (s : State) : Out :=
  .next (perLane (.xor h f) (fun v l => let n := tyRegs (tyOf f.dtype); outReg f.dst n (logicBits .xor (gA v l f n) (gB v l f n))) s)

/-- R179, R159. -/
def execXorImm (h : Ctl) (f : GIF) (s : State) : Out :=
  .next (perLane (.xorImm h f) (fun v l => let n := immRegs f.isel; outReg f.dst n (logicBits .xor (v.opd l f.a n) (immValue f))) s)

/-- R179. -/
def execNot (h : Ctl) (f : GF) (s : State) : Out :=
  .next (perLane (.not h f) (fun v l => let n := tyRegs (tyOf f.dtype); outReg f.dst n (notBits (32 * n) (gA v l f n))) s)

/-- R179; the amount is one 32-bit operand. -/
def execShl (h : Ctl) (f : GF) (s : State) : Out :=
  .next (perLane (.shl h f) (fun v l => let n := tyRegs (tyOf f.dtype); outReg f.dst n (shiftBits .shl (32 * n) (gA v l f n) (gB v l f 1))) s)

/-- R179; the immediate is the amount. -/
def execShlImm (h : Ctl) (f : GIF) (s : State) : Out :=
  .next (perLane (.shlImm h f) (fun v l => let n := immRegs f.isel; outReg f.dst n (shiftBits .shl (32 * n) (v.opd l f.a n) f.imm.toNat)) s)

/-- R179; the amount is one 32-bit operand. -/
def execShr (h : Ctl) (f : GF) (s : State) : Out :=
  .next (perLane (.shr h f) (fun v l => let n := tyRegs (tyOf f.dtype); outReg f.dst n (shiftBits .shr (32 * n) (gA v l f n) (gB v l f 1))) s)

/-- R179; the immediate is the amount. -/
def execShrImm (h : Ctl) (f : GIF) (s : State) : Out :=
  .next (perLane (.shrImm h f) (fun v l => let n := immRegs f.isel; outReg f.dst n (shiftBits .shr (32 * n) (v.opd l f.a n) f.imm.toNat)) s)

/-- R179; the amount is one 32-bit operand. -/
def execSra (h : Ctl) (f : GF) (s : State) : Out :=
  .next (perLane (.sra h f) (fun v l => let n := tyRegs (tyOf f.dtype); outReg f.dst n (shiftBits .sra (32 * n) (gA v l f n) (gB v l f 1))) s)

/-- R179; the immediate is the amount. -/
def execSraImm (h : Ctl) (f : GIF) (s : State) : Out :=
  .next (perLane (.sraImm h f) (fun v l => let n := immRegs f.isel; outReg f.dst n (shiftBits .sra (32 * n) (v.opd l f.a n) f.imm.toNat)) s)

/-- R179. -/
def execRot (h : Ctl) (f : GF) (s : State) : Out :=
  .next (perLane (.rot h f) (fun v l => let n := tyRegs (tyOf f.dtype); outReg f.dst n (shiftBits .rot (32 * n) (gA v l f n) (gB v l f 1))) s)

/-- R179. -/
def execPopc (h : Ctl) (f : GF) (s : State) : Out :=
  .next (perLane (.popc h f) (fun v l => let n := tyRegs (tyOf f.dtype); outReg f.dst 1 (popCount (32 * n) (gA v l f n))) s)

/-- R179. -/
def execClz (h : Ctl) (f : GF) (s : State) : Out :=
  .next (perLane (.clz h f) (fun v l => let n := tyRegs (tyOf f.dtype); outReg f.dst 1 (clzBits (32 * n) (32 * n) (gA v l f n))) s)

/-- R179. -/
def execCtz (h : Ctl) (f : GF) (s : State) : Out :=
  .next (perLane (.ctz h f) (fun v l => let n := tyRegs (tyOf f.dtype); outReg f.dst 1 (ctzBits (32 * n) (32 * n) 0 (gA v l f n))) s)

/-- R179. -/
def execBrev (h : Ctl) (f : GF) (s : State) : Out :=
  .next (perLane (.brev h f) (fun v l => let n := tyRegs (tyOf f.dtype); outReg f.dst n (brevBits (32 * n) (gA v l f n))) s)

/-- R180. -/
def execBfe (h : Ctl) (f : GF) (s : State) : Out :=
  .next (perLane (.bfe h f) (fun v l =>
    let t := tyOf f.dtype
    let n := tyRegs t
    outReg f.dst n (bfeBits (tySigned t) (32 * n) (gA v l f n) (gB v l f 1))) s)

/-- R180. -/
def execBfi (h : Ctl) (f : GF) (s : State) : Out :=
  .next (perLane (.bfi h f) (fun v l => let n := tyRegs (tyOf f.dtype); outReg f.dst n (bfiBits (32 * n) (gA v l f n) (gB v l f n) (gC v l f 1))) s)

/-- R178. -/
def execLea (h : Ctl) (f : GF) (s : State) : Out :=
  .next (perLane (.lea h f) (fun v l => outReg f.dst 2 (leaBits (tyOf f.stype == .s32) (gA v l f 2) (gB v l f 1) (f.sub.toNat % 8))) s)

/-- R181. -/
def execCmp (h : Ctl) (f : PF) (s : State) : Out :=
  .next (perLane (.cmp h f) (fun v l =>
    let t := tyOf f.type
    let n := tyRegs t
    let a := v.opd l f.a n
    let b := v.opd l f.b n
    let c := f.cond.toNat
    let r := if tyFp t then fpCond (fmtOf t) c (a % 2 ^ fmtBits (fmtOf t)) (b % 2 ^ fmtBits (fmtOf t))
      else (condInt c (exactInt t a) (exactInt t b), 0)
    .done { pr := predResult v l f r.1, flags := r.2 }) s)

/-- R182. -/
def execPlop (h : Ctl) (f : PF) (s : State) : Out :=
  .next (perLane (.plop h f) (fun v l =>
    let lut := f.type.toNat * 16 + f.cond.toNat
    let n := fun (b : Bool) => if b then 1 else 0
    let i := 4 * n (v.predField l f.a.toNat) + 2 * n (v.predField l f.b.toNat) + n (v.predField l f.c.toNat)
    .done { pr := predResult v l f (bit lut i) }) s)

/-- R183. -/
def execPmov (h : Ctl) (f : GF) (s : State) : Out :=
  .next (perLane (.pmov h f) (fun v l =>
    let a := v.opd l f.a 1
    let m := if f.b == 0xFF then 127 else v.opd l f.b 1
    .done { pr := ((List.range 7).filter (bit m)).map fun i => (i, bit a i) }) s)

end Sys2Proof.Machine
end

