-- ==== Sys2Proof/Machine/FloatFamily.lean ====
section
/-! DEFINITION. The meanings of the floating, conversion, QN4 and extrapolating-accumulator instructions (R198 to R221). -/

namespace Sys2Proof.Machine

/-- `cvt` in a lane: operands and results placed as R210 says. -/
def laneCvt (f : GF) (v : View) (l : Nat) : LaneRes :=
  let d := tyOf f.dtype
  let t := tyOf f.stype
  let r := rndOf f.rnd
  let sub := f.sub.toNat
  let a := gA v l f (tyRegs t)
  -- the source element or byte
  let x :=
    if tyPacked t then a / 2 ^ (16 * (sub % 2)) % 2 ^ 16
    else if tyFp8 t then a / 2 ^ (8 * (if tyFp8 d then sub / 4 % 4 else sub % 4)) % 256
    else if t == .s8 || t == .u8 then a % 256
    else if tyFp t then a % 2 ^ fmtBits (fmtOf t)
    else a
  let int : Int := if t == .s8 then sval 8 x else if t == .u8 then x else exactInt t x
  match cvtRow d t with
  | some 0 =>
    let y := fpCvt (fmtOf t) (fmtOf d) r f.ftz x
    if tyFp8 d then
      -- byte b of vd is replaced, the others are kept
      let b := sub % 4
      let old := v.opd l f.dst 1
      .done { wr := [⟨f.dst, 1, old - (old / 2 ^ (8 * b) % 256) * 2 ^ (8 * b) + y.1 * 2 ^ (8 * b)⟩], flags := y.2 }
    else outFp f.dst d y
  | some 1 =>
    let y := fpToInt (fmtOf t) (intLo d) (intHi d) r f.ftz x
    .done { wr := [⟨f.dst, tyRegs d, wrap (tyBits d) y.1⟩], flags := y.2 }
  | some 2 => outFp f.dst d (fpOfInt (fmtOf d) r int)
  | some 3 =>
    if d == .s8 || d == .u8 then
      let lo : Int := if d == .s8 then -128 else 0
      let hi : Int := if d == .s8 then 127 else 255
      let y := if f.sat then clampInt lo hi int else int
      -- wraps to 8 bits, then extends to 32
      outReg f.dst 1 (if d == .s8 then wrap 32 (sval 8 (wrap 8 y)) else wrap 8 y)
    else outReg f.dst (tyRegs d) (intResult d f.sat int)
  | some 4 =>
    let y := fpCvt .f32 (fmtOf d) r f.ftz (a % 2 ^ 32)
    let z := fpCvt .f32 (fmtOf d) r f.ftz (gB v l f 1)
    .done { wr := [⟨f.dst, 1, y.1 + 2 ^ 16 * z.1⟩], flags := y.2 ||| z.2 }
  | _ => outFp f.dst .f32 (fpCvt (fmtOf t) .f32 r f.ftz x)

/-- Changes the named context of a lane (R215 to R220). -/
def laneXa (f : XF) (v : View) (l : Nat) (g : XaCtx → XaCtx) : LaneRes :=
  .done { xa := some ((v.lane l).xa.now.modify f.xa.toNat g) }

/-- R204. -/
def execCpsgn (h : Ctl) (f : GF) (s : State) : Out :=
  .next (perLane (.cpsgn h f) (laneFp (fun g _ _ a b _ => (fpCpsgn g f.sub.toNat a b, 0)) f) s)

/-- R205. -/
def execClassify (h : Ctl) (f : PF) (s : State) : Out :=
  .next (perLane (.classify h f) (fun v l =>
    let t := tyOf f.type
    let x := v.opd l f.a (tyRegs t) % 2 ^ fmtBits (fmtOf t)
    let mask := (f.cond.toNat * 64 + f.sub.toNat) % 1024
    .done { pr := predResult v l f (bit mask (fpClass (fmtOf t) x)) }) s)

/-- R206. -/
def execScale (h : Ctl) (f : GF) (s : State) : Out :=
  .next (perLane (.scale h f) (fun v l =>
    let t := tyOf f.dtype
    let g := fmtOf t
    outFp f.dst t (fpScale g (rndOf f.rnd) f.ftz (gA v l f (tyRegs t) % 2 ^ fmtBits g) (sval 32 (gB v l f 1)))) s)

/-- R207. -/
def execFrnd (h : Ctl) (f : GF) (s : State) : Out :=
  .next (perLane (.frnd h f) (laneFp (fun g r _ a _ _ => fpFrnd g r (f.sub == 1) a) f) s)

/-- R208. -/
def execDot2 (h : Ctl) (f : GF) (s : State) : Out :=
  .next (perLane (.dot2 h f) (fun v l => outFp f.dst .f32
    (fpDot2 (fmtOf (tyOf f.stype)) (rndOf f.rnd) f.ftz (gA v l f 1) (gB v l f 1) (gC v l f 1))) s)

/-- R209, R210. -/
def execCvt (h : Ctl) (f : GF) (s : State) : Out :=
  .next (perLane (.cvt h f) (laneCvt f) s)

/-- R203. -/
def execRcp (h : Ctl) (f : GF) (s : State) : Out :=
  .next (perLane (.rcp h f) (laneFp (fun g r z a _ _ => fpRcp g r z a) f) s)

/-- R203. -/
def execRsq (h : Ctl) (f : GF) (s : State) : Out :=
  .next (perLane (.rsq h f) (laneFp (fun g _ z a _ _ => fpRsq g z a) f) s)

/-- R203. -/
def execSqrt (h : Ctl) (f : GF) (s : State) : Out :=
  .next (perLane (.sqrt h f) (laneFp (fun g r z a _ _ => fpSqrt g r z a) f) s)

/-- R203. -/
def execEx2 (h : Ctl) (f : GF) (s : State) : Out :=
  .next (perLane (.ex2 h f) (laneFp (fun g _ z a _ _ => fpEx2 g z a) f) s)

/-- R203. -/
def execLg2 (h : Ctl) (f : GF) (s : State) : Out :=
  .next (perLane (.lg2 h f) (laneFp (fun g _ z a _ _ => fpLg2 g z a) f) s)

/-- R203. -/
def execSin (h : Ctl) (f : GF) (s : State) : Out :=
  .next (perLane (.sin h f) (laneFp (fun g _ z a _ _ => fpTrig false g z a) f) s)

/-- R203. -/
def execCos (h : Ctl) (f : GF) (s : State) : Out :=
  .next (perLane (.cos h f) (laneFp (fun g _ z a _ _ => fpTrig true g z a) f) s)

/-- R203. -/
def execTanh (h : Ctl) (f : GF) (s : State) : Out :=
  .next (perLane (.tanh h f) (laneFp (fun g _ z a _ _ => fpTanh g z a) f) s)

/-- R211 to R213. -/
def execQblk (h : Ctl) (f : GF) (s : State) : Out :=
  .next (perLane (.qblk h f) (fun v l =>
    let xs := (List.range 32).flatMap fun m => (wordsOf 4 (v.other m f.a 4)).map BitVec.toNat
    let sc := gB v l f 1
    let n := gC v l f 1
    if !superOk sc || n = 0 || n > 128 then .trap { cause := 14 }
    else
      let bs := qBlocks sc n xs (0 :: qStarts xs n 128 8 0)
      .done { wr := [⟨f.dst, 1, qWord sc n bs xs l⟩], flags := qFlags sc n bs xs }) s)

/-- R214. -/
def execDqn4 (h : Ctl) (f : GF) (s : State) : Out :=
  .next (perLane (.dqn4 h f) (fun v l =>
    let t := tyOf f.dtype
    let g := fmtOf t
    let sc := gC v l f 1
    let j := f.sub.toNat % 8
    let one := dqnValue g (rndOf f.rnd) (gA v l f 1) (gB v l f 1 % 256) sc
    if !superOk sc then .trap { cause := 14 }
    else if tyPacked t then
      .done { wr := [⟨f.dst, 1, (one j).1 + 2 ^ 16 * (one (j + 1)).1⟩], flags := (one j).2 ||| (one (j + 1)).2 }
    else outFp f.dst t (one j)) s)

/-- R216. -/
def execXainit (h : Ctl) (f : XF) (s : State) : Out :=
  .next (perLane (.xainit h f) (fun v l => laneXa f v l fun c =>
    { c with d := f.a.toNat, method := if f.sub == 0 then .eps else .lsq,
             tol := BitVec.ofNat 64 (v.opd l f.b 2), thr := xaThreshold (v.opd l f.c 2), hist := [] }) s)

/-- R217; the value is converted to FP64 exactly and raises no flag. -/
def execXapush (h : Ctl) (f : XF) (s : State) : Out :=
  .next (perLane (.xapush h f) (fun v l => laneXa f v l fun c =>
    xaPush c (if f.type == 10 then (fpCvt .f32 .f64 .rne false (v.opd l f.a 1)).1 else v.opd l f.a 2)) s)

/-- R218. -/
def execXalim (h : Ctl) (f : XF) (s : State) : Out :=
  .next (perLane (.xalim h f) (fun v l =>
    let r := xaLimit ((xaSeen v.clock (v.lane l).xa).getD f.xa.toNat xaInit)
    let e := if f.type == 10 then (fpCvt .f64 .f32 .rne false r.1).1 else r.1
    .done { wr := [⟨f.dst, tyRegs (tyOf f.type), e⟩],
            pr := [(f.pc.toNat, r.2.1), (f.ps.toNat, r.2.2.1), (f.pf.toNat, r.2.2.2)] }) s)

/-- R219. -/
def execXastat (h : Ctl) (f : XF) (s : State) : Out :=
  .next (perLane (.xastat h f) (fun v l =>
    let c := (xaSeen v.clock (v.lane l).xa).getD f.xa.toNat xaInit
    match f.sub.toNat with
    | 0 => outReg f.dst 1 (c.hist.length + 16 * c.d + (if c.method = .lsq then 256 else 0))
    | 1 => outReg f.dst 2 c.tol.toNat
    | 2 => outReg f.dst 2 c.thr.toNat
    | _ => outReg f.dst 2 (((c.hist.map BitVec.toNat)[v.opd l f.a 1]?).getD nan64)) s)

/-- R220. -/
def execXaclr (h : Ctl) (f : XF) (s : State) : Out :=
  .next (perLane (.xaclr h f) (fun v l =>
    if f.sub == 0 then laneXa f v l fun c => { c with hist := [] }
    else .done { xa := some ((v.lane l).xa.now.map fun c => { c with hist := [] }) }) s)

end Sys2Proof.Machine
end

