-- ==== Sys2Proof/Machine/Lanes.lean ====
section
/-! DEFINITION. The meanings of the lane-exchange, vote, reduction and mask instructions (R185 to R191). -/

namespace Sys2Proof.Machine

/-- The value `shfl` takes: of the source lane, or of the lane itself where there is none (R185). -/
def View.shuffle (v : View) (e : BitVec 8) (n : Nat) (m : Option Nat) (l : Nat) : Nat :=
  match m with
  | some m => v.other m e n
  | none => v.opd l e n

/-- R185, R172. -/
def execShfl (h : Ctl) (f : GF) (s : State) : Out :=
  .next (perLane (.shfl h f) (fun v l =>
    let n := tyRegs (tyOf f.dtype)
    outReg f.dst n (v.shuffle f.a n (shflLane f.sub.toNat l (gB v l f 1)) l)) s)

/-- R185, R172. -/
def execShflImm (h : Ctl) (f : GIF) (s : State) : Out :=
  .next (perLane (.shflImm h f) (fun v l =>
    let n := 1 + f.imm.toNat / 32 % 2
    outReg f.dst n (v.shuffle f.a n (shflLane f.isel.toNat l (f.imm.toNat % 32)) l)) s)

/-- R186, R172. -/
def execBcast (h : Ctl) (f : GF) (s : State) : Out :=
  .next (perLane (.bcast h f) (fun v l =>
    let n := tyRegs (tyOf f.dtype)
    let m := if f.sub == 1 then v.act.headD l else gB v l f 1 % 32
    outReg f.dst n (v.other m f.a n)) s)

/-- R187. -/
def execVote (h : Ctl) (f : PF) (s : State) : Out :=
  .next (perLane (.vote h f) (fun v l =>
    let ps := v.act.map fun m => v.predField m f.a.toNat
    let all := ps.all id
    let any := ps.any id
    .done { pr := predResult v l f (match f.sub.toNat with | 0 => all | 1 => any | _ => all || !any) }) s)

/-- R187. -/
def execBallot (h : Ctl) (f : GF) (s : State) : Out :=
  .next (perLane (.ballot h f) (fun v _ => outReg f.dst 1 (maskOf (v.act.filter fun m => v.predField m f.a.toNat))) s)

/-- R188, R172. -/
def execWred (h : Ctl) (f : GF) (s : State) : Out :=
  .next (perLane (.wred h f) (fun v _ =>
    let t := tyOf f.dtype
    outReg f.dst (tyRegs t) (redValue (redOf f.sub.toNat) t f.sat (v.act.map fun m => v.other m f.a (tyRegs t)))) s)

/-- R188, R172. -/
def execWscan (h : Ctl) (f : GF) (s : State) : Out :=
  .next (perLane (.wscan h f) (fun v l =>
    let t := tyOf f.dtype
    let excl := bit f.sub.toNat 3
    let ms := v.act.filter fun m => m < l || (m == l && !excl)
    outReg f.dst (tyRegs t) (redValue (redOf f.sub.toNat) t f.sat (ms.map fun m => v.other m f.a (tyRegs t)))) s)

/-- R189. -/
def execKmov (h : Ctl) (f : GF) (s : State) : Out :=
  .next (perLane (.kmov h f) (fun v l => outReg f.dst 1 (gA v l f 1)) s)

/-- R189. -/
def execKmovImm (h : Ctl) (f : GIF) (s : State) : Out :=
  .next (perLane (.kmovImm h f) (fun _ _ => outReg f.dst 1 f.imm.toNat) s)

/-- R189. -/
def execKand (h : Ctl) (f : GF) (s : State) : Out :=
  .next (perLane (.kand h f) (fun v l => outReg f.dst 1 (logicBits .and (gA v l f 1) (gB v l f 1))) s)

/-- R189. -/
def execKor (h : Ctl) (f : GF) (s : State) : Out :=
  .next (perLane (.kor h f) (fun v l => outReg f.dst 1 (logicBits .or (gA v l f 1) (gB v l f 1))) s)

/-- R189. -/
def execKxor (h : Ctl) (f : GF) (s : State) : Out :=
  .next (perLane (.kxor h f) (fun v l => outReg f.dst 1 (logicBits .xor (gA v l f 1) (gB v l f 1))) s)

/-- R189. -/
def execKnot (h : Ctl) (f : GF) (s : State) : Out :=
  .next (perLane (.knot h f) (fun v l => outReg f.dst 1 (notBits 32 (gA v l f 1))) s)

/-- R189. -/
def execKact (h : Ctl) (f : GF) (s : State) : Out :=
  .next (perLane (.kact h f) (fun v _ => outReg f.dst 1 (match f.sub.toNat with
    | 0 => maskOf v.act
    | 1 => maskOf (fibreLanes v.wave)
    | _ => maskOf v.convoy)) s)

/-- R189. -/
def execKpop (h : Ctl) (f : GF) (s : State) : Out :=
  .next (perLane (.kpop h f) (fun v l => outReg f.dst 1 (popCount 32 (gA v l f 1))) s)

/-- R190. -/
def execKtest (h : Ctl) (f : PF) (s : State) : Out :=
  .next (perLane (.ktest h f) (fun v l =>
    .done { pr := predResult v l f (ktestCond f.cond.toNat l (v.opd l f.a 1) (v.opd l f.b 1)) }) s)

/-- R189. -/
def execKfirst (h : Ctl) (f : GF) (s : State) : Out :=
  .next (perLane (.kfirst h f) (fun v l => outReg f.dst 1 (firstLane (f.sub == 1) (gA v l f 1))) s)

end Sys2Proof.Machine
end

