-- ==== Sys2Proof/Machine/SeqFamily.lean ====
section
/-! DEFINITION. The meanings of the step-sequencer instructions (R104 to R110, R274 to R285). -/

namespace Sys2Proof.Machine

/-! ## Records at issue -/

/-- What reading a record at issue comes to: its bytes, a fault, or a page that has to be waited for (R277). -/
inductive RecRead where
  | bytes (s : State) (bs : List Byte)
  | fault (f : FaultRec)
  | wait (s : State) (page : Option (Nat × Nat))

def readRecord (s : State) (v : View) (va n : Nat) : RecRead :=
  match spanCheck s v.copy permR va n with
  | some f => .fault f
  | none => match engRead s v.core (v.number s) v.copy va n with
    | .bytes s bs => .bytes s bs
    | .missing s _ page => .wait s page

/-- What a once-acting sequencer instruction does: its result in every active lane, a fault in every active lane,
issuing again later, or an effect that has its flight already. -/
inductive SeqAct where
  | result (s : State) (x : Nat)
  | fault (f : FaultRec)
  | wait (s : State) (why : Wait) (page : Option (Nat × Nat) := none)
  | acted (s : State)

/-- The frame of R274: nothing without an active lane; the register window first (R296). -/
def seqOnce (i : Instr) (dst : BitVec 8) (regs : Nat) (tx : Option Nat) (act : View → Nat → State → SeqAct) (s : State) :
    State :=
  match shape i with
  | none => s
  | some sh =>
    let (v, s) := match tx with
      | some c => refuseTx c (viewOf sh.ctl s) s
      | none => (viewOf sh.ctl s, s)
    match v.act with
    | [] => (newFlight sh.ctl v 1 s).2
    | l :: _ =>
      let every := fun r => v.act.map fun m => (m, r)
      if !v.act.all fun m => windowOk sh v.wave.id.allot (v.win m) (v.win m) then
        commitVar sh.ctl 1 v (every (.trap faultWindow)) s
      else match act v l s with
        | .result s x => commitVar sh.ctl 1 v (every (outReg dst regs x)) s
        | .fault f => commitVar sh.ctl 1 v (every (.trap f)) s
        | .wait s why page =>
          let (n, s) := newFlight sh.ctl v 1 s
          waitsPage n page (deferLanes i v n none why v.act s)
        | .acted s => s

def faultNoSeq : FaultRec := { cause := 18 }

/-- The issuing crew's context (R104). -/
def View.seq (v : View) (s : State) : Option (Nat × SeqCtx) :=
  match v.crew.seqCtx with
  | some k => (seqAt s k).map fun c => (k, c)
  | none => none

/-- The context to which the crew's task is bound (R114). -/
def View.bound (v : View) (s : State) : Option (Nat × SeqCtx) :=
  match v.crew.binding with
  | some k => (seqAt s k).map fun c => (k, c)
  | none => none

/-- An arming is being evaluated outside a run, or a run is about to return. -/
def SeqCtx.busy (c : SeqCtx) : Bool := c.state != 3 && c.at_ != .idle

/-! ## TBLOAD (R108, R277) -/

def tabRsv (bs : List Byte) : Bool :=
  let w0 := tf bs 0 4
  let w1 := tf bs 4 4
  field w0 28 4 ≠ 0 || field w0 13 7 ≠ 0 || field w0 5 3 ≠ 0 || field w1 24 8 ≠ 0 || field w1 12 4 ≠ 0 ||
    field w1 0 4 ≠ 0 || tf bs 0x38 8 ≠ 0

/-- Every coefficient of the record's arrays. -/
def tabAll (bs : List Byte) : List Nat := (List.range ((tabSize bs - 64) / 8)).map (tabCoef bs)

/-- A[i][j] ≠ 0 in part `p`. -/
def tabNz (bs : List Byte) (p i j : Nat) : Bool := !isZero64 (tabA bs p i j)

/-- Checks 1 to 5 of R108, the first that fails. -/
def tabCheck (bs : List Byte) : Nat :=
  let s := tabS bs
  let kind := tabKind bs
  let ps := List.range (tabParts bs)
  let ix := (List.range s).map (· + 1)
  let sg := tabParam bs 0
  let gm := tabParam bs 1
  let diag := fun p => ix.any fun i => tabNz bs p i i && tabA bs p i i != gm
  if s = 0 || s > 16 || tabQ bs > 8 || tabD bs > 5 || tabXm bs > 1 || tabXd bs < 3 || tabXd bs > 8 || tabNl bs = 0 ||
      tabNl bs > 7 || tabJmin bs < -3 || 0 < tabJmin bs || tabJmax bs > 2 || tabRsv bs then 1
  else if !((List.range 6).map (tabParam bs)).all dFinite || !(tabAll bs).all dFinite ||
      !dLt 0 sg || !dLe sg dOne || !dLt 0 (tabParam bs 2) || dLt (tabParam bs 3) 0 || dLt (tabParam bs 4) 0 then 2
  else if ps.any fun p => ix.any fun i => ix.any fun j => i < j && tabNz bs p i j then 3
  else if ((kind = 0 || kind = 2) && ix.any fun i => tabNz bs 0 i i) || (kind = 1 && diag 0) || (kind = 2 && diag 1) ||
      ((kind = 1 || kind = 2) && !dLt 0 gm) then 4
  else if kind = 3 && (s ≠ 1 || tabNz bs 0 1 1 || !(fpCond .f64 0 (tabB bs 0 1) dOne).1 || tabQ bs ≠ 0) then 5
  else 0

def setTbCode (s : State) (k code : Nat) : State := modRun s k fun r => { r with tbCode := code }

/-- A record that passes: state 2, no bank retained (R105, R302). -/
def loadTab (s : State) (k : Nat) (bs : List Byte) : State :=
  modSeq s k fun c => { c with
    state := 2, tableau := bs, frames := ⟨0, true⟩,
    regs := { c.regs with initDone := false, bank := 0, retained := false } }

def execTbload (h : Ctl) (f : GF) (s : State) : Out :=
  .next (seqOnce (.tbload h f) f.dst 1 none (fun v l s =>
    match v.seq s with
    | none => .fault faultNoSeq
    | some (k, c) =>
      let va := v.opd l f.a 2
      if va % 8 ≠ 0 then .result (setTbCode s k 7) 7
      else if c.state ≥ 3 then .result (setTbCode s k 6) 6
      else if c.busy then .wait s (.hold 0)
      else match readRecord s v va 64 with
        | .fault x => .fault x
        | .wait s page => .wait s (.hold 0) page
        | .bytes s hd => match readRecord s v va (tabSize hd) with
          | .fault x => .fault x
          | .wait s page => .wait s (.hold 0) page
          | .bytes s bs =>
            let code := tabCheck bs
            let s := setTbCode s k code
            .result (if code = 0 then loadTab s k bs else s) code) s)

/-! ## ODEINIT (R104, R109, R110, R130, R278) -/


/-- The registers of a context just initialised: no run has ended (R128). -/
def runInit : SeqRun := ⟨0, 0, 0, 0, 0, 0, 0, 0, 0, false, false, false, 0, 5, 0, false, false⟩
def attemptInit : Attempt := ⟨0, none, [0, 0, 0, 0], 0, 0, 0, 0, 0, 0, 0, 0, []⟩

/-- A context that holds a run record. -/
def ctxOf (owner : Nat) (rec_ : List Byte) : SeqCtx :=
  { state := 1, owner := owner, tableau := [], run := rec_, regs := runInit, shown := runInit,
    events := copies 4 ⟨0, 0, false, 0⟩, pend := [], accDone := [], eval := none, at_ := .idle, oneStep := false, flight := 0,
    attempt := attemptInit, posted := 0, frames := ⟨0, true⟩, old := none }

/-- R113's conditions. -/
def tileBad (c : SeqCtx) : Bool :=
  c.tileFlag && (c.wide || c.tileCount ≠ (c.n + 4095) / 4096 || c.tileBase + 2 * c.tileCount > 16)

/-- R110, with the task types of R278. -/
def runBad (s : State) (v : View) (c : SeqCtx) : Bool :=
  let d := v.crew.district
  c.n = 0 || !([c.t0, c.tEnd, c.h0, c.atol, c.rtol, c.epsT].all dFinite) ||
  dLt c.tEnd c.t0 || dLe c.h0 0 || dLt c.atol 0 || dLt c.rtol 0 || dLt c.epsT 0 ||
  [0, 1, 2].any (fun i => c.grid i = 0) ||
  (if c.ring = 0 then c.ringEntries ≠ 0 else !isPow2 c.ringEntries) ||
  field c.flags 9 7 ≠ 0 || field (c.rf 0x78 1) 4 4 ≠ 0 || c.rf 0x79 7 ≠ 0 || tileBad c ||
  (queueOf s d c.queue).isNone || v.crew.task.depth ≥ 8 ||
  [0, 1, 2].any (fun i => c.taskType i ≥ typeCount s d)

/-- R130's limits, of a context whose run record is followed by the frame descriptor. -/
def frameBad (c : SeqCtx) : Bool :=
  c.frameBytes = 0 || c.frameBytes % 128 ≠ 0 || !isPow2 c.frameEntries || c.chunk = 0 || c.chunk > 256 || c.look > 256 ||
  c.actFmt > 4 || field (c.df 0x1D 1) 0 4 + field (c.df 0x1D 1) 4 4 > 15 ||
  c.chunk + c.look > c.frameEntries

/-- The context that a crew's ODEINIT takes: its own, or a free one of its cluster. -/
def seqClaim (s : State) (v : View) : Option Nat :=
  match v.crew.seqCtx with
  | some k => some k
  | none => mfree s.seqs 8 (seqKey (clusterOf v.core) 0) |>.filter fun k => k < seqKey (clusterOf v.core) 8

/-- The frame descriptor behind the record: zeros where the record names none. -/
def frameOf (s : State) (v : View) (c : SeqCtx) : RecRead :=
  if c.frameAddr = 0 then .bytes s (copies 32 0)
  else if c.frameAddr % 8 ≠ 0 then .bytes s []
  else readRecord s v c.frameAddr 32

/-- R278. DESIGN CHOICE (log 70): a refused record is reported before the want of a free context (R104). -/
def execOdeinit (h : Ctl) (f : GF) (s : State) : Out :=
  .next (seqOnce (.odeinit h f) f.dst 1 none (fun v l s =>
    let va := v.opd l f.a 2
    let own := (v.seq s).map Prod.snd
    if va % 8 ≠ 0 then .result s 4
    else if own.any fun c => c.state ≥ 3 then .result s 3
    else if own.any SeqCtx.busy then .wait s (.hold 0)
    else match readRecord s v va 128 with
      | .fault x => .fault x
      | .wait s page => .wait s (.hold 0) page
      | .bytes s bs =>
        let c := ctxOf v.wave.id.crew bs
        if runBad s v c then .result s 2
        else match frameOf s v c with
          | .fault x => .fault x
          | .wait s page => .wait s (.hold 0) page
          | .bytes s fr =>
            let c := ctxOf v.wave.id.crew (bs ++ fr)
            if c.frameAddr ≠ 0 && (fr = [] || frameBad c) then .result s 2
            else match seqClaim s v with
              | none => .result s 1
              | some k =>
                let s := putCtx s k c
                .result (modCrew s v.wave.id.crew fun w => { w with seqCtx := some k }) 0) s)

/-! ## ODERUN and ODESTEP (R119, R131, R279, R280) -/

/-- The run begins: the lanes wait. -/
def startRun (h : Ctl) (v : View) (s : State) (k : Nat) (wait : Wait) (one frames : Bool) : State :=
  let tiled := ((seqAt s k).map (·.tileFlag)).getD false
  let s := if tiled then claimTiles s v.core v.wave.id.crew else s
  let (n, s) := newFlight h v 1 s
  let s := modSeq s k fun c =>
    let r := { c.regs with cause := 5, runSteps := 0 }
    { c with state := 3, regs := r, shown := r, oneStep := one, flight := n, eval := none,
             at_ := if frames then .frames else .start }
  waitLanes s v n (fun _ => wait) v.act

/-- Another crew holds the tiles that the run needs (R255). -/
def tilesTaken (s : State) (v : View) (c : SeqCtx) : Bool :=
  c.tileFlag && (match (coreOf s v.core).tileOwner with
    | some o => o != v.wave.id.crew
    | none => false)

def execOderun (h : Ctl) (f : GF) (s : State) : Out :=
  .next (seqOnce (.oderun h f) f.dst 1 (some 8) (fun v _ s =>
    match v.seq s with
    | none => .fault faultNoSeq
    | some (k, c) =>
      if c.state ≠ 2 then .result s 8
      else if tabKind c.tableau = 3 then .result s 9
      else if c.busy then .wait s (.hold 0)
      else if tilesTaken s v c then .wait s .tile
      else .acted (startRun h v s k (.oderun f.dst) false false)) s)

def execOdestep (h : Ctl) (f : GF) (s : State) : Out :=
  let rec_ := bit f.sub.toNat 0
  .next (seqOnce (.odestep h f) f.dst (if rec_ then 4 else 1) (some 8) (fun v _ s =>
    match v.seq s with
    | none => .fault faultNoSeq
    | some (k, c) =>
      if c.state ≠ 2 then .result s 8
      else if c.busy then .wait s (.hold 0)
      else if tilesTaken s v c then .wait s .tile
      else .acted (startRun h v s k (.odestep f.dst rec_) true (tabKind c.tableau = 3))) s)

/-! ## ODEQ and ODESTAT (R122, R123, R281, R282) -/

/-- Writes the dense state to the destination: a step of the sequencer's accesses. -/
def odeqWrite (e : SeqEnv) (s : State) (va th : Nat) : SeqDo Unit :=
  let r := e.c.regs
  (readWork e s 3).bind fun s y0 => (denseTo e r.hA.toNat (1 - r.bank) th va s y0).bind fun s _ => .ok s ()

def execOdeq (h : Ctl) (f : GF) (s : State) : Out :=
  .next (seqOnce (.odeq h f) f.dst 2 none (fun v l s =>
    match (if v.crew.binding.isSome then v.bound s else v.seq s) with
    | none => .fault faultNoSeq
    | some (k, c) =>
      if c.state = 1 then .result s (2 ^ 64 - 2)
      else
        let tau := v.opd l f.a 2
        let va := v.opd l f.b 2
        let r := c.regs
        match spanCheck s v.copy permW va (c.n * c.esize) with
        | some x => .fault x
        | none =>
          if !r.retained || !dLe r.tOld.toNat tau || !dLe tau r.t.toNat then .result s (2 ^ 64 - 1)
          else
            let th := dQuot tau r.tOld.toNat r.hA.toNat
            let e : SeqEnv := ⟨k, c, (crewAt s c.owner).getD v.crew⟩
            match odeqWrite e s va th with
            | .ok s _ => .result s r.steps
            | .miss p x ia fl => .wait (reportMiss s p x ia fl) (.hold 0) (some (x, ia))
            | .wait => .wait s (.hold 0)
            | .fail s a =>
              let x := ofWords [Config.freeWord s.free, Config.freeWord (s.free + 1)]
              .result (queryFail e { s with free := s.free + 2 } a) x) s)

/-- The status word (R128). -/
def statusOf (c : SeqCtx) : Nat :=
  let nan := if c.state = 3 then c.shown.nanEvent else c.regs.nanEvent
  (if nan then 2 ^ 19 else 0) + (if c.regs.armFailed then 2 ^ 16 else 0) + c.regs.tbCode * 2 ^ 12 +
    c.regs.cause * 2 ^ 8 + c.state

/-- Selectors 1 to 6. -/
def odestatValue (c : SeqCtx) (n : Nat) : Nat :=
  let r := if c.state = 3 then c.shown else c.regs
  if c.state = 1 then 0
  else match n with
    | 1 => r.t.toNat
    | 2 => r.h.toNat
    | 3 => r.steps
    | 4 => r.rejects
    | 5 => r.newtons
    | _ => r.err.toNat

def execOdestat (h : Ctl) (f : GF) (s : State) : Out :=
  let n := f.sub.toNat
  .next (seqOnce (.odestat h f) f.dst (if n = 0 then 1 else 2) none (fun v _ s =>
    match v.seq s with
    | none => .fault faultNoSeq
    | some (_, c) => .result s (if n = 0 then statusOf c else odestatValue c n)) s)

/-! ## STGGET and STGPUT (R115, R116, R283, R284) -/

/-- The value of a selector of R115. -/
def stgField (c : SeqCtx) (ev : Eval) (n : Nat) : Nat :=
  match n with
  | 0 => ev.phase
  | 1 => ev.stage
  | 2 => ev.iter
  | 3 => ev.event
  | 4 => ev.time.toNat
  | 5 => c.regs.h.toNat
  | 6 => dMul c.regs.h.toNat (tabParam c.tableau 1)
  | 7 => c.workElem (if ev.phase = 2 then 4 else 0) 0
  | 8 => c.n
  | _ => if c.wide then 1 else 0

/-- The evaluation that the lane's task belongs to. -/
def View.eval (v : View) (s : State) : Option (SeqCtx × Eval) :=
  match v.bound s with
  | some (_, c) => c.eval.map fun e => (c, e)
  | none => none

def execStgget (h : Ctl) (f : GF) (s : State) : Out :=
  let n := f.sub.toNat
  .next (perLane (.stgget h f) (fun v _ => match v.eval s with
    | none => .trap faultNoSeq
    | some (c, ev) => outReg f.dst (if 4 ≤ n && n ≤ 7 then 2 else 1) (stgField c ev n)) s)

/-- The format in which a phase's target stands (R116). -/
def stgFmt (c : SeqCtx) (ev : Eval) : Fmt := if ev.phase = 3 then .f64 else c.fmt

/-- Address of element `e` of the current target (R116). -/
def stgTarget (c : SeqCtx) (ev : Eval) (e : Nat) : Nat :=
  match ev.phase with
  | 0 => c.stageElem (c.stageVec c.regs.bank ev.stage 0) e
  | 1 => c.stageElem (c.stageVec c.regs.bank ev.stage 1) e
  | 2 => c.workElem 5 e
  | _ => c.eventWord ev.event

/-- The value of a lane in the target's format, with its flags. -/
def stgValue (v : View) (f : GF) (c : SeqCtx) (ev : Eval) (l : Nat) : Nat × Nat :=
  let src : Fmt := if f.dtype == 11 then .f64 else .f32
  let x := v.opd l f.b (if f.dtype == 11 then 2 else 1)
  if src = stgFmt c ev then (x, 0) else fpCvt src (stgFmt c ev) .rne false x

/-- The store of a lane. -/
def stgCall (f : GF) (c : SeqCtx) (ev : Eval) (v : View) (l : Nat) : MemCall :=
  { space := .global, va := stgTarget c ev (v.opd l f.a 1), size := fmtBits (stgFmt c ev) / 8, op := .store,
    data := (stgValue v f c ev l).1 }

/-- An element that the target does not have. -/
def stgBad (c : SeqCtx) (ev : Eval) (e : Nat) : Bool := if ev.phase = 3 then e ≠ 0 else c.n ≤ e

def execStgput (h : Ctl) (f : GF) (s : State) : Out :=
  match shape (.stgput h f) with
  | none => .next s
  | some sh =>
    let v := viewOf h s
    let (n, s) := newFlight h v 1 s
    let ok := fun l => windowOk sh v.wave.id.allot (v.win l) (v.win l)
    match v.eval s with
    | none => .next (takeFaults s v.core v.slot v.pc (v.act.map fun l => (l, if ok l then faultNoSeq else faultWindow)))
    | some (c, ev) =>
      let a := v.act.foldl (fun (a : LaneRun) l =>
        if ok l && stgBad c ev (v.opd l f.a 1) then a.fault l { cause := 19 }
        else memLane sh v n 0 false (stgCall f c ev) a l) { s := s, ws := [], faults := [], lead := none }
      let done := v.act.filter fun l => !(a.faults.map Prod.fst).contains l && !a.later.contains l
      let flags := done.foldl (fun m l => m ||| (stgValue v f c ev l).2) 0
      .next ({ a with s := flightWrites a.s n [] flags }.finish (.stgput h f) v n [])

/-! ## EVARM (R124, R285) -/

def execEvarm (h : Ctl) (f : GF) (s : State) : Out :=
  let sub := f.sub.toNat
  let e := sub % 4
  let mask : BitVec 2 := BitVec.ofNat 2 (sub / 4)
  let stop := bit sub 4
  .next (seqOnce (.evarm h f) 0xFF 1 none (fun v l s =>
    let va := v.opd l f.a 1
    if mask ≠ 0 && (va ≥ 65536 || va ≥ typeCount s v.crew.district) then .fault { cause := 8 }
    else match v.seq s with
      | none => .fault faultNoSeq
      | some (k, c) =>
        let type := BitVec.ofNat 32 va
        let pending := fun (outside : Bool) =>
          let (n, s) := newFlight h v 1 s
          let s := modFlight s n fun x => { x with waits := 1 }
          SeqAct.acted (modSeq s k fun c => { c with
            pend := c.pend ++ [⟨e, type, mask, stop, n⟩], at_ := if outside then .outside else c.at_ })
        if c.state = 3 then pending false
        else if c.busy then .wait s (.hold 0)
        else if c.state = 1 || !c.regs.initDone then
          .result (modSeq s k fun c => { c with
            events := c.events.set e (if mask = 0 then { eventAt c e with mask := 0 } else ⟨type, mask, stop, 0⟩) }) 0
        else if mask = 0 then
          .result (modSeq s k fun c => { c with events := c.events.set e { eventAt c e with mask := 0 } }) 0
        else pending true) s)

end Sys2Proof.Machine
end

