-- ==== Sys2Proof/Machine/Loader.lean ====
section
/-! DEFINITION. Code objects (R329 to R332, R336 to R339): the loader's checks, and loading and unloading. -/

namespace Sys2Proof.Machine

/-! ## Sections (R330) -/

def sectionOf (o : CodeObject) (name : String) : Option Section := o.sections.find? (·.name == name)
def textOf (o : CodeObject) : List Byte := ((sectionOf o ".text").map (·.bytes)).getD []
def textAddr (o : CodeObject) : Nat := ((sectionOf o ".text").map (·.addr)).getD 0

/-- The alignment of a section by its name; 1 for those that R330 gives none. -/
def sectionAlign (name : String) : Nat :=
  if name == ".text" || name == ".rodata" || name == ".data" || name == ".bss" || name == ".fj.atomics" then 16
  else if name == ".tableau" then 8
  else if name == ".fj.tasktypes" then 64
  else if name == ".spans" then 4
  else 1

/-- ALLOC: the section is loaded into memory, and its address is taken from the load address on. -/
def sectionLoads (x : Section) : Bool := bit x.flags 1
def sectionPlace (o : CodeObject) (x : Section) : Nat := if sectionLoads x then o.base + x.addr else x.addr
/-- What the section loads: zeros for NOBITS. -/
def sectionContents (x : Section) : List Byte := if x.type = 8 then copies x.size 0 else x.bytes

/-! ## The checks of R339 -/

/-- R329. -/
def elfOk (o : CodeObject) : Bool :=
  o.elfClass == 2 && o.elfData == 1 && o.osabi == 0 && o.etype == 3 && o.machine == 0xFA74 && o.flags == 2

def sectionsOk (o : CodeObject) : Bool :=
  o.sections.all (fun x => sectionPlace o x % sectionAlign x.name == 0 && x.align % sectionAlign x.name == 0) &&
  (textOf o).length % 16 == 0

/-- The field that a relocation writes: bytes or bits at an address, and its value; none when it is refused (R331). -/
inductive RelocDo where
  | bytes (addr n x : Nat)
  /-- bits `lo ..` of the instruction word at an address -/
  | bits (addr lo w x : Nat)

def relocOf (o : CodeObject) (r : Reloc) : Option RelocDo :=
  let t := r.type.toNat
  let at_ := o.base + r.offset
  let x := (r.symbol + r.addend).toNat
  let word := at_ + 4 + 10 * field t 8 4
  let d : Int := sval 64 (wrap 64 ((x : Int) - at_))
  if field t 12 20 ≠ 0 then none
  else match t % 256 with
    | 1 => some (.bytes at_ 8 x)
    | 2 => if x < 2 ^ 32 then some (.bytes at_ 4 x) else none
    | 3 => if wrap 64 (sval 32 (x % 2 ^ 32)) = x then some (.bits word 2 32 (x % 2 ^ 32)) else none
    | 4 => if d % 16 ≠ 0 || d / 16 < -(2 ^ 23) || d / 16 ≥ 2 ^ 23 then none else some (.bits word 2 24 (wrap 24 (d / 16)))
    | _ => none

/-- The clause starts of `.text`, reached by fall-through from its start, as offsets; none at a header that R148 does
not allow. -/
def clauseStarts (bs : List Byte) : Nat → Nat → List Nat → Option (List Nat)
  | 0, _, acc => some acc
  | fuel + 1, off, acc =>
    if bs.length ≤ off then some acc
    else
      let h := headerOf (bf bs off 4)
      if h.cls = 7 && h.count = 0 then clauseStarts bs fuel (off + 16 + 16 * h.pool) acc
      else if headerBad h then none
      else clauseStarts bs fuel (off + roundUp (4 + 10 * h.count) 16) (off :: acc)

def textStarts (o : CodeObject) : Option (List Nat) := clauseStarts (textOf o) ((textOf o).length / 16 + 1) 0 []

/-- An address of the object is a clause start in `.text`. -/
def isStart (o : CodeObject) (addr : Nat) : Bool :=
  textAddr o ≤ addr && ((textStarts o).getD []).contains (addr - textAddr o)

def taskTypeOk (o : CodeObject) (e : List Byte) : Bool :=
  e.length == 64 && typeOk e && isStart o (tyEntryC e) && (tyWavesL e == 0 || isStart o (tyEntryL e))

/-- Each index once, and inside the district's table. -/
def indicesOk (s : State) (o : CodeObject) : Bool :=
  let is := o.taskTypes.map Prod.fst
  is.eraseDups.length == is.length && is.all (· < typeCount s o.district)

/-- A tableau record of the object passes checks 1 to 5 of R108. -/
def tableauOk (o : CodeObject) (addr : Nat) : Bool :=
  match sectionOf o ".tableau" with
  | none => false
  | some x =>
    let b := x.bytes.drop (addr - x.addr)
    x.addr ≤ addr && 64 ≤ b.length && tabSize b ≤ b.length && tabCheck b == 0

/-- An instruction that R337 permits, with a branch target inside the routine of `n` instructions. -/
def rvPermitted (n i x : Nat) : Bool :=
  let f3 := field x 12 3
  let f7 := field x 25 7
  let inside := fun (d : Int) => let t : Int := 4 * i + d
    decide (t % 4 = 0) && decide (0 ≤ t) && decide (t < 4 * n)
  let bimm : Int := sval 13 (field x 8 4 * 2 + field x 25 6 * 32 + field x 7 1 * 2048 + field x 31 1 * 4096)
  let jimm : Int := sval 21 (field x 21 10 * 2 + field x 20 1 * 2048 + field x 12 8 * 4096 + field x 31 1 * 2 ^ 20)
  match x % 128 with
  | 0x33 => f7 == 0 || (f7 == 32 && (f3 == 0 || f3 == 5))
  | 0x13 => if f3 = 1 then f7 == 0 else if f3 = 5 then f7 == 0 || f7 == 32 else true
  | 0x37 => true
  | 0x63 => (f3 != 2 && f3 != 3) && inside bimm
  | 0x6F => field x 7 5 == 0 && inside jimm
  | 0x03 => f3 != 3 && f3 < 6
  | 0x23 => f3 < 3
  | 0x73 => x == 0x73
  | _ => false

/-- R336 for the entry (its rsv bits are ignored, R7) and R337 for the code. -/
def routineOk (r : Routine) : Bool :=
  let n := r.code.length
  r.entry.length == 16 && bf r.entry 0 8 % 4 == 0 && bf r.entry 8 1 == n && 1 ≤ n && n ≤ 16 &&
    (r.code.mapIdx fun i w => rvPermitted n i w.toNat).all id

/-- The identifiers of `.spans` (R338); none for a malformed entry. -/
def spanIds : Nat → List Byte → Option (List Nat)
  | 0, _ => some []
  | fuel + 1, bs =>
    if bs = [] then some []
    else
      let n := bf bs 2 2
      let size := roundUp (4 + n) 4
      if bs.length < 4 || n = 0 || n > 255 || bs.length < size || ((bs.take size).drop (4 + n)).any (· != 0) then none
      else (spanIds fuel (bs.drop size)).map (bf bs 0 2 :: ·)

def spansOk (o : CodeObject) : Bool :=
  match sectionOf o ".spans" with
  | none => true
  | some x => match spanIds x.bytes.length x.bytes with
    | none => false
    | some is => !is.contains 0 && is.eraseDups.length == is.length

/-- The first failing check, 0 when all pass. -/
def loadCode (s : State) (o : CodeObject) : Nat :=
  if !elfOk o then 1
  else if !sectionsOk o then 2
  else if o.relocs.any (fun r => (relocOf o r).isNone) then 3
  else if (textStarts o).isNone then 4
  else if !(o.taskTypes.all fun e => taskTypeOk o e.2) then 5
  else if !indicesOk s o then 6
  else if !o.tableaux.all (tableauOk o) then 7
  else if !o.routines.all routineOk then 8
  else if !spansOk o then 9
  else 0

/-! ## Loading -/

/-- Where routines are placed: behind the last loaded section. -/
def routineBase (o : CodeObject) : Nat :=
  o.base + roundUp ((o.sections.filter sectionLoads).foldl (fun m x => max m (x.addr + (sectionContents x).length)) 0) 16
def routineAt (o : CodeObject) (i : Nat) : Nat := routineBase o + 64 * i

/-- The addresses that hold the object's code: `.text` and the routines. -/
def codeAddrs (o : CodeObject) : List Nat :=
  (List.range (textOf o).length).map (o.base + textAddr o + ·) ++
    (o.routines.mapIdx fun i r => (List.range (4 * r.code.length)).map (routineAt o i + ·)).flatten

/-- The instruction cache forgets an object's code. -/
def dropCode (s : State) (o : CodeObject) : State :=
  match districtAt s o.district with
  | none => s
  | some d =>
    let drop := fun m a => mdel m (codeKey s d a)
    { s with mem := { s.mem with code := (codeAddrs o).foldl drop s.mem.code } }

/-- The instruction cache holds an object's code as it was loaded (R49). -/
def fillCode (s : State) (o : CodeObject) : State :=
  match districtAt s o.district with
  | none => s
  | some d =>
    let put := fun m a => writeByte m (codeKey s d a) (BitVec.ofNat 8 (readFor s o.district a 1))
    { s with mem := { s.mem with code := (codeAddrs o).foldl put s.mem.code } }

def applyReloc (d : Nat) (s : State) : RelocDo → State
  | .bytes a n x => writeFor s d a (toBytes n x)
  | .bits a lo w x =>
    let old := readFor s d a 10
    writeFor s d a (toBytes 10 (old - field old lo w * 2 ^ lo + x * 2 ^ lo))

/-- The entry of a task type with its addresses as loaded. -/
def loadedType (o : CodeObject) (e : List Byte) : List Byte :=
  toBytes 8 (o.base + tyEntryC e) ++ toBytes 8 (if tyWavesL e = 0 then 0 else o.base + tyEntryL e) ++ e.drop 16

/-- Memory takes the sections and relocations, and the district's tables in memory the entries; the district copies them
at its next reload (R335). -/
def loadObject (s : State) (o : CodeObject) : State :=
  let d := o.district
  let s := (o.sections.filter sectionLoads).foldl (fun s x => writeFor s d (sectionPlace o x) (sectionContents x)) s
  let s := (o.relocs.filterMap (relocOf o)).foldl (applyReloc d) s
  let s := o.taskTypes.foldl (fun s e => writeFor s d (inherited s d 7 0x048 8 + 64 * e.1) (loadedType o e.2)) s
  let s := (o.routines.mapIdx fun i r => (routineAt o i, r)).foldl (fun s e =>
    writeFor (writeFor s d e.1 (e.2.code.flatMap fun w => toBytes 4 w.toNat)) d
      (inherited s d 8 0x058 8 + 16 * e.2.index) (toBytes 8 e.1 ++ e.2.entry.drop 8)) s
  fillCode s o

/-- R339: the loader answers with its code, 0 when the object is loaded. -/
def execCodeObjectLoad (object : CodeObject) (s : State) : Out :=
  if object.unload then .next (answer (dropCode s object) 0 [])
  else
    let c := loadCode s object
    .next (answer (if c = 0 then loadObject s object else s) c [])

end Sys2Proof.Machine
end

