-- ==== Sys2Proof/Machine/RegisterMap.lean ====
section
/-! DEFINITION. The registers of the host interface (R342 to R346, R354, R355, R400, R405) and a supervisor core's map
(R360 to R362, R382), written and read. A write of another size than its register's, or to a place without a writable
register, is discarded. A read is of the register that begins at the address. -/

namespace Sys2Proof.Machine

/-! ## Queue registers (R346) -/

/-- QCTL: the interrupt enable, then what the enable and stop bits change to. Its other bits are ignored (R7). -/
def writeQctl (s : State) (k v : Nat) : State :=
  let s := withQueue s k fun x => { x with ctl := (x.ctl &&& ~~~ 4#32) ||| (if bit v 2 then 4 else 0) }
  let s := if bit v 0 then enableQueue s k else disableQueue s k
  if bit v 1 then stopQueue s k else resumeQueue s k

/-- A ring address of a disabled queue: one that is not a multiple is discarded. -/
def ringAddr (s : State) (k n v : Nat) (f : HostQueue → HostQueue) : State :=
  if (hostQueue s k).enabled || v % n ≠ 0 then s else withQueue s k f

/-- A configuration word of a disabled queue, its reserved bits dropped. -/
def ringCfgWord (s : State) (k : Nat) (f : HostQueue → HostQueue) : State :=
  if (hostQueue s k).enabled then s else withQueue s k f

def writeQueueReg (s : State) (k offset size : Nat) (value : W64) : State :=
  let v := value.toNat
  let w := BitVec.ofNat 32 v
  if offset < 8 then writeTail s k offset size value
  else match offset, size with
    | 0x10, 4 => writeQctl s k v
    | 0x20, 8 => ringAddr s k 64 v fun x => { x with ringBase := value }
    | 0x28, 4 => ringCfgWord s k fun x => { x with ringCfg := w &&& 0xFF1F#32 }
    | 0x30, 8 => ringAddr s k 16 v fun x => { x with cplBase := value }
    | 0x38, 4 => ringCfgWord s k fun x => { x with cplCfg := w &&& 0x801F#32 }
    | _, _ => s

/-! ## BAR0 (R342) -/

/-- DBGCMD (R405). -/
def debugWrite (fn v : Nat) (s : State) : Out :=
  match v with
  | 1 => execLoadDescriptor fn s
  | 2 => execReadCounters fn s
  | 3 => execStartCapture fn s
  | 4 => execStopCapture fn s
  | 5 => execUnfreeze fn s
  | _ => .next s

/-- MIGCMD (R354). -/
def migrateWrite (s : State) (v : Nat) : State :=
  if v = 1 then exportQueue s else if v = 2 then importQueue s else s

/-- Registers that only function 0 has (R354, R355, R400). -/
def writeFunction0 (s : State) (offset size : Nat) (value : W64) : State :=
  let v := value.toNat
  let w := BitVec.ofNat 32 v
  match offset, size with
  | 0x1000, 4 => { s with migrate := { s.migrate with fn := w } }
  | 0x1004, 4 => { s with migrate := { s.migrate with q := w } }
  | 0x1008, 8 => { s with migrate := { s.migrate with addr := value } }
  | 0x1010, 4 => migrateWrite s v
  | 0x2000, 4 => if v > 48 then s else { s with power := { s.power with limit := v } }
  | _, _ =>
    let f := (offset - 0x1040) / 16 + 1
    if offset < 0x1040 || f > 64 then s
    else match (offset - 0x1040) % 16, size with
      | 0, 8 => swapBitmap s f value
      | 8, 4 => dirtyCtl s f w
      | _, _ => s

def writeBar0 (fn offset size : Nat) (value : W64) (s : State) : Out :=
  let v := value.toNat
  if fn > 64 then .fault .noSuchUnit
  else if 0x10000 ≤ offset && offset < 0x50000 then
    .next (writeQueueReg s (qkey fn ((offset - 0x10000) / 0x1000)) ((offset - 0x10000) % 0x1000) size value)
  else match offset, size with
    | 0x3000, 2 => .next (modFunction s fn fun f => { f with dbgHandle := v % 65536 })
    | 0x3008, 4 => debugWrite fn (v % 2 ^ 32) s
    | 0x3010, 8 => .next (modFunction s fn fun f => { f with dbgAddr := value })
    | _, _ => .next (if fn = 0 then writeFunction0 s offset size (BitVec.ofNat 64 (v % 2 ^ (8 * min size 8))) else s)

/-- A queue's registers as they read (R346). Reading QSTAT also clears bits (execQstatRead). -/
def readQueueReg (s : State) (k offset : Nat) : W64 :=
  let x := hostQueue s k
  match offset with
  | 0x00 => x.tail
  | 0x08 => x.head
  | 0x10 => x.ctl.zeroExtend 64
  | 0x18 => BitVec.ofNat 64 (qstat s x)
  | 0x20 => x.ringBase
  | 0x28 => x.ringCfg.zeroExtend 64
  | 0x30 => x.cplBase
  | 0x38 => x.cplCfg.zeroExtend 64
  | _ => 0

/-- Function 0's own registers as they read (R354, R355, R400). -/
def readFunction0 (s : State) (offset : Nat) : W64 :=
  match offset with
  | 0x1000 => s.migrate.fn.zeroExtend 64
  | 0x1004 => s.migrate.q.zeroExtend 64
  | 0x1008 => s.migrate.addr
  | 0x1018 => BitVec.ofNat 64 s.migrate.stat
  | 0x2000 => BitVec.ofNat 64 s.power.limit
  | _ =>
    let f := functionAt s ((offset - 0x1040) / 16 + 1)
    if offset < 0x1040 || 0x1440 ≤ offset then 0
    else match (offset - 0x1040) % 16 with
      | 0 => f.dirtyAddr
      | 8 => BitVec.ofNat 64 ((if f.dirtyOn then 1 else 0) + if f.dirtyDone then 2 else 0)
      | _ => 0

/-- R342: a register of BAR0 as it reads; an unassigned offset reads 0. -/
def readBar0 (s : State) (fn offset : Nat) : W64 :=
  if 0x10000 ≤ offset && offset < 0x50000 then
    readQueueReg s (qkey fn ((offset - 0x10000) / 0x1000)) ((offset - 0x10000) % 0x1000)
  else match offset with
    | 0x3000 => BitVec.ofNat 64 (functionAt s fn).dbgHandle
    | 0x3010 => (functionAt s fn).dbgAddr
    | 0x3018 => BitVec.ofNat 64 (functionAt s fn).dbgStat
    | _ => if fn = 0 then readFunction0 s offset else 0

/-! ## Windows and aperture entries (R343, R344) -/

def writeWindow (s : State) (fn i : Nat) (base limit : W64) : State :=
  if i ≥ 16 || base.toNat % 4096 ≠ 0 || limit.toNat % 4096 ≠ 0 then s
  else modFunction s fn fun f => { f with windows := mset f.windows i (base, limit) }

/-- Reserved bits of an entry are ignored (R7). -/
def apertureOk (b : List Byte) : Bool :=
  b.length == 32 && bf b 0 8 % 65536 == 0 && bf b 8 8 % 65536 == 0 && bf b 0x10 8 % 65536 == 0

def writeAperture (s : State) (fn i : Nat) (b : List Byte) : State :=
  if i ≥ 16 || !apertureOk b then s
  else modFunction s fn fun f => { f with apertures := mset f.apertures i b }

/-! ## The supervisor core's map (R360 to R362) -/

/-- A lane whose registers and state the supervisor core reaches: parked, or waiting on `svc`. -/
def laneOpen (w : Wave) (l : Nat) : Bool :=
  match mget w.fibres l with
  | some f => match f.wait with
    | .parked | .svc .. => true
    | _ => false
  | none => false

/-- No fibre of the wave is ready under R17: each waits, is parked, or is stalled. A wave outside its slot cannot be
stalled. -/
def waveOpen (s : State) (at_ : SvcAt) (w : Wave) : Bool :=
  let waits := w.fibres.all fun e => match e.2.wait with
    | .ready | .paced _ | .again => false
    | _ => true
  match at_ with
  | .live j =>
    j < 64 && (match waveDistrict s w with
      | none => true
      | some d => s.clock < w.sched.nextIssue || groupsReady s d w = []) || waits
  | .image .. => waits

/-- Where the wave stands whose lane `l` these addresses reach. -/
def openLane (s : State) (core slot l : Nat) : Option (SvcAt × Wave) := waveFind s core slot fun w => laneOpen w l
/-- Where the wave stands whose state these addresses reach: the slot's own, or else the latest that left it. -/
def slotWave (s : State) (core slot : Nat) : Option (SvcAt × Wave) := waveFind s core slot fun _ => true

/-- A word of the lane state block. -/
def setLaneWord (x : Lane) (off size : Nat) (value : W64) : Lane :=
  let w := BitVec.ofNat 32 value.toNat
  match off, size with
  | 0x00, 8 => { x with trap := { x.trap with pc := value } }
  | 0x08, 8 => { x with trap := { x.trap with addr := value } }
  | 0x10, 4 => { x with trap := { x.trap with cause := w } }
  | 0x14, 4 => setLaneReg x 0x015 w.toNat
  | 0x18, 4 => { x with trap := { x.trap with win := w } }
  | 0x1C, 4 => setLaneReg x 0x011 w.toNat
  | 0x30, 8 => { x with svc := { x.svc with reply := value } }
  | 0x38, 8 => { x with svc := { x.svc with resume := value } }
  | _, _ => x

/-- A word of the wave state block; SPANTOP is read only. -/
def setWaveWord (w : Wave) (off : Nat) (x : W32) : Wave :=
  if off < 0x80 then landWrite w (.s (off / 4)) x
  else if off < 0xB0 then landWrite w (.k ((off - 0x80) / 4)) x
  else if off = 0xB0 then setWaveReg w 0x010 x.toNat
  else if off = 0xB8 then setWaveReg w 0x030 x.toNat
  else w

/-- Registers, lane state and wave state. -/
def writeWaves (s : State) (core addr size : Nat) (value : W64) : State :=
  let w := BitVec.ofNat 32 value.toNat
  if 0x10000000 ≤ addr && addr < 0x10400000 then
    let o := addr - 0x10000000
    let l := o / 0x800 % 32
    let g := o % 0x800 / 4
    if o % 4 ≠ 0 || size ≠ 4 then s
    else match openLane s core (o / 0x10000) l with
      | none => s
      | some (a, _) => modSvc s core a fun x => if g < x.id.allot then landWrite x (.v l g) w else x
  else if 0x10400000 ≤ addr && addr < 0x10440000 then
    let o := addr - 0x10400000
    let l := o / 0x80 % 32
    match openLane s core (o / 0x1000) l with
      | none => s
      | some (a, _) => modSvc s core a fun x => modLane x l fun y => setLaneWord y (o % 0x80) size value
  else if 0x10600000 ≤ addr && addr < 0x10610000 then
    let o := addr - 0x10600000
    if o % 4 ≠ 0 || size ≠ 4 then s
    else match slotWave s core (o / 0x400) with
      | none => s
      | some (a, y) => if waveOpen s a y then modSvc s core a fun x => setWaveWord x (o % 0x400) w else s
  else s

/-- A word of the lane state block as it reads; the reply is write only. -/
def laneWord (x : Lane) (off : Nat) : W64 :=
  match off with
  | 0x00 => x.trap.pc
  | 0x08 => x.trap.addr
  | 0x10 => x.trap.cause.zeroExtend 64
  | 0x14 => x.trap.pred.zeroExtend 64
  | 0x18 => x.trap.win.zeroExtend 64
  | 0x1C => x.abort.zeroExtend 64
  | 0x20 => x.svc.number.zeroExtend 64
  | 0x28 => x.svc.arg
  | 0x38 => x.svc.resume
  | _ => 0

/-- A word of the wave state block as it reads. -/
def waveWord (w : Wave) (off : Nat) : W64 :=
  if off < 0x80 then (readTarget w (.s (off / 4))).zeroExtend 64
  else if off < 0xB0 then (readTarget w (.k ((off - 0x80) / 4))).zeroExtend 64
  else match off with
    | 0xB0 => w.regs.fpstat.zeroExtend 64
    | 0xB4 => BitVec.ofNat 64 (spanTop w.spans)
    | 0xB8 => w.regs.check.zeroExtend 64
    | _ => 0

/-- An unspecified value (R360). -/
def openWord (s : State) : W64 := (Config.freeWord s.free).zeroExtend 64

/-- Registers, lane state and wave state as the map reads them (R360): a register at or beyond the allotment reads 0,
a lane that is neither parked nor waiting on `svc` reads an unspecified value. -/
def readWaves (s : State) (core addr : Nat) : W64 :=
  if addr < 0x10400000 then
    let o := addr - 0x10000000
    let l := o / 0x800 % 32
    let g := o % 0x800 / 4
    match openLane s core (o / 0x10000) l, slotWave s core (o / 0x10000) with
    | some (_, w), _ => if g < w.id.allot then (readTarget w (.v l g)).zeroExtend 64 else 0
    | none, some (_, w) => if g < w.id.allot then openWord s else 0
    | none, none => openWord s
  else if addr < 0x10440000 then
    let o := addr - 0x10400000
    let l := o / 0x80 % 32
    match openLane s core (o / 0x1000) l with
    | some (_, w) => laneWord (laneAt w l) (o % 0x80)
    | none => openWord s
  else
    let o := addr - 0x10600000
    match slotWave s core (o / 0x400) with
    | some (_, w) => waveWord w (o % 0x400)
    | none => openWord s

/-- Byte-wise read of up to eight bytes of a ring of 64 entries. -/
def ringWord (r : Ring) (entry off : Nat) : W64 :=
  BitVec.ofNat 64 (ofBytes ((((mget r.slots (off / entry)).getD []).drop (off % entry)).take 8))

/-- The supervisor core's map as it reads (R360, R382, R383). -/
def readSupervisor (s : State) (core addr : Nat) : W64 :=
  let c := coreOf s core
  if 0x10000000 ≤ addr && addr < 0x10440000 || 0x10600000 ≤ addr && addr < 0x10610000 then readWaves s core addr
  else if 0x10800000 ≤ addr && addr < 0x10800400 then ringWord c.notices 16 (addr - 0x10800000)
  else if 0x10820000 ≤ addr && addr < 0x10820020 then
    BitVec.ofNat 64 (ofBytes ((List.range 8).map fun i => (mget c.pageCmd (addr - 0x10820000 + i)).getD 0))
  else if 0x10820100 ≤ addr && addr < 0x10820500 then ringWord c.pageRing 16 (addr - 0x10820100)
  else match addr with
    | 0x10800400 => BitVec.ofNat 64 c.notices.head
    | 0x10800408 => BitVec.ofNat 64 c.notices.tail
    | 0x10810000 => c.command
    | 0x10820028 => BitVec.ofNat 64 c.pgstat
    | 0x10820500 => BitVec.ofNat 64 c.pageRing.head
    | 0x10820508 => BitVec.ofNat 64 c.pageRing.tail
    | _ => 0

/-- The command register (R362). -/
def commandWrite (core : Nat) (cmd : W64) (s : State) : Out :=
  match cmd.toNat % 16 with
  | 1 => execResumeAtTrappc core cmd s
  | 2 => execResumeAtResumePc core cmd s
  | 3 => execEndFibre core cmd s
  | 4 => execPassToFaultDomain core cmd s
  | 5 => execPostServiceReply core cmd s
  | _ => .next s

/-- The command that the bytes of the block hold (R382). -/
def blockCommand (c : Core) : Nat × PageCmd :=
  let f := fun (o n : Nat) => ofBytes ((List.range n).map fun i => (mget c.pageCmd (o + i)).getD 0)
  (f 0 1, ⟨BitVec.ofNat 8 (f 1 1), BitVec.ofNat 16 (f 2 2), BitVec.ofNat 32 (f 4 4), BitVec.ofNat 64 (f 8 8),
    BitVec.ofNat 64 (f 0x10 8), BitVec.ofNat 64 (f 0x18 8)⟩)

/-- PGGO: the command starts. -/
def pageGo (core : Nat) (s : State) : Out :=
  let (op, cmd) := blockCommand (coreOf s core)
  let p := partOfCore core
  match op with
  | 1 => execMap (some core) p cmd s
  | 2 => execUnmap (some core) p cmd s
  | 3 => execInval (some core) p cmd s
  | 4 => execRetry (some core) p cmd s
  | 5 => execNoframe (some core) p cmd s
  | _ => .next (modCore s core fun c => { c with pgstat := pgMalformed })

/-- Bytes of a register block, by offset. -/
def putBlock (m : List (Nat × Byte)) (off : Nat) : List Byte → List (Nat × Byte)
  | [] => m
  | b :: bs => putBlock (if b = 0 then mdel m off else mset m off b) (off + 1) bs

def writeSupervisor (core addr size : Nat) (value : W64) (s : State) : Out :=
  let n := min size 8
  if core ≥ 768 then .fault .noSuchUnit
  else if addr < 0x10800000 then .next (writeWaves s core addr size value)
  else match addr, size with
    | 0x10800400, 8 => .next (setNoticeHead s core value.toNat)
    | 0x10810000, 8 => commandWrite core value (modCore s core fun c => { c with command := value })
    | 0x10820020, 8 => if value = 1 then pageGo core s else .next s
    | 0x10820500, 8 => .next (modCore s core fun c => setPageHead c value.toNat)
    | _, _ =>
      if 0x10820000 ≤ addr && addr + n ≤ 0x10820020 then
        .next (modCore s core fun c => { c with pageCmd := putBlock c.pageCmd (addr - 0x10820000) (toBytes n value.toNat) })
      else .next s

/-- R342: a register of its own behaviour behaves so; another keeps the value; any other place discards it. -/
def execRegisterWrite (target : RegTarget) (size : Nat) (value : W64) (s : State) : Out :=
  match target with
  | .bar0 fn offset => writeBar0 fn offset size value s
  | .window fn i base limit => if fn > 64 then .fault .noSuchUnit else .next (writeWindow s fn i base limit)
  | .aperture fn i entry => if fn > 64 then .fault .noSuchUnit else .next (writeAperture s fn i entry)
  | .supervisor core addr => writeSupervisor core addr size value s
  | .bar4 fn offset =>
    if fn > 64 then .fault .noSuchUnit
    else .next (if offset + size ≤ 65536 then
      modFunction s fn fun f => { f with bar4 := putBlock f.bar4 offset (toBytes (min size 8) value.toNat) } else s)

end Sys2Proof.Machine
end

