-- ==== Sys2Proof/Machine/Dispatch.lean ====
section
/-! DEFINITION. The dispatch: one arm per row of the opcode table, each one call of its meaning. -/

namespace Sys2Proof.Machine

/-- The effect of an instruction or an event row. -/
def exec (i : Instr) (s : State) : Host.Outcome State Fault Refusal :=
  match i with
  | .nop h f => Sys2Proof.Machine.execNop h f s
  | .mov h f => Sys2Proof.Machine.execMov h f s
  | .movImm h f => Sys2Proof.Machine.execMovImm h f s
  | .sel h f => Sys2Proof.Machine.execSel h f s
  | .add h f => Sys2Proof.Machine.execAdd h f s
  | .addImm h f => Sys2Proof.Machine.execAddImm h f s
  | .sub h f => Sys2Proof.Machine.execSub h f s
  | .mul h f => Sys2Proof.Machine.execMul h f s
  | .mulImm h f => Sys2Proof.Machine.execMulImm h f s
  | .mulhi h f => Sys2Proof.Machine.execMulhi h f s
  | .mad h f => Sys2Proof.Machine.execMad h f s
  | .fma h f => Sys2Proof.Machine.execFma h f s
  | .min h f => Sys2Proof.Machine.execMin h f s
  | .max h f => Sys2Proof.Machine.execMax h f s
  | .abs h f => Sys2Proof.Machine.execAbs h f s
  | .neg h f => Sys2Proof.Machine.execNeg h f s
  | .and h f => Sys2Proof.Machine.execAnd h f s
  | .andImm h f => Sys2Proof.Machine.execAndImm h f s
  | .or h f => Sys2Proof.Machine.execOr h f s
  | .orImm h f => Sys2Proof.Machine.execOrImm h f s
  | .xor h f => Sys2Proof.Machine.execXor h f s
  | .xorImm h f => Sys2Proof.Machine.execXorImm h f s
  | .not h f => Sys2Proof.Machine.execNot h f s
  | .shl h f => Sys2Proof.Machine.execShl h f s
  | .shlImm h f => Sys2Proof.Machine.execShlImm h f s
  | .shr h f => Sys2Proof.Machine.execShr h f s
  | .shrImm h f => Sys2Proof.Machine.execShrImm h f s
  | .sra h f => Sys2Proof.Machine.execSra h f s
  | .sraImm h f => Sys2Proof.Machine.execSraImm h f s
  | .rot h f => Sys2Proof.Machine.execRot h f s
  | .popc h f => Sys2Proof.Machine.execPopc h f s
  | .clz h f => Sys2Proof.Machine.execClz h f s
  | .ctz h f => Sys2Proof.Machine.execCtz h f s
  | .brev h f => Sys2Proof.Machine.execBrev h f s
  | .bfe h f => Sys2Proof.Machine.execBfe h f s
  | .bfi h f => Sys2Proof.Machine.execBfi h f s
  | .lea h f => Sys2Proof.Machine.execLea h f s
  | .div h f => Sys2Proof.Machine.execDiv h f s
  | .rem h f => Sys2Proof.Machine.execRem h f s
  | .cmp h f => Sys2Proof.Machine.execCmp h f s
  | .plop h f => Sys2Proof.Machine.execPlop h f s
  | .pmov h f => Sys2Proof.Machine.execPmov h f s
  | .cpsgn h f => Sys2Proof.Machine.execCpsgn h f s
  | .classify h f => Sys2Proof.Machine.execClassify h f s
  | .scale h f => Sys2Proof.Machine.execScale h f s
  | .frnd h f => Sys2Proof.Machine.execFrnd h f s
  | .cvt h f => Sys2Proof.Machine.execCvt h f s
  | .rcp h f => Sys2Proof.Machine.execRcp h f s
  | .rsq h f => Sys2Proof.Machine.execRsq h f s
  | .sqrt h f => Sys2Proof.Machine.execSqrt h f s
  | .ex2 h f => Sys2Proof.Machine.execEx2 h f s
  | .lg2 h f => Sys2Proof.Machine.execLg2 h f s
  | .sin h f => Sys2Proof.Machine.execSin h f s
  | .cos h f => Sys2Proof.Machine.execCos h f s
  | .tanh h f => Sys2Proof.Machine.execTanh h f s
  | .dot2 h f => Sys2Proof.Machine.execDot2 h f s
  | .qblk h f => Sys2Proof.Machine.execQblk h f s
  | .dqn4 h f => Sys2Proof.Machine.execDqn4 h f s
  | .shfl h f => Sys2Proof.Machine.execShfl h f s
  | .shflImm h f => Sys2Proof.Machine.execShflImm h f s
  | .bcast h f => Sys2Proof.Machine.execBcast h f s
  | .vote h f => Sys2Proof.Machine.execVote h f s
  | .ballot h f => Sys2Proof.Machine.execBallot h f s
  | .wred h f => Sys2Proof.Machine.execWred h f s
  | .wscan h f => Sys2Proof.Machine.execWscan h f s
  | .kmov h f => Sys2Proof.Machine.execKmov h f s
  | .kmovImm h f => Sys2Proof.Machine.execKmovImm h f s
  | .kand h f => Sys2Proof.Machine.execKand h f s
  | .kor h f => Sys2Proof.Machine.execKor h f s
  | .kxor h f => Sys2Proof.Machine.execKxor h f s
  | .knot h f => Sys2Proof.Machine.execKnot h f s
  | .kact h f => Sys2Proof.Machine.execKact h f s
  | .kpop h f => Sys2Proof.Machine.execKpop h f s
  | .ktest h f => Sys2Proof.Machine.execKtest h f s
  | .kfirst h f => Sys2Proof.Machine.execKfirst h f s
  | .xainit h f => Sys2Proof.Machine.execXainit h f s
  | .xapush h f => Sys2Proof.Machine.execXapush h f s
  | .xalim h f => Sys2Proof.Machine.execXalim h f s
  | .xastat h f => Sys2Proof.Machine.execXastat h f s
  | .xaclr h f => Sys2Proof.Machine.execXaclr h f s
  | .ld h f => Sys2Proof.Machine.execLd h f s
  | .st h f => Sys2Proof.Machine.execSt h f s
  | .lds h f => Sys2Proof.Machine.execLds h f s
  | .sts h f => Sys2Proof.Machine.execSts h f s
  | .stp h f => Sys2Proof.Machine.execStp h f s
  | .ldl h f => Sys2Proof.Machine.execLdl h f s
  | .stm h f => Sys2Proof.Machine.execStm h f s
  | .replsync h f => Sys2Proof.Machine.execReplsync h f s
  | .fence h f => Sys2Proof.Machine.execFence h f s
  | .stpScalarRank h f => Sys2Proof.Machine.execStpScalarRank h f s
  | .atom h f => Sys2Proof.Machine.execAtom h f s
  | .atoms h f => Sys2Proof.Machine.execAtoms h f s
  | .red h f => Sys2Proof.Machine.execRed h f s
  | .reds h f => Sys2Proof.Machine.execReds h f s
  | .cas h f => Sys2Proof.Machine.execCas h f s
  | .casgt h f => Sys2Proof.Machine.execCasgt h f s
  | .casver h f => Sys2Proof.Machine.execCasver h f s
  | .casptr h f => Sys2Proof.Machine.execCasptr h f s
  | .pcall h f => Sys2Proof.Machine.execPcall h f s
  | .txbegin h f => Sys2Proof.Machine.execTxbegin h f s
  | .txend h f => Sys2Proof.Machine.execTxend h f s
  | .txabort h f => Sys2Proof.Machine.execTxabort h f s
  | .obres h f => Sys2Proof.Machine.execObres h f s
  | .obrel h f => Sys2Proof.Machine.execObrel h f s
  | .mma h f => Sys2Proof.Machine.execMma h f s
  | .mmam h f => Sys2Proof.Machine.execMmam h f s
  | .mzero h f => Sys2Proof.Machine.execMzero h f s
  | .mmov h f => Sys2Proof.Machine.execMmov h f s
  | .mld h f => Sys2Proof.Machine.execMld h f s
  | .mflush h f => Sys2Proof.Machine.execMflush h f s
  | .mstest h f => Sys2Proof.Machine.execMstest h f s
  | .cpy h f => Sys2Proof.Machine.execCpy h f s
  | .cpyt h f => Sys2Proof.Machine.execCpyt h f s
  | .rcfence h f => Sys2Proof.Machine.execRcfence h f s
  | .bra h f => Sys2Proof.Machine.execBra h f s
  | .jmp h f => Sys2Proof.Machine.execJmp h f s
  | .call h f => Sys2Proof.Machine.execCall h f s
  | .callr h f => Sys2Proof.Machine.execCallr h f s
  | .ret h f => Sys2Proof.Machine.execRet h f s
  | .loop h f => Sys2Proof.Machine.execLoop h f s
  | .fork h f => Sys2Proof.Machine.execFork h f s
  | .quit h f => Sys2Proof.Machine.execQuit h f s
  | .join h f => Sys2Proof.Machine.execJoin h f s
  | .leave h f => Sys2Proof.Machine.execLeave h f s
  | .waitm h f => Sys2Proof.Machine.execWaitm h f s
  | .binit h f => Sys2Proof.Machine.execBinit h f s
  | .barr h f => Sys2Proof.Machine.execBarr h f s
  | .bwait h f => Sys2Proof.Machine.execBwait h f s
  | .bfarr h f => Sys2Proof.Machine.execBfarr h f s
  | .bfwait h f => Sys2Proof.Machine.execBfwait h f s
  | .qput h f => Sys2Proof.Machine.execQput h f s
  | .qget h f => Sys2Proof.Machine.execQget h f s
  | .svc h f => Sys2Proof.Machine.execSvc h f s
  | .mfsr h f => Sys2Proof.Machine.execMfsr h f s
  | .mtsr h f => Sys2Proof.Machine.execMtsr h f s
  | .spawn h f => Sys2Proof.Machine.execSpawn h f s
  | .yieldpt h f => Sys2Proof.Machine.execYieldpt h f s
  | .ppt h f => Sys2Proof.Machine.execPpt h f s
  | .spanin h f => Sys2Proof.Machine.execSpanin h f s
  | .spanout h f => Sys2Proof.Machine.execSpanout h f s
  | .brk h f => Sys2Proof.Machine.execBrk h f s
  | .trap h f => Sys2Proof.Machine.execTrap h f s
  | .sret h f => Sys2Proof.Machine.execSret h f s
  | .rdcyc h f => Sys2Proof.Machine.execRdcyc h f s
  | .tbload h f => Sys2Proof.Machine.execTbload h f s
  | .odeinit h f => Sys2Proof.Machine.execOdeinit h f s
  | .oderun h f => Sys2Proof.Machine.execOderun h f s
  | .odestep h f => Sys2Proof.Machine.execOdestep h f s
  | .odeq h f => Sys2Proof.Machine.execOdeq h f s
  | .odestat h f => Sys2Proof.Machine.execOdestat h f s
  | .stgget h f => Sys2Proof.Machine.execStgget h f s
  | .stgput h f => Sys2Proof.Machine.execStgput h f s
  | .evarm h f => Sys2Proof.Machine.execEvarm h f s
  | .unassignedOpcode w => Sys2Proof.Machine.execUnassignedOpcode w s
  | .waveSelection core slot => Sys2Proof.Machine.execWaveSelection core slot s
  | .variableLatencyCompletion flight => Sys2Proof.Machine.execVariableLatencyCompletion flight s
  | .maskWriteArrival core slot => Sys2Proof.Machine.execMaskWriteArrival core slot s
  | .joinRelease core slot => Sys2Proof.Machine.execJoinRelease core slot s
  | .waitmRelease core slot => Sys2Proof.Machine.execWaitmRelease core slot s
  | .bwaitRelease core slot => Sys2Proof.Machine.execBwaitRelease core slot s
  | .belfryPhaseVisible tag die => Sys2Proof.Machine.execBelfryPhaseVisible tag die s
  | .queueWindowWaitEnd core slot => Sys2Proof.Machine.execQueueWindowWaitEnd core slot s
  | .serialTokenGrant district => Sys2Proof.Machine.execSerialTokenGrant district s
  | .remoteReply flight => Sys2Proof.Machine.execRemoteReply flight s
  | .remoteWriteAck write => Sys2Proof.Machine.execRemoteWriteAck write s
  | .routeDownTimeout node => Sys2Proof.Machine.execRouteDownTimeout node s
  | .directoryRecall flight => Sys2Proof.Machine.execDirectoryRecall flight s
  | .nearCachePartial part => Sys2Proof.Machine.execNearCachePartial part s
  | .engineOperationComplete op => Sys2Proof.Machine.execEngineOperationComplete op s
  | .mmaConsumedSignal op => Sys2Proof.Machine.execMmaConsumedSignal op s
  | .crewEnd crew => Sys2Proof.Machine.execCrewEnd crew s
  | .completionRecordPost district => Sys2Proof.Machine.execCompletionRecordPost district s
  | .notificationPost core => Sys2Proof.Machine.execNotificationPost core s
  | .dependantRelease core => Sys2Proof.Machine.execDependantRelease core s
  | .notificationRingHeadWrite core value => Sys2Proof.Machine.execNotificationRingHeadWrite core value s
  | .resumeAtTrappc core cmd => Sys2Proof.Machine.execResumeAtTrappc core cmd s
  | .resumeAtResumePc core cmd => Sys2Proof.Machine.execResumeAtResumePc core cmd s
  | .endFibre core cmd => Sys2Proof.Machine.execEndFibre core cmd s
  | .passToFaultDomain core cmd => Sys2Proof.Machine.execPassToFaultDomain core cmd s
  | .postServiceReply core cmd => Sys2Proof.Machine.execPostServiceReply core cmd s
  | .faultDomainEndCrew crew => Sys2Proof.Machine.execFaultDomainEndCrew crew s
  | .svcEcho core slot lane => Sys2Proof.Machine.execSvcEcho core slot lane s
  | .allocateBelfryTag core slot lane => Sys2Proof.Machine.execAllocateBelfryTag core slot lane s
  | .freeBelfryTag core slot lane => Sys2Proof.Machine.execFreeBelfryTag core slot lane s
  | .pluginService core slot lane reply => Sys2Proof.Machine.execPluginService core slot lane reply s
  | .reservedService core slot lane => Sys2Proof.Machine.execReservedService core slot lane s
  | .placementPass part ins => Sys2Proof.Machine.execPlacementPass part ins s
  | .crewEviction crew => Sys2Proof.Machine.execCrewEviction crew s
  | .waveEviction core slot => Sys2Proof.Machine.execWaveEviction core slot s
  | .crewRestore crew => Sys2Proof.Machine.execCrewRestore crew s
  | .thermalMigration crew => Sys2Proof.Machine.execThermalMigration crew s
  | .partitionSwap part => Sys2Proof.Machine.execPartitionSwap part s
  | .clusterGate cluster => Sys2Proof.Machine.execClusterGate cluster s
  | .clusterUngate cluster => Sys2Proof.Machine.execClusterUngate cluster s
  | .stageTaskAppend ctx => Sys2Proof.Machine.execStageTaskAppend ctx s
  | .evaluationComplete ctx => Sys2Proof.Machine.execEvaluationComplete ctx s
  | .frameChunkRelease ctx => Sys2Proof.Machine.execFrameChunkRelease ctx s
  | .pcSample core district => Sys2Proof.Machine.execPcSample core district s
  | .replayLogStallRelease district => Sys2Proof.Machine.execReplayLogStallRelease district s
  | .replayEventResolve district => Sys2Proof.Machine.execReplayEventResolve district s
  | .pageFaultRecord part => Sys2Proof.Machine.execPageFaultRecord part s
  | .pageFaultRingHeadWrite core value => Sys2Proof.Machine.execPageFaultRingHeadWrite core value s
  | .firmwarePageFaultService part frame => Sys2Proof.Machine.execFirmwarePageFaultService part frame s
  | .map handler part cmd => Sys2Proof.Machine.execMap handler part cmd s
  | .unmap handler part cmd => Sys2Proof.Machine.execUnmap handler part cmd s
  | .inval handler part cmd => Sys2Proof.Machine.execInval handler part cmd s
  | .retry handler part cmd => Sys2Proof.Machine.execRetry handler part cmd s
  | .noframe handler part cmd => Sys2Proof.Machine.execNoframe handler part cmd s
  | .qtaildbWrite fn q offset size value => Sys2Proof.Machine.execQtaildbWrite fn q offset size value s
  | .qstatRead fn q => Sys2Proof.Machine.execQstatRead fn q s
  | .queueEnable fn q => Sys2Proof.Machine.execQueueEnable fn q s
  | .queueDisable fn q => Sys2Proof.Machine.execQueueDisable fn q s
  | .queueStop fn q => Sys2Proof.Machine.execQueueStop fn q s
  | .queueResume fn q => Sys2Proof.Machine.execQueueResume fn q s
  | .queueStopped fn q => Sys2Proof.Machine.execQueueStopped fn q s
  | .entryNop fn q => Sys2Proof.Machine.execEntryNop fn q s
  | .launch fn q => Sys2Proof.Machine.execLaunch fn q s
  | .launchAppendOnRoom fn q => Sys2Proof.Machine.execLaunchAppendOnRoom fn q s
  | .signal fn q => Sys2Proof.Machine.execSignal fn q s
  | .reload fn q => Sys2Proof.Machine.execReload fn q s
  | .flip fn q => Sys2Proof.Machine.execFlip fn q s
  | .createDistrict fn q => Sys2Proof.Machine.execCreateDistrict fn q s
  | .destroyDistrict fn q => Sys2Proof.Machine.execDestroyDistrict fn q s
  | .completionEntryWrite fn q => Sys2Proof.Machine.execCompletionEntryWrite fn q s
  | .firmwareRestartBegin part image => Sys2Proof.Machine.execFirmwareRestartBegin part image s
  | .firmwareRestartEnd part => Sys2Proof.Machine.execFirmwareRestartEnd part s
  | .queueStateExport value => Sys2Proof.Machine.execQueueStateExport value s
  | .queueStateImport value => Sys2Proof.Machine.execQueueStateImport value s
  | .dirtyTrackingEnable fn value => Sys2Proof.Machine.execDirtyTrackingEnable fn value s
  | .dirtyTrackingDisable fn value => Sys2Proof.Machine.execDirtyTrackingDisable fn value s
  | .dirtyBitmapSwap fn addr => Sys2Proof.Machine.execDirtyBitmapSwap fn addr s
  | .dirtySwapDone fn => Sys2Proof.Machine.execDirtySwapDone fn s
  | .apertureRead fn offset size => Sys2Proof.Machine.execApertureRead fn offset size s
  | .apertureWrite fn offset data => Sys2Proof.Machine.execApertureWrite fn offset data s
  | .pwrlimitWrite value => Sys2Proof.Machine.execPwrlimitWrite value s
  | .limiterStep milliwatts => Sys2Proof.Machine.execLimiterStep milliwatts s
  | .clusterThermalLimit cluster eighths => Sys2Proof.Machine.execClusterThermalLimit cluster eighths s
  | .packageTrip cluster eighths => Sys2Proof.Machine.execPackageTrip cluster eighths s
  | .packageReset boot => Sys2Proof.Machine.execPackageReset boot s
  | .functionReady bit => Sys2Proof.Machine.execFunctionReady bit s
  | .pluginLoad fn core image => Sys2Proof.Machine.execPluginLoad fn core image s
  | .correctableError part => Sys2Proof.Machine.execCorrectableError part s
  | .uncorrectableError part site => Sys2Proof.Machine.execUncorrectableError part site s
  | .partitionReset part => Sys2Proof.Machine.execPartitionReset part s
  | .telemetryRefresh => Sys2Proof.Machine.execTelemetryRefresh s
  | .flitRetry port => Sys2Proof.Machine.execFlitRetry port s
  | .portLinkChange port up peer => Sys2Proof.Machine.execPortLinkChange port up peer s
  | .setEndpointId eid => Sys2Proof.Machine.execSetEndpointId eid s
  | .getEndpointId => Sys2Proof.Machine.execGetEndpointId s
  | .getMctpVersionSupport type => Sys2Proof.Machine.execGetMctpVersionSupport type s
  | .getMessageTypeSupport => Sys2Proof.Machine.execGetMessageTypeSupport s
  | .mctpUnsupportedMessage type => Sys2Proof.Machine.execMctpUnsupportedMessage type s
  | .pldmSensorRead sensor => Sys2Proof.Machine.execPldmSensorRead sensor s
  | .pldmTransferComplete component => Sys2Proof.Machine.execPldmTransferComplete component s
  | .pldmActivateFirmware part => Sys2Proof.Machine.execPldmActivateFirmware part s
  | .readTelemetry offset len => Sys2Proof.Machine.execReadTelemetry offset len s
  | .readReadiness => Sys2Proof.Machine.execReadReadiness s
  | .writePowerLimit value => Sys2Proof.Machine.execWritePowerLimit value s
  | .setMigrationThreshold celsius => Sys2Proof.Machine.execSetMigrationThreshold celsius s
  | .setNodeNumber node => Sys2Proof.Machine.execSetNodeNumber node s
  | .writeRoute node mask => Sys2Proof.Machine.execWriteRoute node mask s
  | .resetPartition part => Sys2Proof.Machine.execResetPartition part s
  | .clearTrip => Sys2Proof.Machine.execClearTrip s
  | .commitImage kind => Sys2Proof.Machine.execCommitImage kind s
  | .getVersion path => Sys2Proof.Machine.execGetVersion path s
  | .getCapabilities path => Sys2Proof.Machine.execGetCapabilities path s
  | .negotiateAlgorithms path algs => Sys2Proof.Machine.execNegotiateAlgorithms path algs s
  | .getDigests path => Sys2Proof.Machine.execGetDigests path s
  | .getCertificate path slot => Sys2Proof.Machine.execGetCertificate path slot s
  | .challenge path nonce => Sys2Proof.Machine.execChallenge path nonce s
  | .getMeasurements path index nonce => Sys2Proof.Machine.execGetMeasurements path index nonce s
  | .spdmUnsupportedRequest path code => Sys2Proof.Machine.execSpdmUnsupportedRequest path code s
  | .loadDescriptor fn => Sys2Proof.Machine.execLoadDescriptor fn s
  | .readCounters fn => Sys2Proof.Machine.execReadCounters fn s
  | .startCapture fn => Sys2Proof.Machine.execStartCapture fn s
  | .stopCapture fn => Sys2Proof.Machine.execStopCapture fn s
  | .unfreeze fn => Sys2Proof.Machine.execUnfreeze fn s
  | .registerWrite target size value => Sys2Proof.Machine.execRegisterWrite target size value s
  | .arrivingRemoteAccess access => Sys2Proof.Machine.execArrivingRemoteAccess access s
  | .chipServiceReply core slot lane reply => Sys2Proof.Machine.execChipServiceReply core slot lane reply s
  | .processorChipletAccess app access => Sys2Proof.Machine.execProcessorChipletAccess app access s
  | .tenantEnable fn block => Sys2Proof.Machine.execTenantEnable fn block s
  | .codeObjectLoad object => Sys2Proof.Machine.execCodeObjectLoad object s
  | .pldmBaseCommand command => Sys2Proof.Machine.execPldmBaseCommand command s
  | .pldmFirmwareUpdateTransfer component offset data => Sys2Proof.Machine.execPldmFirmwareUpdateTransfer component offset data s
  | .hostLinkChange up => Sys2Proof.Machine.execHostLinkChange up s

end Sys2Proof.Machine
end

