-- ==== Sys2Proof/Machine/Events.lean ====
section
/-! DEFINITION. The events that come from the machine itself, and which of them comes next. Several may be enabled in one
clock, and the spec orders only some; the order here is one that it allows. -/

namespace Sys2Proof.Machine

/-! ## Waves and their operations -/

def flightEvent (s : State) : Option Instr :=
  (s.flights.find? fun f => flightDone s f.2).map fun f => .variableLatencyCompletion f.1

/-- A release or an arrival in a wave. -/
def waveEvent (s : State) (e : Nat × Wave) : Option Instr :=
  let core := wkCore e.1
  let slot := wkSlot e.1
  let w := e.2
  if (w.sched.pend.any fun p => p.land ≤ s.clock && isMaskTarget p.target) || quitDue s.clock w ≠ [] then
    some (.maskWriteArrival core slot)
  else if joinReady w ≠ [] then some (.joinRelease core slot)
  else if waitmReady w ≠ [] then some (.waitmRelease core slot)
  else if phaseReady s core w ≠ [] then some (.bwaitRelease core slot)
  else if queueWaiters w ≠ [] && queueWaitState s core slot w ≠ 2 then some (.queueWindowWaitEnd core slot)
  else none

def belfryEvent (s : State) : Option Instr :=
  s.belfry.findSome? fun b => (b.2.coming.find? fun e => e.2.1 ≤ s.clock).map fun e => .belfryPhaseVisible b.1 e.1

def tokenEvent (s : State) : Option Instr :=
  (s.districts.find? fun d => d.2.token.isNone && d.2.tokenWaiters ≠ []).map fun d => .serialTokenGrant d.1

/-! ## Accesses -/

def accessEvent (s : State) : Option Instr :=
  ((mkeys s.flights).find? fun n => (replyStep s n).isSome).map (.remoteReply ·) <|>
  ((mkeys s.fabric.writes).find? fun n => (ackStep s n).isSome).map (.remoteWriteAck ·) <|>
  ((mkeys s.fabric.routes).find? fun n => (deadStep s n).isSome).map (.routeDownTimeout ·) <|>
  ((mkeys s.flights ++ s.hostWrites.map (·.flight)).find? fun n => (recallStep s n).isSome).map (.directoryRecall ·) <|>
  ((mkeys s.partitions).find? fun p => (recordStep s p).isSome).map (.pageFaultRecord ·)

def partialEvent (s : State) : Option Instr :=
  (s.partitions.find? fun p => partReady s p.1 && (p.2.partials.find? (partialTaken p.2)).isSome).map
    fun p => .nearCachePartial p.1

def opEvent (s : State) : Option Instr :=
  s.cores.findSome? fun c => c.2.ops.findSome? fun o =>
    if (opStep s c.1 o).isSome then some (.engineOperationComplete o.flight)
    else if (consumeStep s c.1 o).isSome then some (.mmaConsumedSignal o.flight)
    else none

/-! ## Crews, records and services -/

/-- The supervisor core has dealt with the entry at its ring head: its lanes wait no more (R249, R294, R361). -/
def noticeHandled (s : State) (core : Nat) : Bool :=
  let r := (coreOf s core).notices
  match mget r.slots (r.head % 64) with
  | none => false
  | some b =>
    let slot := bf b 1 1
    let ls := lanesOf (bf b 4 4)
    r.head ≠ r.tail && (match bf b 0 1 with
    | 1 => (parkedFind s core slot ls).isNone
    | 2 => ls.all fun l => (svcFind s false core slot l).isNone
    | _ => false)

def recordEvent (s : State) : Option Instr :=
  (s.crews.find? fun c => !c.2.ending && crewQuiet s c.1 c.2).map (fun c => .crewEnd c.1) <|>
  (s.saved.find? fun x => savedOver s x.1 x.2).map (fun x => .crewEnd (768 * 16 + x.1)) <|>
  (s.districts.find? fun d => canPost d.2).map (fun d => .completionRecordPost d.1) <|>
  (s.cores.find? fun c => c.2.notices.waiting ≠ [] && ringRoom c.2.notices).map (fun c => .notificationPost c.1) <|>
  ((mkeys s.cores).find? (actReady s)).map (.dependantRelease ·) <|>
  ((mkeys s.cores).find? (noticeHandled s)).map fun c =>
    .notificationRingHeadWrite c (BitVec.ofNat 64 ((coreOf s c).notices.head + 1))

/-- Lanes that wait on the supervisor core: the core, the wave slot they had or left, the lane. -/
def svcLanes (s : State) : List (Nat × Nat × Nat) :=
  (s.waves.flatMap fun e => ((List.range 32).filter (svcLane e.2 false)).map fun l => (wkCore e.1, wkSlot e.1 % 64, l)) ++
  (s.saved.flatMap fun x => x.2.waves.flatMap fun w =>
    ((List.range 32).filter (svcLane w.2 false)).map fun l => (x.2.core, (mget x.2.left w.1).getD 0, l))

/-- The services that the supervisor core answers itself; those of a plug-in come from outside (R363). -/
def svcEvent (s : State) : Option Instr :=
  (svcLanes s).findSome? fun e =>
    let (core, slot, l) := e
    match svcPending s core slot l with
    | none => none
    | some (n, _, d) =>
      if n = 0 then some (.svcEcho core slot l)
      else if n = 1 then some (.allocateBelfryTag core slot l)
      else if n = 2 then some (.freeBelfryTag core slot l)
      else if 256 ≤ n && n ≤ 65535 then (if hasPlugin s d then none else some (.pluginService core slot l 0))
      else some (.reservedService core slot l)

/-! ## Firmware -/

def scheduleEvent (s : State) : Option Instr :=
  ((mkeys s.crews).find? (evictNow s)).map (.crewEviction ·) <|>
  (s.partitions.find? fun p => p.2.swapping && !p.2.restarting && partRuns s p.1 && swapReady s p.1).map
    (fun p => .partitionSwap p.1) <|>
  ((List.range 8).find? fun p => passDue s p || passWorks s p).map (fun p => .placementPass p (ownInputs s p)) <|>
  (s.waves.find? fun e => 64 ≤ wkSlot e.1 && awayWakes e.2 && schedulerRuns s (partOfCore (wkCore e.1)) &&
    (restoreAway s (wkCore e.1) (wkSlot e.1)).isSome).map (fun e => .crewRestore (2 ^ 20 + e.1)) <|>
  (s.waves.find? fun e => evictsAlone s e.1 e.2).map fun e => .waveEviction (wkCore e.1) (wkSlot e.1)

def seqEvent (s : State) : Option Instr :=
  (mkeys s.seqs).findSome? fun k =>
    if k ≥ 1536 then none
    else if (stageAppend s k).isSome then some (.stageTaskAppend k)
    else if (seqStep s k).isSome then some (.evaluationComplete k)
    else if (frameStep s k).isSome then some (.frameChunkRelease k)
    else none

/-- The row of a submission entry by its op (R349). -/
def entryInstr (fn q op : Nat) : Instr :=
  match op with
  | 1 => .launch fn q
  | 2 => .signal fn q
  | 3 => .reload fn q
  | 4 => .flip fn q
  | 5 => .createDistrict fn q
  | 6 => .destroyDistrict fn q
  | _ => .entryNop fn q

def queueEvent (s : State) : Option Instr :=
  (mkeys s.queues).findSome? fun k =>
    let fn := k / 64
    let q := k % 64
    if (completionStep s k).isSome then some (.completionEntryWrite fn q)
    else if (roomStep s k).isSome then some (.launchAppendOnRoom fn q)
    else if (entryStep s k).isSome then (entryNow s k).map fun e => entryInstr fn q (eOp e)
    else if stopReady s k then some (.queueStopped fn q)
    else none

def functionEvent (s : State) : Option Instr :=
  (s.functions.find? fun f => 1 ≤ f.1 && f.1 ≤ 64 && !f.2.dirtyDone).map fun f => .dirtySwapDone f.1

def replayEvent (s : State) : Option Instr :=
  ((mkeys s.districts).find? fun d => (stallStep s d).isSome).map (.replayLogStallRelease ·) <|>
  ((mkeys s.districts).find? fun d => (resolveStep s d).isSome).map (.replayEventResolve ·)

/-- A sensor reads 110 °C or more (R403). -/
def tripEvent (s : State) : Option Instr :=
  if s.power.tripped then none
  else (s.power.temps.find? fun e => e.1 < 192 && decide (tripEighths ≤ e.2)).map fun e => .packageTrip e.1 e.2

/-! ## The next event -/

/-- Of the events that are enabled now, the one that comes first. -/
def nextEvent (s : State) : Option Instr :=
  flightEvent s <|> s.waves.findSome? (waveEvent s) <|> belfryEvent s <|> tokenEvent s <|> accessEvent s <|>
  partialEvent s <|> opEvent s <|> recordEvent s <|> svcEvent s <|> scheduleEvent s <|> seqEvent s <|> queueEvent s <|>
  functionEvent s <|> replayEvent s <|> tripEvent s <|> (if telemetryDue s then some .telemetryRefresh else none)

/-- A sample is taken at the end of its clock, when what issues in it has issued (R411). -/
def sampleEvent (s : State) : Option Instr :=
  (mkeys s.districts).findSome? fun k =>
    (((districtWaves s k).map fun e => wkCore e.1).eraseDups.find? fun c => sampleDue s c k).map fun c => .pcSample c k

end Sys2Proof.Machine
end

