-- ==== Sys2Proof/Machine/Step.lean ====
section
/-! DEFINITION. One step of the package: an input from outside that is due, else an event of the machine itself, else a
wave's selection or instruction, else the clock. -/

namespace Sys2Proof.Machine

/-- An event row: it carries no instruction word. -/
def isEvent (i : Instr) : Bool :=
  match i with
  | .unassignedOpcode _ => false
  | _ => (shape i).isNone

/-- The first input that is due. -/
def dueInput (s : State) : Option (Nat × Instr) := s.agenda.find? fun e => e.1 ≤ s.clock

/-- An instruction that issues for wave `w`: its own effect, and what issuing does around it. -/
def issueInstr (w : Wave) (i : Instr) (waits : Nat) (s : State) : Out :=
  match exec i s with
  | .next t => .next (endIssue w i waits s t)
  | .fault r => .fault r
  | .refused r => .refused r

/-- An instruction goes on in lanes that waited. -/
def againInstr (i : Instr) (s : State) : Out :=
  match exec i s with
  | .next t => .next (endAgain t)
  | .fault r => .fault r
  | .refused r => .refused r

/-- What a wave does that can act. -/
def waveStep (s : State) (k : Nat) (a : WaveAct) : Out :=
  match waveAt s (wkCore k) (wkSlot k) with
  | none => .next (tick s)
  | some w => match waveDistrict s w with
    | none => .next (tick s)
    | some d => match a with
      | .nothing => .next (tick s)
      | .select => exec (.waveSelection (wkCore k) (wkSlot k)) s
      | .settle => .next (setWave s (wkCore k) (wkSlot k) (settleWave s d w))
      | .report p ia f => .next (reportMiss s p d.ctx ia f)
      | .issue pc ls => match issueAt s (wkCore k) (wkSlot k) pc ls w d with
        | .run i waits t => issueInstr w i waits t
        | .done t => .next t

/-- What happens when no input is due and no event enabled. -/
def coreStep (s : State) : Out :=
  match pickWave s s.waves with
  | some (k, a, _) => waveStep s k a
  | none => match sampleEvent s with
    | some i => exec i s
    | none => .next (tick s)

def step (s : State) : Out :=
  match dueInput s with
  | some e =>
    let t := { s with agenda := s.agenda.erase e }
    if isEvent e.2 then exec e.2 t else .next t
  | none => match startAgain s with
    | some (i, t) => againInstr i t
    | none => match nextEvent s with
      | some i => exec i s
      | none => coreStep s

/-! ## The state whose next step runs a given instruction -/

/-- A district with one range: 64 KiB of the carve-out of partition 0 at address 0, executable. -/
def fetchDistrict : District :=
  { districtInit with ranges := [⟨0, 0x10000, 0x8000000000000, 0x1FFF, 0x10, true⟩] }

/-- A clause header for one instruction of the class that an opcode's top bits name (R148, R152). -/
def fetchHeader (w : Nat) : Nat := 2 ^ 28 + w / 2 ^ 61 % 8 * 2 ^ 25

/-- R14, R392: a state stands for what the loader and a placement do: partition 0 is ready, the word stands in a clause of
its own at address 0 of a district, and the one fibre of the one wave of a crew on core 0 has been selected there. -/
def State.withFetchWord (s : State) (_nbits w : Nat) : State :=
  let s := setReady (modPart s 0 fun p => { p with carve := 2 ^ 24 }) 8 true
  let code := writeBytes s.mem.code (codeKey s fetchDistrict 0) (toBytes 4 (fetchHeader w) ++ toBytes 10 w)
  let wave : Wave :=
    { waveInit with fibres := [(0, fibreInit)], sched := { waveInit.sched with run := some ⟨1, 0, 0, []⟩ } }
  { s with
    mem := { s.mem with code := code }
    districts := mset s.districts 0 fetchDistrict
    crews := mset s.crews 0 crewInit
    waves := mset s.waves 0 wave }

end Sys2Proof.Machine
end

