-- ==== Sys2Proof/Safety.lean ====
section
/-! DEFINITION. The terms in which claims are stated: what counts as a safe run, what the registers of a wave hold once
the results on their way have landed, and what an instruction's registers and results are. -/

namespace Sys2Proof.Machine

/-! ## Safe runs -/

/-- Every memory stands in its canonical form: places rise strictly, and no listed byte is what an unlisted place reads.
The operand buffer and the instruction caches list what has been written or loaded, whatever its value. -/
def State.canonical (s : State) : Prop :=
  Memory.wf s.mem.bytes = true ∧ Memory.wf s.mem.tiles = true ∧ rising s.mem.ob = true ∧ rising s.mem.code = true

/-- The step gives a next state. -/
def State.goesOn (s : State) : Prop := ∃ t, step s = .next t

/-! ## What an issuing instruction sees and writes -/

/-- The control part of an encoded instruction. -/
def controlOf (i : Instr) : Ctl :=
  match shape i with
  | some sh => sh.ctl
  | none => ⟨0, 0, 0, 0, false, 7⟩

/-- The wave as it stands once every fixed-latency result on its way has landed (R305). -/
def settled (w : Wave) : Wave := landPend w fun _ => true

/-- The number that the registers of field `e` hold for lane `l` of window base `win` in a wave, lowest register first. -/
def fieldValue (w : Wave) (win l : Nat) (e : BitVec 8) (regs : Nat) : Nat :=
  ofWords ((targetsOf l win e regs).map (readTarget w))

/-- Instruction `i` issues for the wave `w`: it is well formed, none of its lanes goes on after a wait, the wave has an
allotment of R13, and in every active lane the registers it names lie in that allotment. -/
structure Issues (i : Instr) (s : State) (w : Wave) : Prop where
  formed : i.wellFormed = true
  encoded : (shape i).isSome = true
  wave : waveAt s s.cur.core s.cur.slot = some w
  first : s.cur.again = none
  allot : w.id.allot ≤ 512
  window : ∀ sh, shape i = some sh → ∀ l ∈ (viewOf sh.ctl s).act,
    windowOk sh w.id.allot ((viewOf sh.ctl s).win l) ((viewOf sh.ctl s).win l) = true

/-- Lane `l` is one whose result reaches the destination field `e`: every active lane for a vector register, the lowest
for a scalar or a mask (R156), none for `zero`. -/
def reaches (v : View) (e : BitVec 8) (l : Nat) : Prop :=
  l ∈ v.act ∧ (regClass e = .vec ∨ ((regClass e = .scalar ∨ regClass e = .mask) ∧ v.act.head? = some l))

/-- A register of the wave that field `e` of `regs` registers names in some active lane. -/
def named (v : View) (e : BitVec 8) (regs : Nat) (x : Target) : Prop :=
  ∃ l ∈ v.act, x ∈ targetsOf l (v.win l) e regs

/-- A register, mask or predicate that a wave can have: fewer than 512 vector registers per lane (R13), and not pt. -/
def Target.plain : Target → Prop
  | .v _ g => g < 512
  | .p _ i => i < 7
  | _ => True

/-- Between the two waves lies only what the issue of a fixed-latency instruction without control transfer changes
beside its destinations: results under way and FPSTAT. -/
structure SameButResults (w w' : Wave) : Prop where
  id : w'.id = w.id
  file : w'.regs.v = w.regs.v ∧ w'.regs.s = w.regs.s ∧ w'.regs.k = w.regs.k ∧ w'.regs.check = w.regs.check
  spans : w'.spans = w.spans
  tags : w'.sched.tags = w.sched.tags
  fibres : w'.fibres = w.fibres
  window : w'.window = w.window ∧ w'.puts = w.puts
  ended : w'.ended = w.ended

/-- A fixed-latency instruction whose only results are the `regs` registers of field `e`, with `value l` in lane `l`, and the
exception flags `flags`: it gives a next state in which, once everything under way has landed, those registers hold
these values and every other register, mask and predicate what it would have held; nothing else changes. -/
def Gives (i : Instr) (e : BitVec 8) (regs : Nat) (value : Nat → Nat) (flags : W32) (s : State) : Prop :=
  ∀ w, Issues i s w → ∃ w', exec i s = .next (setWave s s.cur.core s.cur.slot w') ∧ SameButResults w w' ∧
    w'.lanes = w.lanes ∧ w'.regs.fpstat = w.regs.fpstat ||| flags ∧
    (∀ l, reaches (viewOf (controlOf i) s) e l →
      fieldValue (settled w') ((viewOf (controlOf i) s).win l) l e regs = value l) ∧
    ∀ x, x.plain → ¬ named (viewOf (controlOf i) s) e regs x → readTarget (settled w') x = readTarget (settled w) x

/-- The same for an instruction whose only results are the predicates `ps l` of each active lane, later ones last. -/
def GivesPreds (i : Instr) (ps : Nat → List (Nat × Bool)) (flags : W32) (s : State) : Prop :=
  ∀ w, Issues i s w → ∃ w', exec i s = .next (setWave s s.cur.core s.cur.slot w') ∧ SameButResults w w' ∧
    w'.lanes = w.lanes ∧ w'.regs.fpstat = w.regs.fpstat ||| flags ∧
    (∀ l ∈ (viewOf (controlOf i) s).act, ∀ p b, (p, b) ∈ ps l → p < 7 →
      readTarget (settled w') (.p l p) = if b then 1 else 0) ∧
    ∀ x, x.plain → (∀ l ∈ (viewOf (controlOf i) s).act, ∀ p b, (p, b) ∈ ps l → x ≠ .p l p) →
      readTarget (settled w') x = readTarget (settled w) x

/-- A variable-latency instruction of wave `w` that has been performed: its flight, which stands under the next operation
number, is due after a free delay, and the wave counts it under its tag (R310). -/
def inFlight (i : Instr) (s : State) (w : Wave) (fl : Flight) : State :=
  { setWave s s.cur.core s.cur.slot (tagUp w (controlOf i).alloc.toNat) with
    flights := mset s.flights s.serial fl, serial := s.serial + 1, delays := s.delays.tail }

/-- A variable-latency instruction whose only results are the `regs` registers of field `e`, with `value l` in lane `l`, and
the exception flags `flags`: it gives a next state in which its flight holds them, to land when it completes, and nothing
else changes. `floor` is the least number of clocks that it takes. -/
def GivesLater (i : Instr) (floor : Nat) (e : BitVec 8) (regs : Nat) (value : Nat → Nat) (flags : W32) (s : State) : Prop :=
  ∀ w, Issues i s w → ∃ fl, exec i s = .next (inFlight i s w fl) ∧
    fl.core = s.cur.core ∧ fl.slot = s.cur.slot ∧ fl.tag = (controlOf i).alloc.toNat ∧ fl.waits = 0 ∧ fl.mask = none ∧
    s.clock + floor ≤ fl.due ∧ fl.flags = flags ∧ fl.wake = 0 ∧
    (∀ l, reaches (viewOf (controlOf i) s) e l →
      fieldValue (landAll w fl.writes) ((viewOf (controlOf i) s).win l) l e regs = value l) ∧
    ∀ x, x.plain → ¬ named (viewOf (controlOf i) s) e regs x → readTarget (landAll w fl.writes) x = readTarget w x

end Sys2Proof.Machine
end

