-- ==== Sys2Proof/Certificates/Slice0/Obligations.lean ====
section
/-! DEFINITION. The statements about the model: what the numbered rules of the spec say an instruction, an event or the machine does. -/

namespace Sys2Proof.Claims
open Sys2Proof.Machine

/-! ### Words and operands -/

/-- The operand of `n` registers that field `e` names in lane `l`, as a word. -/
def opdW (h : Ctl) (s : State) (l : Nat) (e : BitVec 8) (n : Nat) : BitVec (32 * n) :=
  BitVec.ofNat _ ((viewOf h s).opd l e n)

/-- The registers that the type of a G-format instruction takes, and whether it is signed. -/
def gN (f : GF) : Nat := tyRegs (tyOf f.dtype)
def gSigned (f : GF) : Bool := tySigned (tyOf f.dtype)

/-- A word read as an exact integer, signed or not. -/
def exact (signed : Bool) {w : Nat} (x : BitVec w) : Int := if signed then x.toInt else x.toNat

/-- The nearest integer that a word of `w` bits, signed or not, holds. -/
def clampTo (signed : Bool) (w : Nat) (x : Int) : Int :=
  let lo : Int := if signed then -((2 ^ (w - 1) : Nat) : Int) else 0
  let hi : Int := if signed then ((2 ^ (w - 1) : Nat) : Int) - 1 else ((2 ^ w : Nat) : Int) - 1
  max lo (min hi x)

/-- The operands a, b, c of a G-format instruction as words of its type's width. -/
def gW (h : Ctl) (f : GF) (s : State) (l : Nat) : BitVec (32 * gN f) × BitVec (32 * gN f) × BitVec (32 * gN f) :=
  (opdW h s l f.a (gN f), opdW h s l f.b (gN f), opdW h s l f.c (gN f))

/-- A G-format instruction gives, in each lane, a word computed from its operands, and no flag. -/
def gGives (mk : Ctl → GF → Instr) (h : Ctl) (f : GF) (s : State)
    (g : BitVec (32 * gN f) → BitVec (32 * gN f) → BitVec (32 * gN f) → BitVec (32 * gN f)) : Prop :=
  Gives (mk h f) f.dst (gN f) (fun l => (g (gW h f s l).1 (gW h f s l).2.1 (gW h f s l).2.2).toNat) 0 s

/-- The signed forms of mulhi. -/
def high (signed : Bool) {w : Nat} (a b : BitVec w) : BitVec w :=
  if signed then (a.signExtend (2 * w) * b.signExtend (2 * w)).extractLsb' w w
  else (a.setWidth (2 * w) * b.setWidth (2 * w)).extractLsb' w w

/-- The order of two words, signed or not. -/
def le (signed : Bool) {w : Nat} (a b : BitVec w) : Bool := if signed then a.sle b else a.ule b
def lt (signed : Bool) {w : Nat} (a b : BitVec w) : Bool := if signed then a.slt b else a.ult b

/-- The immediate of a format-GI instruction of width 32 or 64 (R159). -/
def immW (f : GIF) (n : Nat) : BitVec (32 * n) := f.imm.signExtend _

end Sys2Proof.Claims

open Sys2Proof Sys2Proof.Machine Sys2Proof.Claims

/-- R174, R184. `mov` copies its source. `mov` with an immediate writes it: 32 bits, sign-extended to a pair with isel 1, as
an f32 pattern with isel 2. `sel` takes its first source where the named predicate holds and its second where not. -/
def Obligations.MovesAndSelect : Prop :=
  (∀ h f s, gGives .mov h f s fun a _ _ => a) ∧
  (∀ h (f : GIF) s, f.isel = 0 ∨ f.isel = 2 → Gives (.movImm h f) f.dst 1 (fun _ => f.imm.toNat) 0 s) ∧
  (∀ h (f : GIF) s, f.isel = 1 → Gives (.movImm h f) f.dst 2 (fun _ => (f.imm.signExtend 64).toNat) 0 s) ∧
  (∀ h (f : GIF) s, f.isel = 3 →
    Gives (.movImm h f) f.dst 2 (fun _ => (fpCvt .f32 .f64 .rne false f.imm.toNat).1) 0 s) ∧
  ∀ h (f : GF) s, Gives (.sel h f) f.dst (gN f) (fun l =>
    if (viewOf h s).pred l (f.sub.toNat % 8) = !bit f.sub.toNat 3 then (gW h f s l).1.toNat else (gW h f s l).2.1.toNat) 0 s

/-- R177. Integer arithmetic of fixed latency without `.sat`, modulo 2^w. -/
def Sys2Proof.Claims.integerArithmeticHold : Prop :=
  ∀ h (f : GF) s, tyInt (tyOf f.dtype) = true → f.sat = false →
    gGives .add h f s (fun a b _ => a + b) ∧ gGives .sub h f s (fun a b _ => a - b) ∧
    gGives .mul h f s (fun a b _ => a * b) ∧ gGives .mad h f s (fun a b c => a * b + c) ∧
    gGives .mulhi h f s (fun a b _ => high (gSigned f) a b) ∧
    gGives .min h f s (fun a b _ => if le (gSigned f) a b then a else b) ∧
    gGives .max h f s (fun a b _ => if le (gSigned f) a b then b else a) ∧
    gGives .abs h f s (fun a _ _ => if gSigned f && a.msb then -a else a) ∧
    gGives .neg h f s (fun a _ _ => -a)

/-- R177. With `.sat` the exact result is clamped to the bounds of the type. -/
def Sys2Proof.Claims.integerSaturationHold : Prop :=
  ∀ h (f : GF) s, tyInt (tyOf f.dtype) = true → f.sat = true →
    let clamp := fun (x : Int) => BitVec.ofInt (32 * gN f) (clampTo (gSigned f) (32 * gN f) x)
    let e := fun (x : BitVec (32 * gN f)) => exact (gSigned f) x
    gGives .add h f s (fun a b _ => clamp (e a + e b)) ∧ gGives .sub h f s (fun a b _ => clamp (e a - e b)) ∧
    gGives .mul h f s (fun a b _ => clamp (e a * e b)) ∧
    gGives .mad h f s (fun a b c => clamp (e a * e b + e c)) ∧
    gGives .abs h f s (fun a _ _ => clamp (e a).natAbs) ∧ gGives .neg h f s (fun a _ _ => clamp (-e a))

/-- R176, R177. The immediate forms of integer `add` and `mul`, at 32 bits (isel 0) and at 64 (isel 1). -/
def Sys2Proof.Claims.immediateArithmeticHold : Prop :=
  ∀ h (f : GIF) s n, (n = 1 ∧ f.isel = 0) ∨ (n = 2 ∧ f.isel = 1) →
    Gives (.addImm h f) f.dst n (fun l => (opdW h s l f.a n + immW f n).toNat) 0 s ∧
    Gives (.mulImm h f) f.dst n (fun l => (opdW h s l f.a n * immW f n).toNat) 0 s

/-- R177. Integer division, by zero and of the most negative number too, and its remainder. They complete later. -/
def Sys2Proof.Claims.integerDivisionHold : Prop :=
  ∀ h (f : GF) s, tyInt (tyOf f.dtype) = true →
    (f.sat = false → GivesLater (.div h f) 1 f.dst (gN f) (fun l =>
      let a := (gW h f s l).1; let b := (gW h f s l).2.1
      (if b = 0 then BitVec.allOnes _ else if gSigned f then a.sdiv b else a.udiv b).toNat) 0 s) ∧
    (f.sat = true → GivesLater (.div h f) 1 f.dst (gN f) (fun l =>
      let a := (gW h f s l).1; let b := (gW h f s l).2.1
      (if b = 0 then BitVec.allOnes _
       else if gSigned f && a == BitVec.intMin _ && b == BitVec.allOnes _ then BitVec.intMax _
       else if gSigned f then a.sdiv b else a.udiv b).toNat) 0 s) ∧
    GivesLater (.rem h f) 1 f.dst (gN f) (fun l =>
      let a := (gW h f s l).1; let b := (gW h f s l).2.1
      (if b = 0 then a else if gSigned f then a.srem b else a.umod b).toNat) 0 s

/-- R179. Logic and shifts, in their register and immediate forms. -/
def Sys2Proof.Claims.logicAndShiftsHold : Prop :=
  (∀ h (f : GF) s, gGives .and h f s (fun a b _ => a &&& b) ∧ gGives .or h f s (fun a b _ => a ||| b) ∧
    gGives .xor h f s (fun a b _ => a ^^^ b) ∧ gGives .not h f s (fun a _ _ => ~~~ a)) ∧
  (∀ h (f : GF) s,
    let n := fun l => (opdW h s l f.b 1).toNat
    Gives (.shl h f) f.dst (gN f) (fun l => ((gW h f s l).1 <<< n l).toNat) 0 s ∧
    Gives (.shr h f) f.dst (gN f) (fun l => ((gW h f s l).1 >>> n l).toNat) 0 s ∧
    Gives (.sra h f) f.dst (gN f) (fun l => ((gW h f s l).1.sshiftRight (n l)).toNat) 0 s ∧
    Gives (.rot h f) f.dst (gN f) (fun l => ((gW h f s l).1.rotateLeft (n l)).toNat) 0 s) ∧
  ∀ h (f : GIF) s n, (n = 1 ∧ f.isel = 0) ∨ (n = 2 ∧ f.isel = 1) →
    let a := fun l => opdW h s l f.a n
    Gives (.andImm h f) f.dst n (fun l => (a l &&& immW f n).toNat) 0 s ∧
    Gives (.orImm h f) f.dst n (fun l => (a l ||| immW f n).toNat) 0 s ∧
    Gives (.xorImm h f) f.dst n (fun l => (a l ^^^ immW f n).toNat) 0 s ∧
    Gives (.shlImm h f) f.dst n (fun l => (a l <<< f.imm.toNat).toNat) 0 s ∧
    Gives (.shrImm h f) f.dst n (fun l => (a l >>> f.imm.toNat).toNat) 0 s ∧
    Gives (.sraImm h f) f.dst n (fun l => ((a l).sshiftRight f.imm.toNat).toNat) 0 s

/-- R178, R179. Counts, bit reversal and address formation. -/
def Sys2Proof.Claims.countsHold : Prop :=
  (∀ h (f : GF) s,
    let w := 32 * gN f
    let a := fun l => (gW h f s l).1
    Gives (.popc h f) f.dst 1 (fun l => ((List.range w).filter (a l).getLsbD).length) 0 s ∧
    Gives (.clz h f) f.dst 1 (fun l => ((List.range w).find? fun k => (a l).getLsbD (w - 1 - k)).getD w) 0 s ∧
    Gives (.ctz h f) f.dst 1 (fun l => ((List.range w).find? (a l).getLsbD).getD w) 0 s ∧
    Gives (.brev h f) f.dst (gN f) (fun l => (a l).reverse.toNat) 0 s) ∧
  ∀ h (f : GF) s, Gives (.lea h f) f.dst 2 (fun l =>
    let b := opdW h s l f.b 1
    let x : BitVec 64 := if tyOf f.stype = .s32 then b.signExtend 64 else b.setWidth 64
    (opdW h s l f.a 2 + x <<< (f.sub.toNat % 8)).toNat) 0 s

/-- R180. `bfe` extracts a field and `bfi` inserts one, at the position and of the length that the position word names. -/
def Obligations.BitFields : Prop :=
  ∀ h (f : GF) s,
    let w := 32 * gN f
    let a := fun l => (gW h f s l).1
    Gives (.bfe h f) f.dst (gN f) (fun l =>
      let p := (opdW h s l f.b 1).toNat % 256
      let k := min ((opdW h s l f.b 1).toNat / 256 % 256) w
      (if gSigned f then (((a l).sshiftRight p).setWidth k).signExtend w else (((a l) >>> p).setWidth k).setWidth w).toNat) 0 s ∧
    Gives (.bfi h f) f.dst (gN f) (fun l =>
      let p := (opdW h s l f.c 1).toNat % 256
      let k := (opdW h s l f.c 1).toNat / 256 % 256
      let m := BitVec.ofNat w (2 ^ k - 1) <<< p
      (((gW h f s l).2.1 &&& ~~~ m) ||| ((a l <<< p) &&& m)).toNat) 0 s

namespace Sys2Proof.Claims
open Sys2Proof.Machine

/-- Control part of an unguarded instruction with tag `t`. -/
def plainCtl (t : BitVec 3) : Ctl := ⟨0, 0, t, 0, false, 7⟩

/-- The trap registers of a fault `f` at `pc` in a fibre (R293, R295, R360). -/
def trapped (pc : W64) (fb : Fibre) (f : FaultRec) (x : Lane) : Lane :=
  { x with
    trap := ⟨pc, BitVec.ofNat 64 f.addr, BitVec.ofNat 32 (f.info * 2 ^ 16 + f.access * 2 ^ 12 + f.reason * 2 ^ 6 + f.cause),
      fb.preds.setWidth 32 ||| 0x80#32, BitVec.ofNat 32 fb.win⟩
    svc := { x.svc with resume := pc } }

/-- In wave `w'` the lanes of `fs` have parked at `pc`, and the others stand as in `w`. -/
def parkedAt (w w' : Wave) (pc : W64) (fs : List (Nat × FaultRec)) : Prop :=
  (∀ l f fb, (l, f) ∈ fs → mget w.fibres l = some fb →
    mget w'.fibres l = some { fb with pc := pc, wait := .parked, fell := fb.fell && fb.pc == pc } ∧
    laneAt w' l = trapped pc fb f (laneAt w l)) ∧
  (∀ l, (∀ f, (l, f) ∉ fs) → mget w'.fibres l = mget w.fibres l ∧ laneAt w' l = laneAt w l) ∧
  w' = { w with fibres := w'.fibres, lanes := w'.lanes }

/-- The notification of a fault: kind 1, the wave slot, the lanes, the PC (R361). -/
def noticeOf (slot : Nat) (ls : List Nat) (pc : Nat) : List Byte :=
  toBytes 1 1 ++ toBytes 1 slot ++ toBytes 2 0 ++ toBytes 4 (maskOf ls) ++ toBytes 8 pc

/-- In every lane that faults, instruction `i` parks the wave with `f l` at its own PC: no other effect (R293, R296). -/
def ParksAll (i : Instr) (f : Nat → FaultRec) (s : State) : Prop :=
  ∀ w, waveAt s s.cur.core s.cur.slot = some w → (viewOf (controlOf i) s).act ≠ [] →
    let fs := (viewOf (controlOf i) s).act.map fun l => (l, f l)
    let pc := s.cur.clause + BitVec.ofNat 64 s.cur.index
    ∃ t w', exec i s = .next t ∧ waveAt t s.cur.core s.cur.slot = some w' ∧ parkedAt w w' pc fs ∧ t.mem = s.mem ∧
      t.crews = s.crews ∧ (coreOf t s.cur.core).notices =
        ringPost (coreOf s s.cur.core).notices (noticeOf s.cur.slot (viewOf (controlOf i) s).act pc.toNat)

end Sys2Proof.Claims

open Sys2Proof Sys2Proof.Machine Sys2Proof.Claims

/-- R151, R157. The worked words of the spec decode to the instructions they stand for. -/
def Obligations.DecodesWords : Prop :=
  decode 1 false 0 0x0040201C0B13FC010100#80 = .ok (.ld (plainCtl 1) ⟨2, 0xC4, 0xFF, 0x40, 2, 0, 0, 0⟩) ∧
  decode 0 false 0 0x0040189C1BFFFFFC4E58#80 = .ok (.xalim (plainCtl 1) ⟨6, 0xFF, 0xFF, 0xFF, 0, 2, 3, 4, 11, 0⟩) ∧
  decode 4 false 0 0x0040801C0FFC00000048#80 = .ok (.mfsr (plainCtl 1) ⟨3, 0xFF, 0x12, 0⟩) ∧
  decode 2 false 0 0x00C0409C801017181440#80 = .ok (.mma (plainCtl 3) ⟨2, 0, 4, 5, 0xC6, 0, 1, 4, 4, 0⟩) ∧
  decode 3 true 0x30 0x0000609C000BFC00000C#80 = .ok (.call (plainCtl 0) ⟨0, 2, 0xFF, 3, 0⟩) ∧
  decode 3 false 0x30 0x0000609C000BFC00000C#80 = .illegal 7 ∧
  decode 2 true 0x30 0x0000609C000BFC00000C#80 = .illegal 3

/-- R151, R157. Every well-formed instruction that has a word is what the decoder reads from it, in a clause of its class. -/
def Obligations.DecodeOfEncode : Prop :=
  ∀ i c, i.wellFormed = true → (shape i).isSome = true → literalOk c i = true →
    ∃ w, encode i = some w ∧ decode ((opcodeOf w).toNat / 128) true c w = .ok i ∧ parse w = i

/-- R151, R157, R168. A word that decodes is the word of its instruction, whose opcode lies in the clause's class; a word with
an unassigned opcode is refused in every class with reason 3. -/
def Obligations.EncodeOfDecode : Prop :=
  (∀ cls last c w i, decode cls last c w = .ok i →
    encode i = some w ∧ i.wellFormed = true ∧ (opcodeOf w).toNat / 128 = cls) ∧
  ∀ cls last c w u, parse w = .unassignedOpcode u → u = w ∧ decode cls last c w = .illegal 3

/-- R147, R151, R164, R304, R313, R416. Where the wave picked stands at a word that decodes and no hazard is found, a step is the
instruction's own effect between the bookkeeping of its issue; where the word is refused or a hazard found, the convoy parks.
What waits to go on with an instruction goes first; a `ppt` whose wave owes inserted delay is held for it (R416). -/
def Obligations.StepRunsInstruction : Prop :=
  ∀ s k pc ls n w d h x, dueInput s = none → startAgain s = none → nextEvent s = none →
    pickWave s s.waves = some (k, .issue pc ls, n) → waveAt s (wkCore k) (wkSlot k) = some w →
    waveDistrict s w = some d → fetchWord s d pc = .word h x →
    (∀ i sh, decode h.cls (pc % 16 + 1 = h.count) (pc / 16 * 16) x = .ok i → shape i = some sh →
      let ws := waitsAt h (pc % 16) x
      (hazard w i sh ws (pc % 16) ls = true → step s = .next (convoyFault s (wkCore k) (wkSlot k) pc ls { cause := 21 })) ∧
      (hazard w i sh ws (pc % 16) ls = false → holdsPpt i d w = true →
        step s = .next (setWave s (wkCore k) (wkSlot k) (payDelay s.clock d w))) ∧
      (hazard w i sh ws (pc % 16) ls = false → holdsPpt i d w = false →
        let b := beginIssue s (wkCore k) (wkSlot k) pc h i sh ws ls d
        (∀ t, exec i b = .next t → step s = .next (endIssue w i ws b t) ∧
          endIssue w i ws b t = { t with cur := noIssue, waves := (endIssue w i ws b t).waves }) ∧
        b.mem = s.mem ∧ b.crews = s.crews ∧ b.districts = s.districts ∧ b.flights = s.flights ∧ b.clock = s.clock ∧
        b.cur.again = none ∧ b.cur.core = wkCore k ∧ b.cur.slot = wkSlot k ∧
        b.cur.clause = BitVec.ofNat 64 (pc / 16 * 16) ∧ b.cur.index = pc % 16)) ∧
    ∀ r, decode h.cls (pc % 16 + 1 = h.count) (pc / 16 * 16) x = .illegal r →
      step s = .next (convoyFault s (wkCore k) (wkSlot k) pc ls (faultIllegal r))

/-- An input from outside that is due comes first, then lanes that go on with their instruction, then an event of the machine,
then a wave, then the clock: the model's order (log entry 2). With nothing to do the clock advances by one, and memory
stands. -/
def Obligations.StepOrder : Prop :=
  (∀ s e, dueInput s = some e → isEvent e.2 = true → step s = exec e.2 { s with agenda := s.agenda.erase e }) ∧
  (∀ s i b t, dueInput s = none → startAgain s = some (i, b) → exec i b = .next t → step s = .next { t with cur := noIssue }) ∧
  (∀ s i, dueInput s = none → startAgain s = none → nextEvent s = some i → step s = exec i s) ∧
  (∀ s k n w d, dueInput s = none → startAgain s = none → nextEvent s = none → pickWave s s.waves = some (k, .select, n) →
    waveAt s (wkCore k) (wkSlot k) = some w → waveDistrict s w = some d →
    step s = exec (.waveSelection (wkCore k) (wkSlot k)) s) ∧
  ∀ s, dueInput s = none → startAgain s = none → nextEvent s = none → pickWave s s.waves = none → sampleEvent s = none →
    ∃ t, step s = .next t ∧ t.clock = s.clock + 1 ∧
      t = { s with clock := s.clock + 1, waves := t.waves, power := { s.power with arrayClocks := t.power.arrayClocks } } ∧
      mkeys t.waves = mkeys s.waves

/-- R14, R392, R397, R401, R432. After reset no crew is placed, no partition is ready, the node number is not set, the n of the power limit is 48, and every memory stands in its canonical form. -/
def Obligations.ResetState : Prop :=
  State.reset.canonical ∧ State.reset.waves = [] ∧ State.reset.crews = [] ∧ (∀ p, partReady State.reset p = false) ∧
    State.reset.fabric.node = 0x1FFF ∧ State.reset.power.limit = 48 ∧ State.reset.clock = 0 ∧
    State.reset.goesOn

/-- Every step keeps the canonical form of every memory. -/
def Obligations.CanonicalKept : Prop := ∀ s t, s.canonical → step s = .next t → t.canonical

/-- R154, R155, R156. What a register field reads in a lane: a vector register of the lane's window, a scalar, a mask, a special
value, zero; of several registers the first is the lowest word. An instruction that issues takes its lanes, core and crew
slot from the wave. -/
def Sys2Proof.Claims.operandFormsHold : Prop :=
  (∀ h s w, s.cur.again = none → waveAt s s.cur.core s.cur.slot = some w →
    let v := viewOf h s
    v.idCore = s.cur.core ∧ v.idCrew = w.id.crew ∧ (∀ m, m < 32 → (v.active.testBit m = true ↔ m ∈ v.act)) ∧
      ∀ m, m < 32 → v.live.testBit m = (mget w.fibres m).isSome) ∧
  ∀ (v : View) l,
    (∀ e : BitVec 8, e.toNat < 0xC0 → v.opd l e 1 = (v.reg (.v l (v.win l + e.toNat))).toNat) ∧
    (∀ e : BitVec 8, 0xC0 ≤ e.toNat → e.toNat < 0xE0 → v.opd l e 1 = (v.reg (.s (e.toNat - 0xC0))).toNat) ∧
    (∀ e : BitVec 8, 0xE0 ≤ e.toNat → e.toNat < 0xEC → v.opd l e 1 = (v.reg (.k (e.toNat - 0xE0))).toNat) ∧
    (∀ e : BitVec 8, e.toNat < 0xC0 → v.opd l e 2 =
      (v.reg (.v l (v.win l + e.toNat))).toNat + 2 ^ 32 * (v.reg (.v l (v.win l + e.toNat + 1))).toNat) ∧
    (∀ n, v.opd l 0xFF n = 0) ∧
    v.opd l 0xEC 1 = l % 2 ^ 32 ∧ v.opd l 0xED 1 = v.wave.id.index % 2 ^ 32 ∧ v.opd l 0xEE 1 = v.idCrew % 16 ∧
    v.opd l 0xEF 1 = v.crew.rank % 2 ^ 32 ∧ v.opd l 0xF0 1 = v.idCore % 2 ^ 32 ∧ v.opd l 0xF1 1 = v.idCore / 4 % 2 ^ 32 ∧
    v.opd l 0xF2 1 = v.crew.task.x.toNat ∧ v.opd l 0xF3 1 = v.crew.task.y.toNat ∧ v.opd l 0xF4 1 = v.crew.task.z.toNat ∧
    v.opd l 0xF5 1 = v.crew.task.depth % 2 ^ 32 ∧ v.opd l 0xFA 1 = (v.fibre l).win % 2 ^ 32 ∧
    v.opd l 0xFB 1 = v.node % 2 ^ 32 ∧ v.opd l 0xFC 1 = v.cycles % 2 ^ 32 ∧ v.opd l 0xFD 1 = v.idCore / 96 % 2 ^ 32 ∧
    v.opd l 0xF8 1 = (2 ^ l - 1) % 2 ^ 32 ∧
    v.opd l 0xF6 1 = v.active % 2 ^ 32 ∧ v.opd l 0xF7 1 = v.live % 2 ^ 32 ∧
    v.opd l 0xF9 1 = (v.fibre l).preds.toNat % 128 + 128

/-- R305, R306, R307, R308. A register source comes from the register file unless pd names the instruction that left it on the
bypass and the result stands there, for three clocks: then the latest such result is read. -/
def Sys2Proof.Claims.bypassReadsHold : Prop :=
  ∀ (v : View) t,
    (v.producer = none → v.reg t = readTarget v.wave t) ∧
    (∀ p r, v.producer = some p → v.wave.sched.run = some r → (∀ b ∈ r.bypass, b.slot = p → b.target = t → v.clock < b.ready) →
      v.reg t = readTarget v.wave t) ∧
    ∀ p r bs b, v.producer = some p → v.wave.sched.run = some r → r.bypass = bs ++ [b] → b.slot = p → b.target = t →
      (b.ready ≤ v.clock → v.clock < b.ready + 3 → v.reg t = b.value) ∧
      (b.ready + 3 ≤ v.clock → v.reg t = readTarget v.wave t)

/-- R293, R295. The lanes of one instruction that fault park as one sub-wave: each saves its PC, the faulting address, the cause
word, its predicates with bit 7 set and its window base, and waits; no other lane changes; one notification goes to the
supervisor core. Lanes: each at most once. -/
def Sys2Proof.Claims.faultsParkHold : Prop :=
  ∀ s core slot pc fs w, waveAt s core slot = some w → fs ≠ [] → (fs.map Prod.fst).Nodup →
    ∃ w', waveAt (takeFaults s core slot pc fs) core slot = some w' ∧ parkedAt w w' pc fs ∧
      (coreOf (takeFaults s core slot pc fs) core).notices =
        ringPost (coreOf s core).notices (noticeOf slot (fs.map Prod.fst) pc.toNat) ∧
      (takeFaults s core slot pc fs).mem = s.mem ∧ (takeFaults s core slot pc fs).crews = s.crews ∧
      ∀ c t, wkey c t ≠ wkey core slot → waveAt (takeFaults s core slot pc fs) c t = waveAt s c t

/-- R13, R162, R164, R168, R193, R292. Faults that an instruction's own operands raise: a word of an unassigned opcode
parks the whole convoy with reason 3, whatever the guard; a jump or return to an address that is no clause start has reason 8;
a return below window base 0 and a trap return to a bad window have cause 2, and so has any of these with a register outside
the allotment. -/
def Sys2Proof.Claims.instructionFaultsHold : Prop :=
  (∀ u s w, waveAt s s.cur.core s.cur.slot = some w →
    let ls := (lanesOf s.cur.lanes.toNat).filter fun l => (mget w.fibres l).isSome
    ls ≠ [] → ∃ t w', exec (.unassignedOpcode u) s = .next t ∧ waveAt t s.cur.core s.cur.slot = some w' ∧
      parkedAt w w' (s.cur.clause + BitVec.ofNat 64 s.cur.index) (ls.map fun l => (l, { cause := 1, reason := 3 })) ∧
      t.mem = s.mem) ∧
  (∀ h (f : GF) s w, Issues (.jmp h f) s w → (∀ l ∈ (viewOf h s).act, (viewOf h s).opd l f.a 2 % 16 ≠ 0) →
    ParksAll (.jmp h f) (fun _ => { cause := 1, reason := 8 }) s) ∧
  (∀ h (f : GF) s w, Issues (.ret h f) s w → (∀ l ∈ (viewOf h s).act, (viewOf h s).win l < 8 * f.sub.toNat) →
    ParksAll (.ret h f) (fun _ => { cause := 2 }) s) ∧
  (∀ h (f : GF) s, (∀ l ∈ (viewOf h s).act, (laneAt (viewOf h s).wave l).trap.win.toNat % 8 ≠ 0) →
    ParksAll (.sret h f) (fun _ => { cause := 2 }) s) ∧
  ∀ h (f : GF) s w, waveAt s s.cur.core s.cur.slot = some w → (.mov h f : Instr).wellFormed = true →
    (∀ sh, shape (.mov h f) = some sh → ∀ l ∈ (viewOf h s).act,
      windowOk sh w.id.allot ((viewOf h s).win l) ((viewOf h s).win l) = false) →
    ParksAll (.mov h f) (fun _ => { cause := 2 }) s

namespace Sys2Proof.Claims

/-- The six integer conditions of R160 on words. -/
def holds (c : Nat) (signed : Bool) {w : Nat} (a b : BitVec w) : Bool :=
  match c with
  | 0 => a == b
  | 1 => a != b
  | 2 => lt signed a b
  | 3 => le signed a b
  | 4 => lt signed b a
  | _ => le signed b a

/-- The two predicates that a P-format instruction writes for the result `x` in lane `l` (R160, R181). -/
def twoPreds (h : Ctl) (f : PF) (s : State) (l : Nat) (x : Bool) : List (Nat × Bool) :=
  let c := xor ((viewOf h s).pred l f.pcomb.toNat) f.ncomb
  let y := if f.comb = 0 then x else if f.comb = 1 then x && c else if f.comb = 2 then x || c else xor x c
  [(f.pdst.toNat, y), (f.pdst2.toNat, !y)]

/-- A predicate as a register field names it: bits 2:0 the predicate, bit 3 negates (R182). -/
def predNamed (h : Ctl) (s : State) (l : Nat) (e : BitVec 8) : Bool :=
  xor ((viewOf h s).pred l (e.toNat % 8)) (e.getLsbD 3)

/-- The value of the other lane `m` under R172: 0 for a vector register beyond the allotment. -/
def fromLane (h : Ctl) (s : State) (m : Nat) (e : BitVec 8) (n : Nat) : Nat := (viewOf h s).other m e n

/-- The exact combination of R188 over a list of words of `w` bits, without `.sat`; `none` for the empty list. -/
def combineAll (op : Nat) (signed : Bool) {w : Nat} : List (BitVec w) → Option (BitVec w)
  | [] => none
  | x :: xs => some (xs.foldl (fun y z =>
      match op with
      | 0 => y + z
      | 1 => if lt signed z y then z else y
      | 2 => if lt signed y z then z else y
      | 3 => y &&& z
      | 4 => y ||| z
      | _ => y ^^^ z) x)

/-- The identity of R188. -/
def identity (op : Nat) (signed : Bool) (w : Nat) : BitVec w :=
  match op with
  | 1 => if signed then BitVec.intMax w else BitVec.allOnes w
  | 2 => if signed then BitVec.intMin w else 0
  | 3 => BitVec.allOnes w
  | _ => 0

end Sys2Proof.Claims

/-- R181, R182, R183. Integer compares, the predicate truth table and `pmov`: which predicates they write and to what; no
register changes and no flag. -/
def Obligations.ComparesAndPredicates : Prop :=
  (∀ h (f : PF) s, tyFp (tyOf f.type) = false →
    let n := tyRegs (tyOf f.type)
    GivesPreds (.cmp h f) (fun l => twoPreds h f s l
      (holds f.cond.toNat (tySigned (tyOf f.type)) (opdW h s l f.a n) (opdW h s l f.b n))) 0 s) ∧
  (∀ h (f : PF) s, GivesPreds (.plop h f) (fun l => twoPreds h f s l
    ((f.type ++ f.cond).getLsbD (4 * (predNamed h s l f.a).toNat + 2 * (predNamed h s l f.b).toNat +
      (predNamed h s l f.c).toNat))) 0 s) ∧
  ∀ h (f : GF) s, GivesPreds (.pmov h f) (fun l =>
    ((List.range 7).filter fun i => f.b = 0xFF || (opdW h s l f.b 1).getLsbD i).map fun i => (i, (opdW h s l f.a 1).getLsbD i)) 0 s

/-- R185, R186, R187, R188. Lane exchange, votes, reductions and scans over the active lanes in increasing order, without
`.sat`. -/
def Obligations.LaneExchange : Prop :=
  (∀ h (f : GF) s, Gives (.shfl h f) f.dst (gN f) (fun l =>
    let n := (opdW h s l f.b 1).toNat
    let m : Int := if f.sub = 0 then (n % 32 : Nat) else if f.sub = 1 then (l : Int) - n
      else if f.sub = 2 then (l : Int) + n else (Nat.xor l (n % 32) : Nat)
    if 0 ≤ m ∧ m ≤ 31 then fromLane h s m.toNat f.a (gN f) else (gW h f s l).1.toNat) 0 s) ∧
  (∀ h (f : GIF) s, Gives (.shflImm h f) f.dst (1 + f.imm.toNat / 32 % 2) (fun l =>
    let k := 1 + f.imm.toNat / 32 % 2
    let n := f.imm.toNat % 32
    let m : Int := if f.isel = 0 then (n : Nat) else if f.isel = 1 then (l : Int) - n
      else if f.isel = 2 then (l : Int) + n else (Nat.xor l n : Nat)
    if 0 ≤ m ∧ m ≤ 31 then fromLane h s m.toNat f.a k else (opdW h s l f.a k).toNat) 0 s) ∧
  (∀ h (f : GF) s, Gives (.bcast h f) f.dst (gN f) (fun l =>
    fromLane h s (if f.sub = 1 then (viewOf h s).act.headD l else (opdW h s l f.b 1).toNat % 32) f.a (gN f)) 0 s) ∧
  (∀ h (f : PF) s, GivesPreds (.vote h f) (fun l =>
    let every := (viewOf h s).act.all fun m => predNamed h s m f.a
    let some_ := (viewOf h s).act.any fun m => predNamed h s m f.a
    twoPreds h f s l (if f.sub = 0 then every else if f.sub = 1 then some_ else every || !some_)) 0 s) ∧
  (∀ h (f : GF) s, Gives (.ballot h f) f.dst 1
    (fun _ => ((List.range 32).filter fun m => (viewOf h s).act.contains m && predNamed h s m f.a).foldl (fun x m => x + 2 ^ m) 0) 0 s) ∧
  (∀ h (f : GF) s, f.sat = false →
    let w := 32 * gN f
    let value := fun m => BitVec.ofNat w (fromLane h s m f.a (gN f))
    Gives (.wred h f) f.dst (gN f) (fun _ =>
      ((combineAll (f.sub.toNat % 8) (gSigned f) ((viewOf h s).act.map value)).getD 0).toNat) 0 s ∧
    Gives (.wscan h f) f.dst (gN f) (fun l =>
      let ms := (viewOf h s).act.filter fun m => decide (m < l) || (m == l && !f.sub.getLsbD 3)
      ((combineAll (f.sub.toNat % 8) (gSigned f) (ms.map value)).getD (identity (f.sub.toNat % 8) (gSigned f) w)).toNat) 0 s)

/-- R189, R190. Masks: copies, logic, the lane sets of `kact`, counts, searches and tests. -/
def Obligations.Masks : Prop :=
  (∀ h (f : GF) s,
    let a := fun l => opdW h s l f.a 1
    let b := fun l => opdW h s l f.b 1
    Gives (.kmov h f) f.dst 1 (fun l => (a l).toNat) 0 s ∧ Gives (.kand h f) f.dst 1 (fun l => (a l &&& b l).toNat) 0 s ∧
    Gives (.kor h f) f.dst 1 (fun l => (a l ||| b l).toNat) 0 s ∧
    Gives (.kxor h f) f.dst 1 (fun l => (a l ^^^ b l).toNat) 0 s ∧ Gives (.knot h f) f.dst 1 (fun l => (~~~ a l).toNat) 0 s ∧
    Gives (.kpop h f) f.dst 1 (fun l => ((List.range 32).filter (a l).getLsbD).length) 0 s ∧
    Gives (.kfirst h f) f.dst 1 (fun l =>
      if f.sub = 1 then (((List.range 32).reverse).find? (a l).getLsbD).getD 32
      else ((List.range 32).find? (a l).getLsbD).getD 32) 0 s) ∧
  (∀ h (f : GIF) s, Gives (.kmovImm h f) f.dst 1 (fun _ => f.imm.toNat) 0 s) ∧
  (∀ h (f : GF) s w, waveAt s s.cur.core s.cur.slot = some w →
    let set := fun (p : Nat → Bool) => ((List.range 32).filter p).foldl (fun x m => x + 2 ^ m) 0
    Gives (.kact h f) f.dst 1 (fun _ =>
      if f.sub = 0 then set (viewOf h s).act.contains
      else if f.sub = 1 then set fun m => (mget w.fibres m).isSome
      else set fun m => s.cur.lanes.getLsbD m && (mget w.fibres m).isSome) 0 s) ∧
  ∀ h (f : PF) s, GivesPreds (.ktest h f) (fun l =>
    let a := opdW h s l f.a 1
    let b := opdW h s l f.b 1
    twoPreds h f s l (match f.cond.toNat with
      | 0 => a == b | 1 => a != b | 2 => a &&& b != 0 | 3 => a &&& b == 0 | 4 => a &&& b == b | _ => a.getLsbD l)) 0 s

namespace Sys2Proof.Claims

/-- The sign bits of the elements of a word of a floating type, and the bits that its elements take. -/
def signBits (t : Ty) : Nat :=
  match t with
  | .f64 => 0x8000000000000000 | .f32 => 0x80000000 | .f16 | .bf16 => 0x8000 | _ => 0x80008000
def elemBits (t : Ty) : Nat :=
  match t with
  | .f64 => 0xFFFFFFFFFFFFFFFF | .f16 | .bf16 => 0xFFFF | _ => 0xFFFFFFFF

/-- The fraction and exponent bits of a scalar format (R80), and the canonical quiet NaN. -/
def fracBits (t : Ty) : Nat := match t with | .f64 => 52 | .f32 => 23 | .f16 => 10 | _ => 7
def expBits (t : Ty) : Nat := match t with | .f64 => 11 | .f32 => 8 | .f16 => 5 | _ => 8
def quietNaN (t : Ty) : Nat := match t with | .f64 => 0x7FF8000000000000 | .f32 => 0x7FC00000 | .f16 => 0x7E00 | _ => 0x7FC0

/-- The pattern's exponent is all ones; the pattern is a NaN. -/
def topExp (t : Ty) (x : Nat) : Prop := x / 2 ^ fracBits t % 2 ^ expBits t = 2 ^ expBits t - 1
def isNaNBits (t : Ty) (x : Nat) : Prop := topExp t x ∧ x % 2 ^ fracBits t ≠ 0

/-- The exception flags of FPSTAT (R86) and no other bit. -/
def onlyFlags (x : W32) : Prop := x &&& 0xFFFFFFE0#32 = 0

/-- The scalar floating types. -/
def scalarFp (t : Ty) : Prop := t = .f64 ∨ t = .f32 ∨ t = .f16 ∨ t = .bf16

/-- A floating instruction completes with some result and flags of FPSTAT. -/
def floats (i : Instr) (e : BitVec 8) (n : Nat) (s : State) : Prop :=
  ∃ value flags, Gives i e n value flags s ∧ onlyFlags flags

/-- The special operands of R203 at f32: instruction, operand, result, flags. -/
def specials : List ((Ctl → GF → Instr) × (W32 × (W32 × W32))) :=
  let ninf := 0xFF800000#32; let pinf := 0x7F800000#32; let nz := 0x80000000#32; let pz := 0#32
  let nan := 0x7FC00000#32; let one := 0x3F800000#32; let dz := 8#32; let nv := 16#32
  [(.rcp, ninf, nz, 0), (.rcp, nz, ninf, dz), (.rcp, pz, pinf, dz), (.rcp, pinf, pz, 0),
   (.sqrt, ninf, nan, nv), (.sqrt, nz, nz, 0), (.sqrt, pz, pz, 0), (.sqrt, pinf, pinf, 0),
   (.rsq, ninf, nan, nv), (.rsq, nz, ninf, dz), (.rsq, pz, pinf, dz), (.rsq, pinf, pz, 0),
   (.ex2, ninf, pz, 0), (.ex2, nz, one, 0), (.ex2, pz, one, 0), (.ex2, pinf, pinf, 0),
   (.lg2, ninf, nan, nv), (.lg2, nz, ninf, dz), (.lg2, pz, ninf, dz), (.lg2, pinf, pinf, 0),
   (.sin, ninf, nan, nv), (.sin, nz, nz, 0), (.sin, pz, pz, 0), (.sin, pinf, nan, nv),
   (.cos, ninf, nan, nv), (.cos, nz, one, 0), (.cos, pz, one, 0), (.cos, pinf, nan, nv),
   (.tanh, ninf, 0xBF800000#32, 0), (.tanh, nz, nz, 0), (.tanh, pz, pz, 0), (.tanh, pinf, one, 0)]

end Sys2Proof.Claims

/-- R84, R200, R204. `abs`, `neg` and `cpsgn` on floating types act on the sign bit of each element and raise no flag. -/
def Sys2Proof.Claims.floatSignsHold : Prop :=
  ∀ h (f : GF) s, tyFp6 (tyOf f.dtype) = true →
    let w := 32 * gN f
    let sg := BitVec.ofNat w (signBits (tyOf f.dtype))
    let el := BitVec.ofNat w (elemBits (tyOf f.dtype))
    gGives .neg h f s (fun a _ _ => (a &&& el) ^^^ sg) ∧ gGives .abs h f s (fun a _ _ => a &&& el &&& ~~~ sg) ∧
    gGives .cpsgn h f s (fun a b _ => (a &&& el &&& ~~~ sg) |||
      ((if f.sub = 0 then b else if f.sub = 1 then ~~~ b else a ^^^ b) &&& sg))

/-- R84, R200. Floating `add`, `sub`, `mul` and `fma` complete; with a NaN operand the result is the canonical quiet NaN of
the type, whatever the NaN's sign and payload. -/
def Sys2Proof.Claims.floatArithmeticHold : Prop :=
  ∀ h (f : GF) s, tyFp6 (tyOf f.dtype) = true →
    let nan := fun l => scalarFp (tyOf f.dtype) ∧
      (isNaNBits (tyOf f.dtype) (gW h f s l).1.toNat ∨ isNaNBits (tyOf f.dtype) (gW h f s l).2.1.toNat)
    let nan3 := fun l => nan l ∨ (scalarFp (tyOf f.dtype) ∧ isNaNBits (tyOf f.dtype) (gW h f s l).2.2.toNat)
    let quiet := fun (i : Instr) (p : Nat → Prop) => ∃ value flags, Gives i f.dst (gN f) value flags s ∧ onlyFlags flags ∧
      ∀ l ∈ (viewOf h s).act, p l → value l = quietNaN (tyOf f.dtype)
    quiet (.add h f) nan ∧ quiet (.sub h f) nan ∧ quiet (.mul h f) nan ∧ quiet (.fma h f) nan3

/-- R84. At f32 and f64, the sum of a number and its negation is +0, and −0 in round-down; the sum of two zeros of one sign
is that zero in every mode. -/
def Sys2Proof.Claims.floatZeroSumsHold : Prop :=
  ∀ h (f : GF) s, tyOf f.dtype = .f32 ∨ tyOf f.dtype = .f64 →
    let sg := BitVec.ofNat (32 * gN f) (signBits (tyOf f.dtype))
    ∃ value flags, Gives (.add h f) f.dst (gN f) value flags s ∧
      (∀ l ∈ (viewOf h s).act, ¬ topExp (tyOf f.dtype) (gW h f s l).1.toNat → (gW h f s l).2.1 = (gW h f s l).1 ^^^ sg →
        value l = if f.rnd = 3 then sg.toNat else 0) ∧
      ∀ l ∈ (viewOf h s).act, (gW h f s l).1 = (gW h f s l).2.1 → (gW h f s l).1 = 0 ∨ (gW h f s l).1 = sg →
        value l = (gW h f s l).1.toNat

/-- R201, and R205 to R210, R214 with R176 and R181. The other floating instructions of fixed latency complete; `min` and `max`
with one NaN give the other operand bit-exact, with two the canonical quiet NaN. `dqn4` does so with a super-scale that is
+0 or a positive number. -/
def Sys2Proof.Claims.floatMinMaxAndConversionsHold : Prop :=
  (∀ h (f : GF) s, tyFp6 (tyOf f.dtype) = true →
    let t := tyOf f.dtype
    let a := fun l => (gW h f s l).1.toNat
    let b := fun l => (gW h f s l).2.1.toNat
    ∀ i, i = Instr.min h f ∨ i = Instr.max h f → ∃ value flags, Gives i f.dst (gN f) value flags s ∧ onlyFlags flags ∧
      ∀ l ∈ (viewOf h s).act, t = .f32 ∨ t = .f64 →
        (isNaNBits t (a l) → ¬ isNaNBits t (b l) → value l = b l) ∧ (isNaNBits t (b l) → ¬ isNaNBits t (a l) → value l = a l) ∧
        (isNaNBits t (a l) → isNaNBits t (b l) → value l = quietNaN t)) ∧
  (∀ h (f : GF) s, floats (.scale h f) f.dst (gN f) s ∧ floats (.frnd h f) f.dst (gN f) s ∧
    floats (.cvt h f) f.dst (gN f) s ∧ floats (.dot2 h f) f.dst 1 s) ∧
  (∀ h (f : GF) s, (∀ l ∈ (viewOf h s).act, superOk (opdW h s l f.c 1).toNat = true) → floats (.dqn4 h f) f.dst 1 s) ∧
  (∀ h (f : GIF) s n, (n = 1 ∧ f.isel = 2) ∨ (n = 2 ∧ f.isel = 3) →
    floats (.addImm h f) f.dst n s ∧ floats (.mulImm h f) f.dst n s) ∧
  (∀ h (f : PF) s, tyFp (tyOf f.type) = true → ∃ (x : Nat → Bool) (flags : W32), GivesPreds (.cmp h f) (fun l => twoPreds h f s l (x l)) flags s ∧
    (flags = 0 ∨ flags = 16)) ∧
  ∀ h (f : PF) s, GivesPreds (.classify h f) (fun l =>
    let x := (opdW h s l f.a (tyRegs (tyOf f.type))).toNat
    twoPreds h f s l ((f.cond ++ f.sub).getLsbD (fpClass (fmtOf (tyOf f.type)) (x % 2 ^ fmtBits (fmtOf (tyOf f.type)))))) 0 s

/-- R203. The reciprocal, root and transcendental instructions complete, later; a NaN operand gives the canonical quiet NaN;
and at f32 the special operands of the table give its results with every flag shown. Floating `div` completes likewise. -/
def Obligations.Approximations : Prop :=
  (∀ h (f : GF) s, tyFp (tyOf f.dtype) = true →
    ∀ mk ∈ [Instr.rcp, Instr.rsq, Instr.sqrt, Instr.ex2, Instr.lg2, Instr.sin, Instr.cos, Instr.tanh, Instr.div],
      ∃ value flags, GivesLater (mk h f) 1 f.dst (gN f) value flags s ∧ onlyFlags flags ∧
        ∀ l ∈ (viewOf h s).act, isNaNBits (tyOf f.dtype) (gW h f s l).1.toNat → value l = quietNaN (tyOf f.dtype)) ∧
  ∀ h (f : GF) s, tyOf f.dtype = .f32 → f.ftz = false → (viewOf h s).act ≠ [] →
    ∀ e ∈ specials, (∀ l ∈ (viewOf h s).act, opdW h s l f.a 1 = e.2.1) →
      GivesLater (e.1 h f) 1 f.dst 1 (fun _ => e.2.2.1.toNat) e.2.2.2 s

namespace Sys2Proof.Claims

/-- The fibres of lanes `ls` are changed as `g` says, and no others. -/
def fibresMoved (w w' : Wave) (ls : List Nat) (g : Nat → Fibre → Fibre) : Prop :=
  (∀ l ∈ ls, mget w'.fibres l = (mget w.fibres l).map (g l)) ∧ ∀ l, l ∉ ls → mget w'.fibres l = mget w.fibres l

/-- The lane slots `ls` hold window base `b l`, and the lane slots are otherwise as they were. -/
def windowsMoved (w w' : Wave) (ls : List Nat) (b : Nat → Nat) : Prop :=
  (∀ l ∈ ls, laneAt w' l = { laneAt w l with win := b l }) ∧ ∀ l, l ∉ ls → laneAt w' l = laneAt w l

/-- Everything of a wave but its fibres and lane slots stands, results under way apart. -/
def SameButMoves (w w' : Wave) : Prop :=
  w'.id = w.id ∧ w'.regs = w.regs ∧ w'.spans = w.spans ∧ w'.sched.tags = w.sched.tags ∧ w'.window = w.window ∧
    w'.puts = w.puts ∧ w'.ended = w.ended ∧ w'.away = w.away

/-- The target of a format-B instruction: the clause address plus 16 times the signed displacement (R192). -/
def targetOf (f : BF) (s : State) : W64 := s.cur.clause + f.disp.signExtend 64 * 16#64

/-- The address after the clause that the instruction ends. -/
def afterClause (s : State) : Nat := (s.cur.clause.toNat + (4 + 10 * (s.cur.index + 1) + 15) / 16 * 16) % 2 ^ 64

/-- A call by `inc` windows to `target`: premises and result. -/
def Calls (i : Instr) (h : Ctl) (dst : BitVec 8) (inc : Nat) (target : Nat → Nat) (s : State) : Prop :=
  let v := viewOf h s
  let nw := fun l => v.win l + 8 * inc
  ∀ w, waveAt s s.cur.core s.cur.slot = some w → i.wellFormed = true → w.id.allot ≤ 512 →
    (∀ sh, shape i = some sh → ∀ l ∈ v.act, nw l < w.id.allot ∧ windowOk sh w.id.allot (v.win l) (nw l) = true) →
    (∀ l ∈ v.act, target l % 16 = 0) →
    ∃ w', exec i s = .next (setWave s s.cur.core s.cur.slot w') ∧ SameButMoves w w' ∧
      fibresMoved w w' v.act (fun l fb => { fb with pc := BitVec.ofNat 64 (target l), win := nw l, fell := false }) ∧
      windowsMoved w w' v.act nw ∧
      (∀ l, reaches v dst l → fieldValue (settled w') (nw l) l dst 2 = afterClause s) ∧
      ∀ x, x.plain → (∀ l ∈ v.act, x ∉ targetsOf l (nw l) dst 2) →
        readTarget (settled w') x = readTarget (settled w) x

/-- A set of lanes as a mask. -/
def laneMask (ls : List Nat) : W32 := BitVec.ofNat 32 (((List.range 32).filter ls.contains).foldl (fun x m => x + 2 ^ m) 0)

/-- No active lane is inside a transaction, and none owes writes that a release must wait for (R64, R238). -/
def freeToWait (h : Ctl) (s : State) : Prop :=
  ∀ l ∈ (viewOf h s).act, (viewOf h s).inTx l = false ∧ owesRelease s s.cur.core s.cur.slot l = false

end Sys2Proof.Claims

/-- R173, R192, R162. `nop` changes nothing. A branch moves its active lanes to the clause address plus 16 times its signed
displacement, a jump to the register's value where it is a clause address; no other fibre moves, and nothing else changes. -/
def Sys2Proof.Claims.branchesHold : Prop :=
  (∀ h f s w, Issues (.nop h f) s w → exec (.nop h f) s = .next s) ∧
  (∀ h f s w, Issues (.bra h f) s w → ∃ w', exec (.bra h f) s = .next (setWave s s.cur.core s.cur.slot w') ∧
    w' = { w with fibres := w'.fibres } ∧
    fibresMoved w w' (viewOf h s).act fun _ fb => { fb with pc := targetOf f s, fell := false }) ∧
  ∀ h f s w, Issues (.jmp h f) s w → (∀ l ∈ (viewOf h s).act, (viewOf h s).opd l f.a 2 % 16 = 0) →
    ∃ w', exec (.jmp h f) s = .next (setWave s s.cur.core s.cur.slot w') ∧ w' = { w with fibres := w'.fibres } ∧
      fibresMoved w w' (viewOf h s).act fun l fb => { fb with pc := BitVec.ofNat 64 ((viewOf h s).opd l f.a 2), fell := false }

/-- R193. A call adds its windows to the window base, leaves the address after its clause in the link named under the new
base, and goes to its target; a return takes windows away and goes to the register's value. -/
def Sys2Proof.Claims.callsAndReturnsHold : Prop :=
  (∀ h (f : BF) s, Calls (.call h f) h f.dst f.a.toNat (fun _ => (targetOf f s).toNat) s) ∧
  (∀ h (f : GF) s, Calls (.callr h f) h f.dst f.sub.toNat (fun l => (viewOf h s).opd l f.a 2) s) ∧
  ∀ h (f : GF) s w, Issues (.ret h f) s w →
    (∀ l ∈ (viewOf h s).act, 8 * f.sub.toNat ≤ (viewOf h s).win l ∧ (viewOf h s).opd l f.a 2 % 16 = 0) →
    ∃ w', exec (.ret h f) s = .next (setWave s s.cur.core s.cur.slot w') ∧ SameButMoves w w' ∧ w'.sched = w.sched ∧
      fibresMoved w w' (viewOf h s).act (fun l fb => { fb with
        pc := BitVec.ofNat 64 ((viewOf h s).opd l f.a 2), win := (viewOf h s).win l - 8 * f.sub.toNat, fell := false }) ∧
      windowsMoved w w' (viewOf h s).act fun l => (viewOf h s).win l - 8 * f.sub.toNat

/-- R194. `loop` counts down modulo 2^32, and its active lanes go back where the count is not 0. -/
def Obligations.Loops : Prop :=
  ∀ h (f : BF) s w, Issues (.loop h f) s w →
    let v := viewOf h s
    let x := fun l => opdW h s l f.dst 1 - 1
    ∃ w', exec (.loop h f) s = .next (setWave s s.cur.core s.cur.slot w') ∧ SameButMoves w w' ∧ w'.lanes = w.lanes ∧
      fibresMoved w w' v.act (fun l fb => if x l = 0 then fb else { fb with pc := targetOf f s, fell := false }) ∧
      (∀ l, reaches v f.dst l → fieldValue (settled w') (v.win l) l f.dst 1 = (x l).toNat) ∧
      ∀ y, y.plain → ¬ named v f.dst 1 y → readTarget (settled w') y = readTarget (settled w) y

/-- R15, R195. A FORK gives its active lanes the wave's empty slots in increasing order, and all ones where there is none.
Each new fibre starts at the target with its parent's predicates and the given window base, its argument in register 0 of
that window, and is ready when the FORK completes. -/
def Obligations.Forks : Prop :=
  ∀ h (f : BF) s w, Issues (.fork h f) s w →
    let v := viewOf h s
    let empty := (List.range 32).filter fun m => (mget w.fibres m).isNone
    (∀ l ∈ v.act, owesRelease s s.cur.core s.cur.slot l = false) →
    (∀ l ∈ v.act, v.opd l f.b 1 % 8 = 0 ∧ v.opd l f.b 1 < w.id.allot) →
    ∃ t w' fl, exec (.fork h f) s = .next t ∧ waveAt t s.cur.core s.cur.slot = some w' ∧
      mget t.flights s.serial = some fl ∧ t.mem = s.mem ∧ t.crews = s.crews ∧ t.cores = s.cores ∧
      fl.wake = laneMask (empty.take v.act.length) ∧ fl.waits = 0 ∧
      (∀ m : Nat, (∀ (k l : Nat), v.act[k]? = some l → empty[k]? ≠ some m) → mget w'.fibres m = mget w.fibres m) ∧
      ∀ (k l : Nat), v.act[k]? = some l →
        (∀ m, empty[k]? = some m → ∃ fb, mget w'.fibres m = some fb ∧ fb.pc = targetOf f s ∧
          fb.preds = (v.fibre l).preds ∧ fb.win = v.opd l f.b 1 ∧ fb.wait = .fresh ∧
          readTarget w' (.v m (v.opd l f.b 1)) = BitVec.ofNat 32 (v.opd l f.a 1)) ∧
        (reaches v f.dst l → fieldValue (landAll w fl.writes) (v.win l) l f.dst 1 =
          match empty[k]? with | some m => m | none => 0xFFFFFFFF)

/-- R16, R20, R191. `quit` ends its active lanes' fibres: two clocks later their bits clear in every mask and their slots
are empty, and a wave left without fibres has ended. -/
def Sys2Proof.Claims.quitsHold : Prop :=
  (∀ h f s w, Issues (.quit h f) s w → (viewOf h s).act ≠ [] →
    let ls := (viewOf h s).act
    ∃ w', exec (.quit h f) s = .next (setWave s s.cur.core s.cur.slot w') ∧ SameButMoves w w' ∧ w'.lanes = w.lanes ∧
      fibresMoved w w' ls (fun _ fb => { fb with pc := (viewOf h s).pc, wait := .quit (s.clock + 2) }) ∧
      (∀ k, k < 12 → readTarget (settled w') (.k k) = readTarget (settled w) (.k k) &&& ~~~ laneMask ls)) ∧
  (∀ core slot s w, waveAt s core slot = some w → rising w.fibres = true →
    ∃ t w', exec (.maskWriteArrival core slot) s = .next t ∧ waveAt t core slot = some w' ∧ t.mem = s.mem ∧ t.crews = s.crews ∧
      (∀ l f u, mget w.fibres l = some f → f.wait = .quit u → u ≤ s.clock → mget w'.fibres l = none) ∧
      (∀ l f, mget w.fibres l = some f → (∀ u, f.wait = .quit u → s.clock < u) → mget w'.fibres l = some f) ∧
      (quitDue s.clock w ≠ [] → w'.fibres = [] → w'.ended = true) ∧ (w'.fibres ≠ [] → w'.ended = w.ended))

/-- R21. `leave` clears the bits of its active lanes in the mask it names, and has no other effect. -/
def Obligations.Leaves : Prop :=
  ∀ h (f : GF) s w, Issues (.leave h f) s w →
    let ls := (viewOf h s).act
    ∃ w', exec (.leave h f) s = .next (setWave s s.cur.core s.cur.slot w') ∧ SameButMoves w w' ∧ w'.fibres = w.fibres ∧
      w'.lanes = w.lanes ∧ readTarget (settled w') (.k (f.a.toNat - 0xE0)) =
        readTarget (settled w) (.k (f.a.toNat - 0xE0)) &&& ~~~ laneMask ls ∧
      ∀ x, x.plain → x ≠ .k (f.a.toNat - 0xE0) → readTarget (settled w') x = readTarget (settled w) x

/-- R20, R22, R23. At a JOIN the active lanes whose bit stands in the mask wait and the others pass; at a WAITM every active
lane waits with a snapshot of the mask. Waiting lanes stand at the instruction and go on after it. -/
def Sys2Proof.Claims.joinAndWaitmHold : Prop :=
  (∀ h (f : GF) s w, Issues (.join h f) s w →
    let k := f.a.toNat - 0xE0
    let ls := (viewOf h s).act.filter fun l => (rget w.regs.k k).getLsbD l
    ∃ t w' fl, exec (.join h f) s = .next t ∧ waveAt t s.cur.core s.cur.slot = some w' ∧ t.mem = s.mem ∧ t.crews = s.crews ∧
      w'.regs = w.regs ∧ mget t.flights s.serial = some fl ∧ fl.waits = laneMask ls ∧
      fibresMoved w w' ls fun _ fb => { fb with
        wait := .join k, pc := (viewOf h s).pc, next := s.cur.next, flight := s.serial }) ∧
  ∀ h (f : GF) s w, Issues (.waitm h f) s w → freeToWait h s →
    let k := f.a.toNat - 0xE0
    ∃ t w' fl, exec (.waitm h f) s = .next t ∧ waveAt t s.cur.core s.cur.slot = some w' ∧ t.mem = s.mem ∧ t.crews = s.crews ∧
      w'.regs = w.regs ∧ mget t.flights s.serial = some fl ∧ fl.waits = laneMask (viewOf h s).act ∧
      fibresMoved w w' (viewOf h s).act fun _ fb => { fb with
        wait := .waitm (rget w.regs.k k), pc := (viewOf h s).pc, next := s.cur.next, flight := s.serial }

/-- R17. A selection takes, of the groups of ready fibres that can issue, one of the greatest age: its fibres' ages become 0,
those of the other groups' fibres rise by one up to 255, and every other fibre and all registers stand. -/
def Obligations.WaveSelection : Prop :=
  ∀ core slot s w d, waveAt s core slot = some w → rising w.fibres = true → waveDistrict s w = some d → runLanes s.clock w = [] →
    owes d w = 0 → groupsReady s d w ≠ [] →
    ∃ w' pc, exec (.waveSelection core slot) s = .next (setWave s core slot w') ∧ pc ∈ groupsReady s d w ∧
      (∀ q ∈ groupsReady s d w, groupAge w (lanesAt s.clock w q) ≤ groupAge w (lanesAt s.clock w pc)) ∧
      (∀ l ∈ lanesAt s.clock w pc, mget w'.fibres l = (mget w.fibres l).map fun f => { f with age := 0, wait := .ready }) ∧
      (∀ q ∈ groupsReady s d w, q ≠ pc → ∀ l ∈ lanesAt s.clock w q,
        mget w'.fibres l = (mget w.fibres l).map fun f => { f with age := min 255 (f.age + 1) }) ∧
      (∀ l, (∀ q ∈ groupsReady s d w, l ∉ lanesAt s.clock w q) → mget w'.fibres l = mget w.fibres l) ∧
      (∃ r, w'.sched.run = some r ∧ r.lanes = laneMask (lanesAt s.clock w pc) ∧
        r.clause.toNat = pc / 16 * 16 % 2 ^ 64 ∧ r.slot = pc % 16) ∧
      w'.regs = w.regs ∧ w'.lanes = w.lanes ∧ w'.id = w.id

/-- R310, R87, R191. When an operation completes, its results land, its flags join FPSTAT, the lanes it wakes are ready, and its tag
counts down. A due mask write reaches its mask: the bits it keeps stand and the others take its value. -/
def Obligations.Completions : Prop :=
  (∀ n s fl w, mget s.flights n = some fl → fl.waits = 0 → fl.due ≤ s.clock → fl.core < 1024 → fl.mask = none →
    waveAt s fl.core fl.slot = some w →
    ∃ w', exec (.variableLatencyCompletion n) s = .next (setWave { s with flights := mdel s.flights n } fl.core fl.slot w') ∧
      (∀ x, readTarget w' x = readTarget (landAll w fl.writes) x) ∧
      w'.regs.fpstat = w.regs.fpstat ||| fl.flags ∧ w'.id = w.id ∧ w'.spans = w.spans ∧ w'.lanes = w.lanes ∧
      (∀ l, l < 32 → fl.wake.getLsbD l = true → ∀ f, mget w'.fibres l = some f → f.wait = .ready) ∧
      (1 ≤ fl.tag → w'.sched.tags = w.sched.tags.modify (fl.tag - 1) (· - 1)) ∧ (fl.tag = 0 → w'.sched.tags = w.sched.tags)) ∧
  ∀ core slot s w p k, waveAt s core slot = some w → p.target = Target.k k →
    (w.sched.pend.filter fun q => q.land ≤ s.clock && isMaskTarget q.target) = [p] → quitDue s.clock w = [] →
    ∃ w', exec (.maskWriteArrival core slot) s = .next (setWave s core slot w') ∧
      readTarget w' (.k k) = (readTarget w (.k k) &&& p.keep) ||| p.value ∧
      (∀ x, x ≠ .k k → readTarget w' x = readTarget w x) ∧ w'.fibres = w.fibres ∧
      w'.sched.pend = w.sched.pend.filter fun q => !(q.land ≤ s.clock && isMaskTarget q.target)

/-- R20, R22. The lanes whose JOIN holds, and those whose WAITM holds, are released together: each goes on at the PC after its
instruction, and its part of the instruction is done. A lane whose condition does not hold stays as it is. -/
def Sys2Proof.Claims.joinAndWaitmReleasesHold : Prop :=
  ∀ core slot s w, waveAt s core slot = some w → rising w.fibres = true →
    (∃ t w', exec (.joinRelease core slot) s = .next t ∧ waveAt t core slot = some w' ∧ t.mem = s.mem ∧
      ∀ l f k, mget w.fibres l = some f → f.wait = .join k →
        ((∀ m, m < 32 → (rget w.regs.k k).getLsbD m = true → ∀ g, mget w.fibres m = some g → g.wait = .join k ∧ g.pc = f.pc) →
          ∃ f', mget w'.fibres l = some f' ∧ f'.pc = f.next ∧ f'.wait = .paced (allLanded w) ∧ f'.preds = f.preds ∧ f'.win = f.win) ∧
        ((∃ m g, m < 32 ∧ (rget w.regs.k k).getLsbD m = true ∧ mget w.fibres m = some g ∧ (g.wait ≠ .join k ∨ g.pc ≠ f.pc)) →
          mget w'.fibres l = some f)) ∧
    ∃ t w', exec (.waitmRelease core slot) s = .next t ∧ waveAt t core slot = some w' ∧ t.mem = s.mem ∧
      ∀ l f snap, mget w.fibres l = some f → f.wait = .waitm snap →
        ((∀ m, m < 32 → snap.getLsbD m = true → ∀ g, mget w.fibres m = some g → ∃ z, g.wait = .waitm z) →
          ∃ f', mget w'.fibres l = some f' ∧ f'.pc = f.next ∧ f'.wait = .paced (allLanded w) ∧ f'.preds = f.preds ∧ f'.win = f.win) ∧
        ((∃ m g, m < 32 ∧ snap.getLsbD m = true ∧ mget w.fibres m = some g ∧ ∀ z, g.wait ≠ .waitm z) →
          mget w'.fibres l = some f)

namespace Sys2Proof.Claims
open Sys2Proof.Machine

/-! ### Memory -/

/-- The address of a format-M access: the base pair, or the scratchpad offset, plus the signed displacement (R161). -/
def globalAddr (h : Ctl) (f : MF) (s : State) (l : Nat) : Nat := (opdW h s l f.base 2 + f.disp.signExtend 64).toNat
def scratchAddr (h : Ctl) (f : MF) (s : State) (l : Nat) : Nat := (opdW h s l f.base 1 + f.disp.signExtend 32).toNat

/-- Bytes of a size code, and the registers of such a value (R222, R227). -/
def sizeBytes (c : BitVec 3) : Nat := 2 ^ c.toNat
def sizeRegs (c : BitVec 3) : Nat := if c.toNat ≤ 2 then 1 else if c.toNat = 3 then 2 else 4

/-- A loaded value in its registers: a narrow one extended to 32 bits (R227). -/
def extended (signed : Bool) (n x : Nat) : Nat :=
  if signed && decide (n < 4) then ((BitVec.ofNat (8 * n) x).signExtend 32).toNat else x

/-- The state in which lane number `k` accesses memory: the lanes before it have written theirs (R223). -/
def laneState (put : State → Nat → State) (act : List Nat) (s : State) (k : Nat) : State := (act.take k).foldl put s

/-- In state `u` the home of the bytes of lane `l`'s access performs it at once, at the places `ps`: the lane is in no
transaction, every page is there and marked as R379 asks, no engine, log or reset holds it, and no two leaves share a frame of it (R53, R386, R54, R69, R390). -/
structure Served (u : State) (v : View) (d : District) (l : Nat) (reach : Reach) (need : Nat) (write : Bool)
    (va n : Nat) (ps : List Nat) : Prop where
  free : (laneAt v.wave l).tx.depth = 0
  single : (laneAt v.wave l).tx.serial = false
  there : access u d reach need va n = .places ps
  marked : markAccess u d write va n = u
  ready : anyReset u d va n = false
  unowned : engineOwns u ps = false
  unlogged : ∀ k, logHolds u v.core k (locations u v.copy va n) = false
  alone : ∀ p ∈ ps, sharedPlace u p = false

/-- The places of a write, where they are all in memory. -/
def placesAt (u : State) (d : District) (need va n : Nat) : List Nat :=
  match access u d .home need va n with
  | .places ps => ps
  | _ => []

/-- The flight of an instruction with no register result. -/
def Plain (i : Instr) (s : State) (fl : Flight) : Prop :=
  fl.core = s.cur.core ∧ fl.slot = s.cur.slot ∧ fl.tag = (controlOf i).alloc.toNat ∧ fl.waits = 0 ∧ fl.mask = none ∧
    fl.writes = [] ∧ fl.flags = 0 ∧ fl.wake = 0 ∧ s.clock + 1 ≤ fl.due

/-- The waves agree but for the narrow releases that their fibres know to have read (R57, R63). -/
def HeardOnly (w w' : Wave) : Prop :=
  w' = { w with fibres := w'.fibres } ∧
    ∀ l, ∃ cs, mget w'.fibres l = (mget w.fibres l).map fun f => { f with heard := cs }

/-- The instruction makes the bytes of memory `bytes` and leaves tiles, operand buffers and code, and all else, alone. -/
def Writes (i : Instr) (s : State) (w : Wave) (bytes : Memory) : Prop :=
  ∃ fl m w', exec i s = .next { inFlight i s w' fl with mem := m } ∧ HeardOnly w w' ∧ Plain i s fl ∧ m.bytes = bytes ∧
    m.ob = s.mem.ob ∧ m.tiles = s.mem.tiles ∧ m.code = s.mem.code

/-- No place is one of the host's. -/
def onPackage (ps : List Nat) : Prop := ∀ p ∈ ps, p < hostPlace 0

/-- Lane `l` stores its bytes at the home of its address. -/
def putStore (d : District) (n : Nat) (va data : Nat → Nat) (u : State) (l : Nat) : State :=
  modMem u fun m => writePlaces m (placesAt u d permW (va l) n) (toBytes n (data l))

/-- Lane `l` stores its bytes at all four replicas (R75, R229). -/
def putMulti (d : District) (n : Nat) (va data : Nat → Nat) (u : State) (l : Nat) : State :=
  modMem u fun m => [0, 1, 2, 3].foldl (fun m k =>
    writePlaces m ((placesAt u d permW (va l) n).mapIdx fun i p => ((replicaPlaces u d ((va l + i) % 2 ^ 64))[k]?).getD p)
      (toBytes n (data l))) m

/-- The grant that a peer store by rank names: its core, base and size (R47, R48). -/
def peerGrant (s : State) (v : View) (r core base grant : Nat) : Prop :=
  v.crew.gang.isSome ∧ r < v.crew.gangSize ∧
    if r = v.crew.rank then core = v.core ∧ base = v.crew.scratchBase ∧ grant = v.crew.scratch
    else ∃ k c, gangMember s v.crew r = some k ∧ crewAt s k = some c ∧
      core = k / 16 ∧ base = c.scratchBase ∧ grant = c.scratch

/-- The lanes store one after another in scratchpad grants. -/
def scratchStores (core base : Nat → Nat) (n : Nat) (va data : Nat → Nat) (act : List Nat) (m : Memory) : Memory :=
  act.foldl (fun m l => writePlaces m (scratchPlaces (core l) (base l) (va l) n) (toBytes n (data l))) m

/-- The value of an atomic operation on `w` bits (R233). -/
def atomResult (a : Nat) {w : Nat} (old x : BitVec w) : BitVec w :=
  let g : Fmt := if w = 64 then .f64 else .f32
  match a with
  | 0 => old + x
  | 1 => if old.sle x then old else x
  | 2 => if old.sle x then x else old
  | 3 => if old.ule x then old else x
  | 4 => if old.ule x then x else old
  | 5 => old &&& x
  | 6 => old ||| x
  | 7 => old ^^^ x
  | 8 => x
  | 9 => BitVec.ofNat w (fpAdd g .rne false old.toNat x.toNat).1
  | 10 => BitVec.ofNat w (fpMinMax g false old.toNat x.toNat).1
  | _ => BitVec.ofNat w (fpMinMax g true old.toNat x.toNat).1

/-- Its exception flags. -/
def atomFlags (a w old x : Nat) : Nat :=
  let g : Fmt := if w = 64 then .f64 else .f32
  if a = 9 then (fpAdd g .rne false old x).2 else if a = 10 then (fpMinMax g false old x).2
  else if a = 11 then (fpMinMax g true old x).2 else 0

/-- The bytes at places as a word. -/
def wordAt (u : State) (ps : List Nat) (n : Nat) : BitVec (8 * n) := BitVec.ofNat _ (ofBytes (readPlaces u ps))

/-- An instruction that writes memory lane by lane and returns a value in `dst` and another in `second`. -/
def ReadsAndWrites (i : Instr) (floor : Nat) (s : State) (w : Wave) (bytes : Memory) (dst : BitVec 8) (n : Nat) (second : BitVec 8)
    (old flags : Nat → Nat) : Prop :=
  let v := viewOf (controlOf i) s
  ∃ fl m w', exec i s = .next { inFlight i s w' fl with mem := m } ∧ HeardOnly w w' ∧
    fl.core = s.cur.core ∧ fl.slot = s.cur.slot ∧ fl.tag = (controlOf i).alloc.toNat ∧ fl.waits = 0 ∧ fl.mask = none ∧ fl.flags = 0 ∧ fl.wake = 0 ∧
    s.clock + floor ≤ fl.due ∧ m.bytes = bytes ∧ m.ob = s.mem.ob ∧ m.tiles = s.mem.tiles ∧ m.code = s.mem.code ∧
    (∀ k l, v.act[k]? = some l →
      (reaches v dst l → (∀ x ∈ targetsOf l (v.win l) dst n, x ∉ targetsOf l (v.win l) second 1) →
        fieldValue (landAll w fl.writes) (v.win l) l dst n = old k) ∧
      (reaches v second l → fieldValue (landAll w fl.writes) (v.win l) l second 1 = flags k)) ∧
    ∀ x, x.plain → ¬ named v dst n x → ¬ named v second 1 x → readTarget (landAll w fl.writes) x = readTarget w x

end Sys2Proof.Claims

open Sys2Proof Sys2Proof.Machine Sys2Proof.Claims

/-- R161, R175, R223, R227, R228, R323. A load lands the bytes of its address, extended, no earlier than 12 clocks after issue,
where the access reaches memory at once and reads no poisoned line: `ld` globally, `lds` in the crew's grant, `ldl` from code. -/
def Sys2Proof.Claims.loadsHold : Prop :=
  (∀ h (f : MF) s w d (ps : Nat → List Nat), Issues (.ld h f) s w → districtAt s (viewOf h s).crew.district = some d →
    f.order = 0 ∨ f.order = 1 → allMonitors s = [] →
    (∀ l ∈ (viewOf h s).act, Served s (viewOf h s) d l (.near (s.cur.core / 192)) permR false (globalAddr h f s l)
      (sizeBytes f.size) (ps l) ∧ poisoned s (ps l) = false) →
    ReadsAndWrites (.ld h f) 12 s w s.mem.bytes f.dst (sizeRegs f.size) 0xFF (fun k =>
      extended (f.sub == 1) (sizeBytes f.size) (ofBytes (readPlaces s (ps ((viewOf h s).act.getD k 0))))) fun _ => 0) ∧
  (∀ h (f : MF) s,
    let v := viewOf h s
    let ps := fun l => scratchPlaces v.core v.crew.scratchBase (scratchAddr h f s l) (sizeBytes f.size)
    (∀ l ∈ v.act, scratchAddr h f s l + sizeBytes f.size ≤ v.crew.scratch ∧ poisoned s (ps l) = false ∧
      ∀ p ∈ ps l, sharedPlace s p = false) →
    GivesLater (.lds h f) 12 f.dst (sizeRegs f.size)
      (fun l => extended (f.sub == 1) (sizeBytes f.size) (ofBytes (readPlaces s (ps l)))) 0 s) ∧
  ∀ h (f : GIF) s d bs n regs, districtAt s (viewOf h s).crew.district = some d →
    (f.isel = 0 ∧ n = 4 ∧ regs = 1) ∨ (f.isel = 1 ∧ n = 8 ∧ regs = 2) ∨ (f.isel = 2 ∧ n = 16 ∧ regs = 4) ∨
      (f.isel = 3 ∧ n = 2 ∧ regs = 1) →
    codeBytes s d (s.cur.clause + f.imm.signExtend 64).toNat n = .bytes bs →
    GivesLater (.ldl h f) 12 f.dst regs (fun _ => ofBytes bs) 0 s

/-- R161, R222, R223, R228. A global store writes its bytes at its address, lane after lane in increasing order, and changes no
other byte; `stm` writes every replica. -/
def Sys2Proof.Claims.globalStoresHold : Prop :=
  ∀ h (f : MF) s w d,
    let v := viewOf h s
    let n := sizeBytes f.size
    let va := globalAddr h f s
    let data := fun l => v.opd l f.data (sizeRegs f.size)
    districtAt s v.crew.district = some d → allMonitors s = [] → Memory.wf s.mem.bytes = true →
    (2 ≤ f.order.toNat → ∀ l ∈ v.act, owesRelease s s.cur.core s.cur.slot l = false) →
    (Issues (.st h f) s w → ∀ ps : Nat → List Nat,
      let put := putStore d n va data
      (∀ (k l : Nat), v.act[k]? = some l → Served (laneState put v.act s k) v d l .home permW true (va l) n (ps k)) →
      Writes (.st h f) s w (v.act.foldl put s).mem.bytes ∧
      ∀ a, (∀ k, a ∉ ps k) → readByte (v.act.foldl put s).mem.bytes a = readByte s.mem.bytes a) ∧
    (Issues (.stm h f) s w → ∀ ps : Nat → List Nat,
      let put := putMulti d n va data
      (∀ (k l : Nat), v.act[k]? = some l → Served (laneState put v.act s k) v d l .home permW true (va l) n (ps k)) →
      Writes (.stm h f) s w (v.act.foldl put s).mem.bytes)

/-- R47, R48, R161, R227, R228. A scratchpad store writes its bytes at its offset in the crew's grant, a peer store in that of
the gang's member of the rank named by `sub` or by a scalar; lane after lane in increasing order, and no other byte changes. -/
def Sys2Proof.Claims.scratchStoresHold : Prop :=
  (∀ h (f : MF) s w,
    let v := viewOf h s
    let n := sizeBytes f.size
    let va := scratchAddr h f s
    let data := fun l => v.opd l f.data (sizeRegs f.size)
    allMonitors s = [] → (2 ≤ f.order.toNat → ∀ l ∈ v.act, owesRelease s s.cur.core s.cur.slot l = false) →
    (Issues (.sts h f) s w → (∀ l ∈ v.act, va l + n ≤ v.crew.scratch ∧
        onPackage (scratchPlaces v.core v.crew.scratchBase (va l) n)) →
      Writes (.sts h f) s w (scratchStores (fun _ => v.core) (fun _ => v.crew.scratchBase) n va data v.act s.mem.bytes)) ∧
    (Issues (.stp h f) s w → (∀ l ∈ v.act, v.inTx l = false) → ∀ core base grant,
      peerGrant s v f.sub.toNat core base grant →
      (∀ l ∈ v.act, va l + n ≤ grant ∧ onPackage (scratchPlaces core base (va l) n)) →
      Writes (.stp h f) s w (scratchStores (fun _ => core) (fun _ => base) n va data v.act s.mem.bytes))) ∧
  (∀ h (f : MXF) s w,
    let v := viewOf h s
    let n := sizeBytes f.size
    let va := fun l => v.opd l f.base 1
    let data := fun l => v.opd l f.data (sizeRegs f.size)
    allMonitors s = [] → (2 ≤ f.order.toNat → ∀ l ∈ v.act, owesRelease s s.cur.core s.cur.slot l = false) →
    Issues (.stpScalarRank h f) s w → (∀ l ∈ v.act, v.inTx l = false) → ∀ core base grant : Nat → Nat,
      (∀ l ∈ v.act, peerGrant s v (v.opd l f.second 1) (core l) (base l) (grant l) ∧ va l + n ≤ grant l ∧
        onPackage (scratchPlaces (core l) (base l) (va l) n)) →
      Writes (.stpScalarRank h f) s w (scratchStores core base n va data v.act s.mem.bytes)) ∧
  ∀ core base n va data act m a, Memory.wf m = true →
    (∀ l ∈ act, a ∉ scratchPlaces (core l) (base l) (va l) n) →
    readByte (scratchStores core base n va data act m) a = readByte m a

/-- R57, R63, R64, R75, R230, R231. A fence of a lane that owes no write completes and changes no byte: outside a transaction a
wide acquire has the narrow releases performed that the fibre's loads read, and after a narrow release the fibre's stores are
releases. A replica synchronisation of one line copies the home replica to the others and changes nothing else. -/
def Obligations.FencesAndReplicas : Prop :=
  (∀ h (f : MF) s w, Issues (.fence h f) s w → allMonitors s = [] →
    (∀ l ∈ (viewOf h s).act, owesRelease s s.cur.core s.cur.slot l = false) →
    let wide := decide (f.order.toNat % 2 = 1) && decide (4 ≤ f.scope.toNat)
    ∃ fl m w', exec (.fence h f) s = .next { inFlight (.fence h f) s w' fl with mem := m } ∧ Plain (.fence h f) s fl ∧
      m.bytes = s.mem.bytes ∧ m.ob = s.mem.ob ∧ m.tiles = s.mem.tiles ∧ m.code = s.mem.code ∧
      w' = { w with fibres := w'.fibres } ∧
      fibresMoved w w' ((viewOf h s).act.filter fun l => !(viewOf h s).inTx l) fun _ fb => { fb with
        heard := if wide then [] else fb.heard
        fenced := if 2 ≤ f.order.toNat then decide (f.scope.toNat < 4) else fb.fenced }) ∧
  ∀ h (f : MF) s w d l p ps, Issues (.replsync h f) s w → (viewOf h s).act = [l] → (viewOf h s).inTx l = false →
    (viewOf h s).serial l = false → engineOwns s (p :: ps) = false →
    districtAt s (viewOf h s).crew.district = some d → allMonitors s = [] → Memory.wf s.mem.bytes = true →
    globalAddr h f s l % 128 = 0 → (opdW h s l f.data 1).toNat = 128 →
    access s d .home (permR + permW) (globalAddr h f s l) 1 = .places [p] → p % 128 = 0 →
    access s d .home 0 (globalAddr h f s l) 1 = .places [p] →
    replicaPlaces s d (globalAddr h f s l) = ps → 2 ≤ ps.length → (∀ q ∈ ps, q % 128 = 0) →
    ∃ m, Writes (.replsync h f) s w m ∧ (∀ q ∈ ps, readBytes m q 128 = readBytes s.mem.bytes p 128) ∧
      ∀ a, (∀ q ∈ ps, a / 128 ≠ q / 128) → readByte m a = readByte s.mem.bytes a

/-- R47, R223, R232, R233. Atomics and reductions: each lane in increasing order reads the old value, writes the combined one,
and returns the old value and its exception flags; a reduction returns none. -/
def Sys2Proof.Claims.atomicsHold : Prop :=
  ∀ h (f : MXF) s w,
    let v := viewOf h s
    let n := sizeBytes f.size
    let x := fun l => BitVec.ofNat (8 * n) (v.opd l f.data (sizeRegs f.size))
    replayMode s v.crew.district = 0 → allMonitors s = [] → Memory.wf s.mem.bytes = true →
    (2 ≤ f.order.toNat → ∀ l ∈ v.act, owesRelease s s.cur.core s.cur.slot l = false) →
    f.aop.toNat < 12 →
    (∀ d, districtAt s v.crew.district = some d →
      let va := fun l => v.opd l f.base 2
      let at_ := fun (u : State) l => placesAt u d (permA + permR + permW) (va l) n
      let put := fun u l => modMem u fun m => writePlaces m (at_ u l) (toBytes n (atomResult f.aop.toNat (wordAt u (at_ u l) n) (x l)).toNat)
      let old := fun k => (wordAt (laneState put v.act s k) (at_ (laneState put v.act s k) (v.act.getD k 0)) n).toNat
      (∀ (k l : Nat), v.act[k]? = some l → ∃ ps, Served (laneState put v.act s k) v d l .home (permA + permR + permW) true (va l) n ps ∧
        va l % n = 0 ∧ poisoned s ps = false) →
      (Issues (.atom h f) s w → ReadsAndWrites (.atom h f) 12 s w (v.act.foldl put s).mem.bytes f.dst (sizeRegs f.size) f.second old
        fun k => atomFlags f.aop.toNat (8 * n) (old k) (x (v.act.getD k 0)).toNat) ∧
      (Issues (.red h f) s w → Writes (.red h f) s w (v.act.foldl put s).mem.bytes)) ∧
    (let va := fun l => v.opd l f.base 1
      let at_ := fun l => scratchPlaces v.core v.crew.scratchBase (va l) n
      let put := fun u l => modMem u fun m => writePlaces m (at_ l) (toBytes n (atomResult f.aop.toNat (wordAt u (at_ l) n) (x l)).toNat)
      let old := fun k => (wordAt (laneState put v.act s k) (at_ (v.act.getD k 0)) n).toNat
      (∀ l ∈ v.act, va l + n ≤ v.crew.scratch ∧ va l % n = 0 ∧ poisoned s (at_ l) = false ∧ onPackage (at_ l) ∧
        ∀ p ∈ at_ l, sharedPlace s p = false) →
      (Issues (.atoms h f) s w → ReadsAndWrites (.atoms h f) 12 s w (v.act.foldl put s).mem.bytes f.dst (sizeRegs f.size) f.second old
        fun k => atomFlags f.aop.toNat (8 * n) (old k) (x (v.act.getD k 0)).toNat) ∧
      (Issues (.reds h f) s w → Writes (.reds h f) s w (v.act.foldl put s).mem.bytes))

/-- R234. A compare-and-swap writes where its condition holds, and returns the old value either way: `cas` on equality, `casgt`
where the new value is greater, `casver` on the version in the high bits, which it advances, `casptr` on equality, advancing
the count in the high bits. -/
def Sys2Proof.Claims.compareAndSwapHold : Prop :=
  ∀ h (f : MXF) s w d,
    let v := viewOf h s
    let n := sizeBytes f.size
    let x := fun l => BitVec.ofNat (8 * n) (v.opd l f.data (sizeRegs f.size))
    let y := fun l => BitVec.ofNat (8 * n) (v.opd l f.second (sizeRegs f.size))
    let va := fun l => v.opd l f.base 2
    let at_ := fun (u : State) l => placesAt u d (permA + permR + permW) (va l) n
    districtAt s v.crew.district = some d →
    replayMode s v.crew.district = 0 → allMonitors s = [] → Memory.wf s.mem.bytes = true →
    (2 ≤ f.order.toNat → ∀ l ∈ v.act, owesRelease s s.cur.core s.cur.slot l = false) →
    ∀ (i : Instr) (new : BitVec (8 * n) → Nat → Option (BitVec (8 * n))),
      (i = .cas h f ∧ new = fun old l => if old = y l then some (x l) else none) ∨
      (i = .casgt h f ∧ new = fun old l =>
        if (if f.sub = 1 then old.slt (x l) else old.ult (x l)) then some (x l) else none) ∨
      (i = .casver h f ∧ new = fun old l =>
        let k := if n = 4 then 8 else 16
        let lo := 8 * n - k
        if old.toNat / 2 ^ lo = v.opd l f.second 1 % 2 ^ k then
          some (BitVec.ofNat _ ((x l).toNat % 2 ^ lo + (old.toNat / 2 ^ lo + 1) % 2 ^ k * 2 ^ lo)) else none) ∨
      (i = .casptr h f ∧ new = fun old l =>
        let k := if n = 8 then 16 else 64
        let lo := 8 * n - k
        if old = y l then some (BitVec.ofNat _ ((x l).toNat % 2 ^ lo + (old.toNat / 2 ^ lo + 1) % 2 ^ k * 2 ^ lo)) else none) →
      let put := fun u l => match new (wordAt u (at_ u l) n) l with
        | some z => modMem u fun m => writePlaces m (at_ u l) (toBytes n z.toNat)
        | none => u
      (∀ (k l : Nat), v.act[k]? = some l → ∃ ps, Served (laneState put v.act s k) v d l .home (permA + permR + permW) true (va l) n ps ∧
        va l % n = 0 ∧ poisoned s ps = false) →
      Issues i s w → ReadsAndWrites i 12 s w (v.act.foldl put s).mem.bytes f.dst (sizeRegs f.size) 0xFF
        (fun k => (wordAt (laneState put v.act s k) (at_ (laneState put v.act s k) (v.act.getD k 0)) n).toNat) fun _ => 0

/-- R235, R236. In one lane, `pcall` runs the routine named in bits 17:10 on the 128-byte line of its address, with the offset
in the line, the data and the second operand in x10 to x14; the line is stored back, and x10 and x11 are returned. -/
def Sys2Proof.Claims.programmableCallsHold : Prop :=
  ∀ h (f : MXF) s w d l ps code e, Issues (.pcall h f) s w → (viewOf h s).act = [l] → (viewOf h s).inTx l = false →
    districtAt s (viewOf h s).crew.district = some d → replayMode s (viewOf h s).crew.district = 0 → allMonitors s = [] →
    (2 ≤ f.order.toNat → owesRelease s s.cur.core s.cur.slot l = false) →
    let v := viewOf h s
    let n := sizeBytes f.size
    let va := v.opd l f.base 2
    let x := v.opd l f.data (sizeRegs f.size)
    let y := v.opd l f.second (sizeRegs f.size)
    Served s v d l .home (permA + permR + permW) true va n ps → va % n = 0 → poisoned s ps = false →
    routineCode s d (f.aop.toNat * 4 + f.rsv.toNat) = some code →
    let base := ps.headD 0 / 128 * 128
    (∀ j, j < 128 → sharedPlace s (base + j) = false) →
    let regs := [(10, BitVec.ofNat 32 (ps.headD 0 % 128)), (11, BitVec.ofNat 32 x), (12, if n = 8 then BitVec.ofNat 32 (x / 2 ^ 32) else 0),
      (13, BitVec.ofNat 32 y), (14, if n = 8 then BitVec.ofNat 32 (y / 2 ^ 32) else 0)]
    rvRun code 65 ⟨0, regs, readBytes s.mem.bytes base 128⟩ = .exit e →
    ∃ fl m w', exec (.pcall h f) s = .next { inFlight (.pcall h f) s w' fl with mem := m } ∧ HeardOnly w w' ∧
      m.bytes = writePlaces s.mem.bytes ((List.range 128).map (base + ·)) e.line ∧ fl.waits = 0 ∧ s.clock + 12 ≤ fl.due ∧
      fl.tag = h.alloc.toNat ∧
      fl.writes = (targetsOf l (v.win l) f.dst (sizeRegs f.size)).zip [rvReg e 10, rvReg e 11] ∧ m.ob = s.mem.ob ∧ m.tiles = s.mem.tiles

/-- R50, R54, R222, R295, R296, R356, R383. A load outside every range, without the permission or of a page that the host owns
parks its lane with cause 4 or 3 at the first such byte; one whose page is missing waits, and the miss is reported once. -/
def Sys2Proof.Claims.loadFaultsAndHoldsHold : Prop :=
  ∀ h (f : MF) s w d l, Issues (.ld h f) s w → f.order = 0 → (viewOf h s).act = [l] →
    districtAt s (viewOf h s).crew.district = some d → (laneAt w l).tx.depth = 0 → (laneAt w l).tx.serial = false →
    let va := globalAddr h f s l
    let bytes := bytesAt s d (.near (s.cur.core / 192)) permR va (sizeBytes f.size)
    let denied := fun (e : Nat × ByteAt) => match e.2 with
      | .permission | .range | .hostOwned _ _ => true
      | _ => false
    (∀ a b, bytes.find? denied = some (a, b) → ∃ t w', exec (.ld h f) s = .next t ∧ waveAt t s.cur.core s.cur.slot = some w' ∧
      parkedAt (tagUp w h.alloc.toNat) w' (viewOf h s).pc
        [(l, { cause := if b = .range then 4 else 3, access := 1, addr := a })] ∧ t.mem = s.mem) ∧
    ∀ p ia fl, bytes.find? denied = none → reachAll bytes = .noPage p ia fl →
      ∃ t w' fb, exec (.ld h f) s = .next t ∧ waveAt t s.cur.core s.cur.slot = some w' ∧
      mget w.fibres l = some fb ∧ t.mem = s.mem ∧
      mget w'.fibres l = some { fb with wait := .hold s.serial, pc := (viewOf h s).pc, next := s.cur.next, flight := s.serial } ∧
      (∃ q, (coreOf t s.cur.core).held = (coreOf s s.cur.core).held ++ [q] ∧ q.req.va = BitVec.ofNat 64 va ∧ q.req.lane = l ∧ q.why = .page) ∧
      (∃ m ∈ (partOf t p).reported, m.ctx = d.ctx ∧ m.ia = ia / 65536 * 65536) ∧
      ((∃ m ∈ (partOf s p).reported, m.ctx = d.ctx ∧ m.ia = ia / 65536 * 65536) → partOf t p = partOf s p)

namespace Sys2Proof.Claims
open Sys2Proof.Machine

/-- ABORTCAUSE of an abort: the serial bit clear, the code, one more in the count up to 255, the cause (R238). -/
def abortAfter (old : W32) (code cause : Nat) : W32 :=
  BitVec.ofNat 32 (code * 2 ^ 12 + min (old.toNat / 2 ^ 4 % 256 + 1) 255 * 2 ^ 4 + cause)

/-- A lane outside transactions again, its target kept. -/
def noTx (x : Lane) : LaneTx := ⟨0, x.tx.target, false, [], [], []⟩

/-- The lanes of `w'` are those of `w`, changed by `g` in the lanes `ls`. -/
def lanesMoved (w w' : Wave) (ls : List Nat) (g : Nat → Lane → Lane) : Prop :=
  (∀ l ∈ ls, laneAt w' l = g l (laneAt w l)) ∧ ∀ l, l ∉ ls → laneAt w' l = laneAt w l

/-- Instruction `i` gives state `t`, in which its wave is `w'` and its flight `fl`; the bytes of memory stand. -/
def Steps (i : Instr) (s t : State) (w' : Wave) (fl : Flight) : Prop :=
  exec i s = .next t ∧ waveAt t s.cur.core s.cur.slot = some w' ∧ mget t.flights s.serial = some fl ∧
    fl.core = s.cur.core ∧ fl.slot = s.cur.slot ∧ fl.tag = (controlOf i).alloc.toNat ∧ s.clock + 1 ≤ fl.due ∧ t.crews = s.crews

/-- The word of a logged write stands at its place: its masked bytes (R237, R241). -/
def LogApplied (m m' : Memory) (ws : List (Nat × TxWrite)) : Prop :=
  (∀ p e i, (p, e) ∈ ws → i < 8 → readByte m' (p + i) =
    if e.mask.getLsbD i then e.bytes.extractLsb' (8 * i) 8 else readByte m (p + i)) ∧
  ∀ a, (∀ p e, (p, e) ∈ ws → a < p ∨ p + 8 ≤ a) → readByte m' a = readByte m a

end Sys2Proof.Claims

open Sys2Proof Sys2Proof.Machine Sys2Proof.Claims

/-- R237, R238, R239, R240, R242. `txbegin` opens a transaction or nests one deeper; its serial form waits for the district's token
after four aborts, and the token goes to the lane that has waited longest. `txabort` ends the transaction: the lane goes to
the target, its log is gone, and ABORTCAUSE holds the code and cause 5. -/
def Sys2Proof.Claims.transactionBeginAndAbortHold : Prop :=
  (∀ h (f : BF) s w, Issues (.txbegin h f) s w →
    (∀ l ∈ (viewOf h s).act, (laneAt w l).tx.depth < 255 ∧
      (f.sub = 1 → (laneAt w l).tx.depth = 0 → (laneAt w l).abort.toNat / 2 ^ 4 % 256 < 4)) →
    ∃ t w' fl, Steps (.txbegin h f) s t w' fl ∧ fl.waits = 0 ∧ fl.writes = [] ∧ t.mem = s.mem ∧ t.districts = s.districts ∧
      w'.regs = w.regs ∧ w'.fibres = w.fibres ∧
      lanesMoved w w' (viewOf h s).act fun _ x => { x with
        tx := if x.tx.depth = 0 then ⟨1, targetOf f s, false, [], [], []⟩ else { x.tx with depth := x.tx.depth + 1 } }) ∧
  (∀ h (f : BF) s w l d fb, Issues (.txbegin h f) s w → f.sub = 1 → (viewOf h s).act = [l] → (laneAt w l).tx.depth = 0 →
    4 ≤ (laneAt w l).abort.toNat / 2 ^ 4 % 256 → mget w.fibres l = some fb →
    districtAt s (viewOf h s).crew.district = some d →
    ∃ t w' fl, Steps (.txbegin h f) s t w' fl ∧ fl.waits = laneMask [l] ∧ t.mem = s.mem ∧
      mget w'.fibres l = some { fb with wait := .token, pc := (viewOf h s).pc, next := s.cur.next, flight := s.serial } ∧
      districtAt t (viewOf h s).crew.district = some { d with tokenWaiters := d.tokenWaiters ++ [(s.cur.core, s.cur.slot, l)] } ∧
      (laneAt w' l).tx = ⟨1, targetOf f s, false, [], [], []⟩) ∧
  (∀ k s d c b l r w fb, districtAt s k = some d → d.token = none → d.tokenWaiters = (c, b, l) :: r →
    waveAt s c b = some w → mget w.fibres l = some fb →
    ∃ t w', exec (.serialTokenGrant k) s = .next t ∧ waveAt t c b = some w' ∧ t.mem = s.mem ∧
      districtAt t k = some { d with token := some (c, b, l), tokenWaiters := r } ∧
      (laneAt w' l).tx.serial = true ∧ (laneAt w' l).abort = (laneAt w l).abort ||| 0x100000#32 ∧
      (∃ f', mget w'.fibres l = some f' ∧ f'.pc = fb.next ∧ f'.wait = .paced (allLanded w)) ∧
      ∀ m, m ≠ l → mget w'.fibres m = mget w.fibres m ∧ laneAt w' m = laneAt w m) ∧
  ∀ h (f : GF) s w, Issues (.txabort h f) s w →
    let v := viewOf h s
    let ls := v.act.filter v.inTx
    ∃ t w' fl, Steps (.txabort h f) s t w' fl ∧ fl.waits = 0 ∧ fl.writes = [] ∧ t.mem = s.mem ∧ w'.regs = w.regs ∧
      fibresMoved w w' ls (fun l fb => { fb with pc := (laneAt w l).tx.target, wait := .ready, fell := false }) ∧
      lanesMoved w w' ls fun l x => { x with tx := noTx x, abort := abortAfter x.abort (v.opd l f.a 1 % 256) 5 }

/-- R72, R74, R238, R241. `txend` in one lane: inside an outer transaction it only comes out one level; outside any it reports
cause 9; an outermost one whose reads still hold commits its writes and no other byte, one whose reads have changed leaves memory
alone with cause 1. Its mask bit, and no other bit of the mask, is written when it completes. -/
def Sys2Proof.Claims.transactionCommitHold : Prop :=
  (∀ h (f : GF) s w l d, Issues (.txend h f) s w → (viewOf h s).act = [l] → owesRelease s s.cur.core s.cur.slot l = false →
    districtAt s (viewOf h s).crew.district = some d → replayMode s (viewOf h s).crew.district = 0 →
    let x := laneAt w l
    let k := f.dst.toNat - 0xE0
    (1 < x.tx.depth → ∃ t w' fl, Steps (.txend h f) s t w' fl ∧ fl.mask = some (k, 0, 0) ∧ t.mem = s.mem ∧
      lanesMoved w w' [l] fun _ x => { x with tx := { x.tx with depth := x.tx.depth - 1 } }) ∧
    (x.tx.depth = 0 → ∃ t w' fl, Steps (.txend h f) s t w' fl ∧ fl.mask = some (k, laneMask [l], 0) ∧
      t.mem.bytes = s.mem.bytes ∧
      lanesMoved w w' [l] fun _ x => { x with abort := (x.abort &&& ~~~ 0xFF00F#32) ||| 9 }) ∧
    ∀ pr pw : Nat → Nat, x.tx.depth = 1 → x.tx.serial = false → d.token = none → allMonitors s = [] →
      (∀ e ∈ x.tx.reads, ∃ g, byteAtIa s d.ctx .home false e.ia = .mem (pr e.ia) g) →
      (∀ e ∈ x.tx.writes, ∃ g, byteAtIa s d.ctx .home true e.ia = .mem (pw e.ia) g) →
      engineOwns s (x.tx.reads.map (fun e => pr e.ia) ++ x.tx.writes.map fun e => pw e.ia) = false →
      ((∀ e ∈ x.tx.reads, readNat s.mem.bytes (pr e.ia) 8 = e.bytes.toNat) → Memory.wf s.mem.bytes = true →
        x.tx.writes.Pairwise (fun a b => pw a.ia + 8 ≤ pw b.ia ∨ pw b.ia + 8 ≤ pw a.ia) →
        ∃ t w' fl, Steps (.txend h f) s t w' fl ∧ fl.mask = some (k, laneMask [l], laneMask [l]) ∧
          LogApplied s.mem.bytes t.mem.bytes (x.tx.writes.map fun e => (pw e.ia, e)) ∧
          lanesMoved w w' [l] fun _ x => { x with tx := noTx x, abort := 0 }) ∧
      ((∃ e ∈ x.tx.reads, readNat s.mem.bytes (pr e.ia) 8 ≠ e.bytes.toNat) →
        ∃ t w' fl, Steps (.txend h f) s t w' fl ∧ fl.mask = some (k, laneMask [l], 0) ∧ t.mem.bytes = s.mem.bytes ∧
          lanesMoved w w' [l] fun _ x => { x with tx := noTx x, abort := abortAfter x.abort 0 1 })) ∧
  ∀ n s fl w k which bits, mget s.flights n = some fl → fl.waits = 0 → fl.due ≤ s.clock → fl.core < 1024 →
    fl.mask = some (k, which, bits) → fl.writes = [] → waveAt s fl.core fl.slot = some w →
    ∃ t w', exec (.variableLatencyCompletion n) s = .next t ∧ waveAt t fl.core fl.slot = some w' ∧
      readTarget w' (.k k) = (readTarget w (.k k) &&& ~~~ which) ||| (bits &&& which) ∧
      ∀ x, x ≠ .k k → readTarget w' x = readTarget w x

namespace Sys2Proof.Claims
open Sys2Proof.Machine

/-- The contexts of a lane as an `xalim` or `xastat` of this clock sees them: a write is seen from two clocks on (R306). -/
def seenCtx (s : State) (w : Wave) (l k : Nat) : XaCtx :=
  (if s.clock < (laneAt w l).xa.wrote + 2 then (laneAt w l).xa.before else (laneAt w l).xa.now).getD k
    ⟨2, .eps, 0, 0, []⟩

/-- An FP64 pattern is a NaN. -/
def nanF64 (x : Nat) : Bool := decide (0x7FF0000000000000 < x % 2 ^ 63)

/-- The instruction changes contexts of its active lanes as `g` says, and nothing else. -/
def SetsContexts (i : Instr) (s : State) (g : Nat → List XaCtx → List XaCtx) : Prop :=
  ∀ w, Issues i s w → ∃ w', exec i s = .next (setWave s s.cur.core s.cur.slot w') ∧ w' = { w with lanes := w'.lanes } ∧
    lanesMoved w w' (viewOf (controlOf i) s).act fun l x => { x with xa := ⟨g l x.xa.now, x.xa.now, s.clock⟩ }

/-- The value of a system register in lane `l` (R12, R297, R300); FPSTAT with the flags of the wave's operations under way (R87). -/
def registerValue (s : State) (w : Wave) (c : Crew) (l n : Nat) : Option Nat :=
  let x := laneAt w l
  match n with
  | 0x000 => some l
  | 0x001 => some w.id.index
  | 0x002 => some (w.id.crew % 16)
  | 0x003 => some c.rank
  | 0x004 => some s.cur.core
  | 0x005 => some (s.cur.core / 4)
  | 0x006 => some c.task.x.toNat
  | 0x007 => some c.task.y.toNat
  | 0x008 => some c.task.z.toNat
  | 0x009 => some c.task.depth
  | 0x00A => some s.fabric.node
  | 0x00B => some (s.cur.core / 96)
  | 0x010 => some (s.flights.foldl (fun m e =>
      if e.2.core = s.cur.core && e.2.slot = s.cur.slot then m ||| e.2.flags else m) w.regs.fpstat).toNat
  | 0x011 => some x.abort.toNat
  | 0x012 => some x.trap.cause.toNat
  | 0x013 => some x.trap.addr.toNat
  | 0x014 => some x.trap.pc.toNat
  | 0x015 => some (x.trap.pred ||| 0x80#32).toNat
  | 0x016 => some x.trap.win.toNat
  | 0x018 => some (w.spans.excess % 256 * 2 ^ 24 + (if w.spans.overflow then 2 ^ 22 else 0) +
      (if w.spans.mismatch then 2 ^ 21 else 0) + w.spans.stack.length * 2 ^ 16 + (w.spans.stack.headD 0).toNat)
  | 0x020 => some (cyclesOf s s.cur.core)
  | 0x021 => some (mrowpOf (coreOf s s.cur.core)).toNat
  | 0x030 => some w.regs.check.toNat
  | 0x031 => some (replayMode s c.district)
  | _ => none

/-- A written lane register (R238, R297): reserved bits of ABORTCAUSE and TRAPPRED dropped, bit 7 of TRAPPRED set. -/
def registerSet (n y : Nat) (x : Lane) : Lane :=
  if n = 0x011 then { x with abort := BitVec.ofNat 32 (y % 2 ^ 21) }
  else if n = 0x012 then { x with trap := { x.trap with cause := BitVec.ofNat 32 y } }
  else if n = 0x013 then { x with trap := { x.trap with addr := BitVec.ofNat 64 y } }
  else if n = 0x014 then { x with trap := { x.trap with pc := BitVec.ofNat 64 y } }
  else if n = 0x015 then { x with trap := { x.trap with pred := BitVec.ofNat 32 (y % 128 + 128) } }
  else if n = 0x016 then { x with trap := { x.trap with win := BitVec.ofNat 32 y } }
  else x

/-- The trace of a district takes no record of span `id`, no stop is set there and no causal experiment watches it. -/
def quietSpan (s : State) (k id : Nat) : Prop :=
  ∀ d, districtAt s k = some d → d.dbg.trace.recordAll = false ∧ (∀ x ∈ d.dbg.trace.spans, x.toNat % 65536 ≠ id) ∧
    d.dbg.causal.span.toNat ≠ id

end Sys2Proof.Claims

open Sys2Proof Sys2Proof.Machine Sys2Proof.Claims

/-- R99, R100, R101, R102, R216 to R220. The extrapolating accumulator: `xainit` sets a context and empties it, `xapush` appends
an FP64 value and drops the oldest of a full history, `xaclr` empties one context or all; `xastat` reads what a context holds;
`xalim` gives the estimate with its three conditions. -/
def Sys2Proof.Claims.extrapolationHold : Prop :=
  (∀ h (f : XF) s, SetsContexts (.xainit h f) s fun l cs => cs.modify f.xa.toNat fun _ =>
    let x := (viewOf h s).opd l f.c 2
    ⟨f.a.toNat, if f.sub = 0 then .eps else .lsq, BitVec.ofNat 64 ((viewOf h s).opd l f.b 2),
      if nanF64 x then 0 else BitVec.ofNat 64 (x % 2 ^ 63), []⟩) ∧
  (∀ h (f : XF) s, SetsContexts (.xapush h f) s fun l cs => cs.modify f.xa.toNat fun c =>
    let x := if f.type = 10 then (fpCvt .f32 .f64 .rne false ((viewOf h s).opd l f.a 1)).1 else (viewOf h s).opd l f.a 2
    let y : W64 := if nanF64 x then 0x7FF8000000000000 else BitVec.ofNat 64 x
    { c with hist := (if c.hist.length ≥ c.d then c.hist.drop (c.hist.length + 1 - c.d) else c.hist) ++ [y] }) ∧
  (∀ h (f : XF) s, SetsContexts (.xaclr h f) s fun _ cs =>
    if f.sub = 0 then cs.modify f.xa.toNat fun c => { c with hist := [] } else cs.map fun c => { c with hist := [] }) ∧
  (∀ h (f : XF) s w, waveAt s s.cur.core s.cur.slot = some w →
    let c := fun l => seenCtx s w l f.xa.toNat
    (f.sub = 0 → Gives (.xastat h f) f.dst 1 (fun l =>
      ((c l).hist.length + 16 * (c l).d + (if (c l).method = .lsq then 256 else 0)) % 2 ^ 32) 0 s) ∧
    (f.sub = 1 → Gives (.xastat h f) f.dst 2 (fun l => (c l).tol.toNat) 0 s) ∧
    (f.sub = 2 → Gives (.xastat h f) f.dst 2 (fun l => (c l).thr.toNat) 0 s) ∧
    (f.sub = 3 → Gives (.xastat h f) f.dst 2 (fun l =>
      (((c l).hist[(viewOf h s).opd l f.a 1]?).getD 0x7FF8000000000000#64).toNat) 0 s)) ∧
  (∀ h (f : XF) s w, Issues (.xalim h f) s w →
    let v := viewOf h s
    let n := if f.type = 10 then 1 else 2
    let r := fun l => xaLimit (seenCtx s w l f.xa.toNat)
    let e := fun l => if f.type = 10 then (fpCvt .f64 .f32 .rne false (r l).1).1 else (r l).1
    ∃ fl, exec (.xalim h f) s = .next (inFlight (.xalim h f) s w fl) ∧ fl.waits = 0 ∧ fl.flags = 0 ∧ fl.mask = none ∧
      (∀ l, reaches v f.dst l → fieldValue (landAll w fl.writes) (v.win l) l f.dst n = e l % 2 ^ (32 * n)) ∧
      (∀ l ∈ v.act, ∀ p b, (p, b) ∈ [(f.pc.toNat, (r l).2.1), (f.ps.toNat, (r l).2.2.1), (f.pf.toNat, (r l).2.2.2)] → p < 7 →
        (∀ q c, (q, c) ∈ [(f.pc.toNat, (r l).2.1), (f.ps.toNat, (r l).2.2.1), (f.pf.toNat, (r l).2.2.2)] → q = p → c = b) →
        readTarget (landAll w fl.writes) (.p l p) = if b then 1 else 0) ∧
      ∀ x, x.plain → ¬ named v f.dst n x → (∀ l ∈ v.act, ∀ p ∈ [f.pc.toNat, f.ps.toNat, f.pf.toNat], x ≠ .p l p) →
        readTarget (landAll w fl.writes) x = readTarget w x) ∧
  (∀ c, c.hist = [] → xaLimit c = (0x7FF8000000000000, false, false, false)) ∧
  ∀ c x, c.hist = [x] → nanF64 x.toNat = false → xaLimit c = (x.toNat, false, false, false)

/-- R211, R212, R213. `qblk` with a finite positive super-scale and 1 to 128 elements gives its result word and flags in every active
lane, later; with another count it parks its lanes with cause 14. -/
def Sys2Proof.Claims.blockQuantisationHold : Prop :=
  (∀ h (f : GF) s l0 ls, (viewOf h s).act = l0 :: ls →
    let v := viewOf h s
    let sc := v.opd l0 f.b 1
    let n := v.opd l0 f.c 1
    let xs := (List.range 32).flatMap fun m => (wordsOf 4 (v.other m f.a 4)).map BitVec.toNat
    let bs := qBlocks sc n xs (0 :: qStarts xs n 128 8 0)
    (∀ l ∈ v.act, v.opd l f.b 1 = sc ∧ v.opd l f.c 1 = n) → superOk sc = true → 1 ≤ n → n ≤ 128 →
    GivesLater (.qblk h f) 1 f.dst 1 (fun l => qWord sc n bs xs l % 2 ^ 32) (BitVec.ofNat 32 (qFlags sc n bs xs)) s) ∧
  ∀ h (f : GF) s w, Issues (.qblk h f) s w → (viewOf h s).act ≠ [] →
    (∀ l ∈ (viewOf h s).act, (viewOf h s).opd l f.c 1 = 0 ∨ 128 < (viewOf h s).opd l f.c 1) →
    ∃ t w' fl, Steps (.qblk h f) s t w' fl ∧ fl.writes = [] ∧ t.mem = s.mem ∧
      parkedAt (tagUp w h.alloc.toNat) w' (viewOf h s).pc ((viewOf h s).act.map fun l => (l, { cause := 14 }))

/-- R87, R238, R297, R298, R299, R300. `mfsr` reads the named register of its lane, wave, task or core; `mtsr` writes a lane's register
from each lane and a wave's from the lowest; `rdcyc` reads the cycle counter. -/
def Obligations.SystemRegisters : Prop :=
  (∀ h (f : GIF) s w n, waveAt s s.cur.core s.cur.slot = some w → n = 1 + f.isel.toNat →
    (∀ l ∈ (viewOf h s).act, (registerValue s w (viewOf h s).crew l f.imm.toNat).isSome) →
    GivesLater (.mfsr h f) 1 f.dst n (fun l =>
      (registerValue s w (viewOf h s).crew l f.imm.toNat).getD 0 % 2 ^ (32 * n)) 0 s) ∧
  (∀ h (f : GIF) s w, Issues (.mtsr h f) s w →
    let v := viewOf h s
    let y := fun l => v.opd l f.a (1 + f.isel.toNat)
    ∃ t w' fl, Steps (.mtsr h f) s t w' fl ∧ fl.writes = [] ∧ fl.waits = 0 ∧ t.mem = s.mem ∧ w'.fibres = w.fibres ∧
      lanesMoved w w' v.act (fun l => registerSet f.imm.toNat (y l)) ∧
      w'.regs.v = w.regs.v ∧ w'.regs.s = w.regs.s ∧ w'.regs.k = w.regs.k ∧
      (∀ l, v.act.head? = some l → f.imm = 0x010 → w'.regs.fpstat = BitVec.ofNat 32 (y l % 32)) ∧
      (∀ l, v.act.head? = some l → f.imm = 0x030 → w'.regs.check = BitVec.ofNat 32 (y l % 2)) ∧
      (f.imm ≠ 0x010 → w'.regs.fpstat = w.regs.fpstat) ∧ (f.imm ≠ 0x030 → w'.regs.check = w.regs.check)) ∧
  ∀ h (f : GF) s, GivesLater (.rdcyc h f) 1 f.dst 2 (fun _ => cyclesOf s s.cur.core) 0 s

/-- R290, R291, R292, R295. `trap` parks its active lanes with cause 23 and its code at the PC after it; `brk` does so with cause 22
where the district's debug enable is set, and otherwise does nothing; `sret` takes PC, predicates and window base from the trap
registers. -/
def Obligations.TrapsAndReturns : Prop :=
  (∀ h (f : GIF) s w, Issues (.trap h f) s w →
    ∃ t w' fl, Steps (.trap h f) s t w' fl ∧ fl.writes = [] ∧ fl.waits = 0 ∧ t.mem = s.mem ∧
      parkedAt (tagUp w h.alloc.toNat) w' s.cur.next
        ((viewOf h s).act.map fun l => (l, { cause := 23, info := f.imm.toNat % 256 }))) ∧
  (∀ h (f : GF) s w, Issues (.brk h f) s w → bit (inherited s (viewOf h s).crew.district 3 0x01C 4) 0 = true →
    ∃ t w' fl, Steps (.brk h f) s t w' fl ∧ fl.writes = [] ∧ fl.waits = 0 ∧ t.mem = s.mem ∧
      parkedAt (tagUp w h.alloc.toNat) w' s.cur.next
        ((viewOf h s).act.map fun l => (l, { cause := 22, info := f.sub.toNat }))) ∧
  (∀ h (f : GF) s w, Issues (.brk h f) s w → bit (inherited s (viewOf h s).crew.district 3 0x01C 4) 0 = false →
    Writes (.brk h f) s w s.mem.bytes) ∧
  ∀ h (f : GF) s w, Issues (.sret h f) s w →
    (∀ l ∈ (viewOf h s).act, (laneAt w l).trap.win.toNat % 8 = 0 ∧ (laneAt w l).trap.win.toNat < w.id.allot) →
    ∃ w', exec (.sret h f) s = .next (setWave s s.cur.core s.cur.slot w') ∧
      w' = { w with fibres := w'.fibres, lanes := w'.lanes } ∧
      fibresMoved w w' (viewOf h s).act (fun l fb =>
        let t := (laneAt w l).trap
        { fb with pc := t.pc, preds := BitVec.ofNat 8 (t.pred.toNat % 128 + 128), win := t.win.toNat, fell := false }) ∧
      lanesMoved w w' (viewOf h s).act fun _ x => { x with win := x.trap.win.toNat }

/-- R27, R286, R287, R288, R289. `spawn` in one lane appends a task one deeper than its own and gives 0; it gives 1 for a full
queue and 2 for none; a crew of depth 8 parks with cause 20. `yieldpt` completes, or waits where the crew is asked to yield;
`ppt` counts; the span instructions push and pop. -/
def Obligations.TasksAndSpans : Prop :=
  (∀ h (f : GF) s w l q, Issues (.spawn h f) s w → (viewOf h s).act = [l] → (viewOf h s).inTx l = false →
    owesRelease s s.cur.core s.cur.slot l = false → allMonitors s = [] →
    let v := viewOf h s
    let d := v.crew.district
    let va := v.opd l f.a 1
    let word := fun i => v.opd l f.b 4 / 2 ^ (32 * i) % 2 ^ 32
    va < 65536 → va < typeCount s d → word 3 < 16 →
    (v.crew.task.depth < 8 → queueOf s d (word 3) = none → ∃ t w' fl, Steps (.spawn h f) s t w' fl ∧ t.mem.bytes = s.mem.bytes ∧
      t.districts = s.districts ∧
      (reaches v f.dst l → fieldValue (landAll w fl.writes) (v.win l) l f.dst 1 = 2)) ∧
    (v.crew.task.depth < 8 → queueOf s d (word 3) = some q → q.entries ≤ q.appended - q.placed →
      ∃ t w' fl, Steps (.spawn h f) s t w' fl ∧ t.mem.bytes = s.mem.bytes ∧ t.districts = s.districts ∧
        (reaches v f.dst l → fieldValue (landAll w fl.writes) (v.win l) l f.dst 1 = 1)) ∧
    (v.crew.task.depth < 8 → queueOf s d (word 3) = some q → q.appended - q.placed < q.entries →
      ∃ t w' fl, Steps (.spawn h f) s t w' fl ∧
        (reaches v f.dst l → fieldValue (landAll w fl.writes) (v.win l) l f.dst 1 = 0) ∧
        queueOf t d (word 3) = some { q with waiting := q.waiting ++ [⟨none, none⟩], appended := q.appended + 1 } ∧
        ∀ ps, placesWith s d permW ((q.ring.toNat + 16 * (q.appended % q.entries)) % 2 ^ 64) 16 = some ps →
          t.mem.bytes = writePlaces (markHostPlaces s ps).mem.bytes ps (toBytes 4 ((v.crew.task.depth + 1) * 2 ^ 28 + va) ++
            toBytes 4 (word 0) ++ toBytes 4 (word 1) ++ toBytes 4 (word 2))) ∧
    (8 ≤ v.crew.task.depth → ∃ t w' fl, Steps (.spawn h f) s t w' fl ∧ t.mem.bytes = s.mem.bytes ∧
      parkedAt (tagUp w h.alloc.toNat) w' v.pc [(l, { cause := 20 })])) ∧
  (∀ h (f : GF) s w, Issues (.yieldpt h f) s w → (∀ l ∈ (viewOf h s).act, (viewOf h s).inTx l = false) →
    replayMode s (viewOf h s).crew.district = 0 →
    ((viewOf h s).crew.yieldAsked = false → Writes (.yieldpt h f) s w s.mem.bytes) ∧
    ((viewOf h s).crew.yieldAsked = true → (viewOf h s).act ≠ [] → ∃ t w' fl, Steps (.yieldpt h f) s t w' fl ∧
      fl.waits = laneMask (viewOf h s).act ∧ t.mem = s.mem ∧ w'.regs = w.regs ∧
      fibresMoved w w' (viewOf h s).act fun _ fb => { fb with
        wait := .yieldpt false, pc := (viewOf h s).pc, next := s.cur.next, flight := s.serial })) ∧
  (∀ h (f : GF) s w d, Issues (.ppt h f) s w → (viewOf h s).act ≠ [] →
    districtAt s (viewOf h s).crew.district = some d →
    ∃ t w' fl, Steps (.ppt h f) s t w' fl ∧ t.mem = s.mem ∧ w' = tagUp w h.alloc.toNat ∧
      districtAt t (viewOf h s).crew.district = some { d with dbg := { d.dbg with
        counters := mset d.dbg.counters f.sub.toNat ((mget d.dbg.counters f.sub.toNat).getD 0 + 1) } }) ∧
  (∀ h (f : GIF) s w, Issues (.spanin h f) s w → (viewOf h s).act ≠ [] →
    quietSpan s (viewOf h s).crew.district (f.imm.toNat % 65536) →
    ∃ w', exec (.spanin h f) s = .next (setWave s s.cur.core s.cur.slot w') ∧
      w' = { w with spans := w'.spans, lanes := w'.lanes } ∧
      w'.spans = (if w.spans.stack.length < 16 then { w.spans with stack := f.imm.setWidth 16 :: w.spans.stack }
        else if w.spans.excess < 255 then { w.spans with excess := w.spans.excess + 1 }
        else { w.spans with overflow := true }) ∧
      lanesMoved w w' (viewOf h s).act fun _ x => { x with skipSpan := false }) ∧
  ∀ h (f : GIF) s w, Issues (.spanout h f) s w → (viewOf h s).act ≠ [] →
    quietSpan s (viewOf h s).crew.district (f.imm.toNat % 65536) →
    ∃ w', exec (.spanout h f) s = .next (setWave s s.cur.core s.cur.slot w') ∧
      w' = { w with spans := w'.spans, lanes := w'.lanes } ∧
      w'.spans = (if 0 < w.spans.excess then { w.spans with excess := w.spans.excess - 1 }
        else match w.spans.stack with
          | [] => { w.spans with mismatch := true }
          | t :: r => { w.spans with stack := r, mismatch := w.spans.mismatch || t ≠ f.imm.setWidth 16 }) ∧
      lanesMoved w w' (viewOf h s).act fun _ x => { x with skipSpan := false }

namespace Sys2Proof.Claims
open Sys2Proof.Machine

/-- The four words of a barrier object: count, remaining, phase, status (R243). -/
def objectBytes (count remaining phase status : Nat) : List Byte :=
  toBytes 4 count ++ toBytes 4 remaining ++ toBytes 4 phase ++ toBytes 4 status

/-- The field that a waiting lane's result goes to: a scalar takes the lowest active lane only (R156). -/
def waitField (ls : List Nat) (e : BitVec 8) (l : Nat) : BitVec 8 :=
  if regClass e = .vec ∨ ls.head? = some l then e else 0xFF

/-- Instruction `i` puts its active lanes into the waits `k`: they stand at it and will go on after it; memory and registers stand. -/
def Waits (i : Instr) (s : State) (w : Wave) (k : Nat → Wait) : Prop :=
  let v := viewOf (controlOf i) s
  ∃ t w' fl, Steps i s t w' fl ∧ fl.waits = laneMask v.act ∧ fl.writes = [] ∧ t.mem = s.mem ∧ w'.regs = w.regs ∧
    fibresMoved w w' v.act fun l fb => { fb with wait := k l, pc := v.pc, next := s.cur.next, flight := s.serial }

/-- Lane `l` of a waiting wave has gone on after its instruction. -/
def wentOn (w w' : Wave) (l : Nat) (f : Fibre) : Prop :=
  ∃ f', mget w'.fibres l = some f' ∧ f'.pc = f.next ∧ f'.wait = .paced (allLanded w) ∧ f'.win = f.win ∧ f'.preds = f.preds

/-- Lane `l` waits for the reply to a service call, in the wave of this slot. -/
structure Asks (s : State) (core slot l : Nat) (chip : Bool) (dst : BitVec 8) (w : Wave) (f : Fibre) : Prop where
  wave : waveAt s core slot = some w
  fibre : mget w.fibres l = some f
  wait : f.wait = .svc chip dst
  room : regClass dst = .zero ∨ regClass dst = .scalar ∨ (regClass dst = .vec ∧ f.win + dst.toNat + 2 ≤ 512)

/-- The event answers it: the reply is posted and lands in the lane's pair, and the lane goes on (R249, R362). -/
def Answers (i : Instr) (s t : State) (core slot l : Nat) (dst : BitVec 8) (f : Fibre) (reply : W64) : Prop :=
  exec i s = .next t ∧ ∃ w', waveAt t core slot = some w' ∧ (laneAt w' l).svc.reply = reply ∧
    (regClass dst ≠ .zero → fieldValue w' f.win l dst 2 = reply.toNat) ∧
    ∃ f', mget w'.fibres l = some f' ∧ f'.pc = f.next ∧ (∃ c, f'.wait = .paced c) ∧ f'.preds = f.preds

end Sys2Proof.Claims

open Sys2Proof Sys2Proof.Machine Sys2Proof.Claims

/-- R243, R244, R245, R246. `binit` writes its objects; an arrival counts down, the last one advancing the phase and restoring the count,
and returns the phase it arrived in; `bwait` passes with the object's phase where that differs from the lane's, and waits where it
does not; a release passes the new phase. -/
def Sys2Proof.Claims.barriersHold : Prop :=
  (∀ h (f : GF) s w, Issues (.binit h f) s w →
    let v := viewOf h s
    (∀ l ∈ v.act, 1 ≤ v.opd l f.b 1 ∧ v.opd l f.b 1 ≤ 65535 ∧ v.opd l f.a 1 % 16 = 0 ∧ v.opd l f.a 1 + 16 ≤ v.crew.scratch) →
    Writes (.binit h f) s w (v.act.foldl (fun m l => writeBytes m (scratchPlace v.core v.crew.scratchBase + v.opd l f.a 1)
      (objectBytes (v.opd l f.b 1) (v.opd l f.b 1) 0 0)) s.mem.bytes)) ∧
  (∀ h (f : GF) s w l ls k c, Issues (.barr h f) s w → replayMode s c.district = 0 → allMonitors s = [] →
    let v := viewOf h s
    v.act = l :: ls → f.sub.getLsbD 0 = true ∨ ls = [] → (∀ m ∈ v.act, owesRelease s s.cur.core s.cur.slot m = false) →
    (if f.sub.getLsbD 1 then v.crew.gang.isSome ∧ v.opd l f.b 1 < v.crew.gangSize ∧
      gangMember s v.crew (v.opd l f.b 1) = some k ∧ crewAt s k = some c else k = w.id.crew ∧ c = v.crew) →
    let off := v.opd l f.a 1
    off % 16 = 0 → off + 16 ≤ c.scratch →
    let at_ := scratchPlace (k / 16) c.scratchBase + off
    let word := fun i => readNat s.mem.bytes (at_ + 4 * i) 4
    ∃ t w' fl, Steps (.barr h f) s t w' fl ∧ fl.waits = 0 ∧
      (∀ m, reaches v f.dst m → fieldValue (landAll w fl.writes) (v.win m) m f.dst 1 = word 2) ∧
      t.mem.bytes = (if word 1 = 1 then writeNat (writeNat s.mem.bytes (at_ + 8) 4 ((word 2 + 1) % 2 ^ 32)) (at_ + 4) 4 (word 0 % 65536)
        else writeNat s.mem.bytes (at_ + 4) 4 ((word 1 + (2 ^ 32 - 1)) % 2 ^ 32))) ∧
  (∀ h (f : GF) s w, Issues (.bwait h f) s w →
    let v := viewOf h s
    let phase := fun l => readNat s.mem.bytes (scratchPlace v.core v.crew.scratchBase + v.opd l f.a 1 + 8) 4
    (∀ l ∈ v.act, v.inTx l = false ∧ v.opd l f.a 1 % 16 = 0 ∧ v.opd l f.a 1 + 16 ≤ v.crew.scratch) →
    ((∀ l ∈ v.act, phase l ≠ v.opd l f.b 1) → GivesLater (.bwait h f) 1 f.dst 1 phase 0 s) ∧
    ((∀ l ∈ v.act, phase l = v.opd l f.b 1) → Waits (.bwait h f) s w fun l =>
      .bwait (v.opd l f.a 1) (BitVec.ofNat 32 (v.opd l f.b 1)) (waitField v.act f.dst l))) ∧
  ∀ core slot s w c, waveAt s core slot = some w → crewAt s w.id.crew = some c → rising w.fibres = true →
    ∃ t w', exec (.bwaitRelease core slot) s = .next t ∧ waveAt t core slot = some w' ∧ t.mem = s.mem ∧
      ∀ l f off ph dst, mget w.fibres l = some f → f.wait = .bwait off ph dst →
        let now := readNat s.mem.bytes (scratchPlace core c.scratchBase + off + 8) 4
        (BitVec.ofNat 32 now ≠ ph → (∃ f', mget w'.fibres l = some f' ∧ f'.pc = f.next ∧ f'.win = f.win ∧
          f'.wait = .paced (allLanded w)) ∧ (regClass dst = .vec → l < 32 → f.win + dst.toNat < 512 →
            (∀ m g, mget w.fibres m = some g → m < 32) →
            (∀ m g o q e, mget w.fibres m = some g → (g.wait = .bwait o q e ∨ g.wait = .bfwait o q e) → m ≠ l → regClass e = .vec →
              g.win + e.toNat < 512) → fieldValue w' f.win l dst 1 = now % 2 ^ 32)) ∧
        (BitVec.ofNat 32 now = ph → mget w'.fibres l = some f)

/-- R247. An arrival at a belfry tag returns the phase that the core's die sees; the last one starts a new phase, which becomes visible
40 clocks later on its own die and 96 on the others, unless a later one already is. `bfwait` passes on another phase than the lane's and waits on the same; a
tag of another district parks the lanes with cause 12. -/
def Sys2Proof.Claims.belfryTagsHold : Prop :=
  (∀ h (f : GF) s w, Issues (.bfarr h f) s w →
    let v := viewOf h s
    let b := belfryAt s f.sub.toNat
    let die := s.cur.core / 192
    v.act ≠ [] → b.district = some v.crew.district → (∀ l ∈ v.act, owesRelease s s.cur.core s.cur.slot l = false) →
    replayMode s v.crew.district = 0 → allMonitors s = [] →
    ∃ t w' fl, Steps (.bfarr h f) s t w' fl ∧ fl.waits = 0 ∧ t.mem.bytes = s.mem.bytes ∧
      (∀ l, reaches v f.dst l → fieldValue (landAll w fl.writes) (v.win l) l f.dst 1 = (b.visible.getD die 0).toNat) ∧
      belfryAt t f.sub.toNat = (if b.arrived + 1 < b.count then { b with arrived := b.arrived + 1 }
        else { b with
          arrived := 0
          phase := b.phase + 1
          coming := b.coming ++ [0, 1, 2, 3].map fun d => (d, s.clock + (if d = die then 40 else 96), b.phase + 1) })) ∧
  (∀ h (f : GF) s w, Issues (.bfarr h f) s w → (viewOf h s).act ≠ [] →
    (belfryAt s f.sub.toNat).district ≠ some (viewOf h s).crew.district →
    ∃ t w' fl, Steps (.bfarr h f) s t w' fl ∧ t.belfry = s.belfry ∧ t.mem = s.mem ∧
      parkedAt (tagUp w h.alloc.toNat) w' (viewOf h s).pc ((viewOf h s).act.map fun l => (l, { cause := 12 }))) ∧
  (∀ h (f : GF) s w, Issues (.bfwait h f) s w →
    let v := viewOf h s
    let b := belfryAt s f.sub.toNat
    let seen := b.visible.getD (s.cur.core / 192) 0
    b.district = some v.crew.district → (∀ l ∈ v.act, v.inTx l = false) →
    ((∀ l ∈ v.act, seen.toNat ≠ v.opd l f.a 1) → GivesLater (.bfwait h f) 1 f.dst 1 (fun _ => seen.toNat) 0 s) ∧
    ((∀ l ∈ v.act, seen.toNat = v.opd l f.a 1) → Waits (.bfwait h f) s w fun l =>
      .bfwait f.sub.toNat seen (waitField v.act f.dst l))) ∧
  (∀ tag die s c p r, tag ≤ 7 → die ≤ 3 → (belfryAt s tag).coming = (die, c, p) :: r → c ≤ s.clock →
    ∃ t, exec (.belfryPhaseVisible tag die) s = .next t ∧ t = { s with belfry := t.belfry } ∧
      (let b := belfryAt s tag
       belfryAt t tag = { b with
         visible := if (b.phase - p).toNat < (b.phase - b.visible.getD die 0).toNat then b.visible.set die p else b.visible
         coming := r }) ∧
      ∀ k, k ≠ tag → belfryAt t k = belfryAt s k) ∧
  ∀ tag die s, 7 < tag ∨ 3 < die → exec (.belfryPhaseVisible tag die) s = .fault .noSuchUnit

/-- R25, R248. A QPUT fills the next of eight slots of the compute wave's window with a value from each active lane, 0 from the others, and
waits at a full one; a QGET takes the oldest, gives each lane its value and a true predicate, waits at an empty window, and gives
false once the lantern wave has ended. The end of such a wait does what the instruction would have done. -/
def Obligations.QueueWindows : Prop :=
  (∀ h (f : GF) s w cs c, Issues (.qput h f) s w →
    let v := viewOf h s
    v.act ≠ [] → pairSlot s w true = some cs → cs ≠ s.cur.slot → waveAt s s.cur.core cs = some c → cs < 64 → s.cur.slot < 64 →
    replayMode s v.crew.district = 0 →
    (c.ended = true → Writes (.qput h f) s w s.mem.bytes) ∧
    (c.ended = false → c.window.length < 8 → ∃ t w' fl, Steps (.qput h f) s t w' fl ∧ fl.waits = 0 ∧ t.mem = s.mem ∧
      w' = tagUp w h.alloc.toNat ∧ waveAt t s.cur.core cs = some { c with
        window := c.window ++ [(List.range 32).map fun l => if v.act.contains l then BitVec.ofNat 32 (v.opd l f.a 1) else 0]
        puts := c.puts + 1 }) ∧
    (c.ended = false → 8 ≤ c.window.length → Waits (.qput h f) s w fun _ => .qput)) ∧
  (∀ h (f : GF) s w ls, Issues (.qget h f) s w →
    let v := viewOf h s
    v.act ≠ [] → (∀ l ∈ v.act, v.inTx l = false) → pairSlot s w false = some ls → replayMode s v.crew.district = 0 →
    (∀ e r, w.window = e :: r → ∃ t w' fl, Steps (.qget h f) s t w' fl ∧ fl.waits = 0 ∧ t.mem = s.mem ∧ w'.window = r ∧
      w'.regs = w.regs ∧ (∀ l ∈ v.act, ∀ x ∈ targetsOf l (v.win l) f.dst 1, regClass f.dst = .vec →
        readTarget (landAll w fl.writes) x = e.getD l 0) ∧
      ∀ l ∈ v.act, f.sub.toNat < 7 → readTarget (landAll w fl.writes) (.p l f.sub.toNat) = 1) ∧
    (w.window = [] → (∃ p, waveAt s s.cur.core ls = some p ∧ p.ended = false) → Waits (.qget h f) s w fun _ => .qget f.dst f.sub.toNat) ∧
    (w.window = [] → waveAt s s.cur.core ls = none → ∃ t w' fl, Steps (.qget h f) s t w' fl ∧ fl.waits = 0 ∧ t.mem = s.mem ∧
      w' = tagUp w h.alloc.toNat ∧ (∀ l ∈ v.act, f.sub.toNat < 7 → readTarget (landAll w fl.writes) (.p l f.sub.toNat) = 0) ∧
      ∀ x, x.plain → (∀ l p, x ≠ .p l p) → readTarget (landAll w fl.writes) x = readTarget w x)) ∧
  ∀ core slot s w l f r dst pn e q ls, waveAt s core slot = some w → queueWaiters w = (l, f) :: r → f.wait = .qget dst pn →
    rising w.fibres = true → w.window = e :: q → pairSlot s w false = some ls →
    replayMode s (districtOfWave s core slot) = 0 →
    ∃ t w', exec (.queueWindowWaitEnd core slot) s = .next t ∧ waveAt t core slot = some w' ∧ t.mem = s.mem ∧ w'.window = q ∧
      (∃ f', mget w'.fibres l = some f' ∧ f'.pc = f.next ∧ f'.wait = .paced (allLanded w)) ∧
      ∀ m, (∀ g, (m, g) ∉ queueWaiters w) → mget w'.fibres m = mget w.fibres m

/-- R249, R361, R362, R363, R364. A service call leaves number and argument in its lanes, which wait, and notifies the supervisor
core once; services 0 to 2 echo, allocate the lowest free belfry tag and free one; reserved numbers, and a plug-in's numbers where the
tenant has none, are answered all ones; the chiplet answers its own calls. -/
def Obligations.ServiceCalls : Prop :=
  (∀ h (f : GF) s w, Issues (.svc h f) s w →
    let v := viewOf h s
    v.act ≠ [] → (∀ l ∈ v.act, v.inTx l = false ∧ owesRelease s s.cur.core s.cur.slot l = false) → allMonitors s = [] →
    ∃ t w' fl, Steps (.svc h f) s t w' fl ∧ fl.waits = laneMask v.act ∧ fl.writes = [] ∧ t.mem.bytes = s.mem.bytes ∧ w'.regs = w.regs ∧
      fibresMoved w w' v.act (fun l fb => { fb with
        wait := .svc (f.sub == 1) (waitField v.act f.dst l), pc := v.pc, next := s.cur.next, flight := s.serial }) ∧
      lanesMoved w w' v.act (fun l x => { x with svc := { x.svc with
        number := BitVec.ofNat 32 (v.opd l f.a 1), arg := BitVec.ofNat 64 (v.opd l f.b 2), reply := 0, answered := false } }) ∧
      (f.sub ≠ 1 → (coreOf t s.cur.core).notices = ringPost (coreOf s s.cur.core).notices
        (toBytes 1 2 ++ toBytes 1 s.cur.slot ++ toBytes 2 0 ++ toBytes 4 (maskOf v.act) ++ toBytes 8 0))) ∧
  (∀ core slot l s w f dst, Asks s core slot l false dst w f →
    let x := (laneAt w l).svc
    let n := x.number.toNat
    let d := districtOfWave s core slot
    (n = 0 → ∃ t, Answers (.svcEcho core slot l) s t core slot l dst f x.arg) ∧
    (n = 1 → x.arg.toNat % 65536 ≠ 0 → ∀ k, k < 8 → (belfryAt s k).district = none →
      (∀ j, j < k → (belfryAt s j).district ≠ none) →
      ∃ t, Answers (.allocateBelfryTag core slot l) s t core slot l dst f (BitVec.ofNat 64 k) ∧
        (belfryAt t k).district = some d ∧ (belfryAt t k).count = x.arg.toNat % 65536 ∧ (belfryAt t k).arrived = 0 ∧
        (belfryAt t k).phase = 0) ∧
    (n = 1 → (∀ k, k < 8 → (belfryAt s k).district ≠ none) →
      ∃ t, Answers (.allocateBelfryTag core slot l) s t core slot l dst f (BitVec.allOnes 64)) ∧
    (n = 2 → rising s.belfry = true → rising s.waves = true → rising w.fibres = true → (belfryAt s (x.arg.toNat % 8)).district = some d →
      ∃ t, Answers (.freeBelfryTag core slot l) s t core slot l dst f 0 ∧ (belfryAt t (x.arg.toNat % 8)).district = none) ∧
    (n = 2 → (belfryAt s (x.arg.toNat % 8)).district ≠ some d →
      ∃ t, Answers (.freeBelfryTag core slot l) s t core slot l dst f (BitVec.allOnes 64) ∧ t.belfry = s.belfry) ∧
    (256 ≤ n → n ≤ 65535 → ∀ r, ∃ t, Answers (.pluginService core slot l r) s t core slot l dst f
      (if hasPlugin s d then r else BitVec.allOnes 64)) ∧
    ((3 ≤ n ∧ n ≤ 255) ∨ 65535 < n → ∃ t, Answers (.reservedService core slot l) s t core slot l dst f (BitVec.allOnes 64))) ∧
  ∀ core slot l s w f dst r, Asks s core slot l true dst w f → s.secure.readiness.getLsbD 17 = true →
    ∃ t, Answers (.chipServiceReply core slot l r) s t core slot l dst f r

namespace Sys2Proof.Claims
open Sys2Proof.Machine

/-- A class-2 instruction whose core can accept it: no active lane is in a transaction, no other crew holds the core's tiles,
and the step sequencer holds none that it names (R238, R254, R255). -/
structure Acceptable (i : Instr) (s : State) (w : Wave) (l : Nat) : Prop where
  issues : Issues i s w
  first : (viewOf (controlOf i) s).act.head? = some l
  free : ∀ m ∈ (viewOf (controlOf i) s).act, (viewOf (controlOf i) s).inTx m = false
  tiles : opTiles i = [] ∨ (coreOf s s.cur.core).tileOwner = none ∨ (coreOf s s.cur.core).tileOwner = some w.id.crew
  unheld : ∀ z ∈ opTiles i, z ∉ heldTiles s (viewOf (controlOf i) s).crew

/-- The core accepts the instruction as its newest operation, with the operand words of the lowest active lane; its flight lasts
until the operation is over; memory stands (R250, R251). -/
def Accepts (i : Instr) (s : State) (w : Wave) (a b c : List W32) : Prop :=
  let v := viewOf (controlOf i) s
  ∃ t w' fl o, Steps i s t w' fl ∧ fl.waits ≠ 0 ∧ fl.writes = [] ∧ t.mem.bytes = s.mem.bytes ∧
    w' = tagUp w (controlOf i).alloc.toNat ∧ (coreOf t s.cur.core).ops = (coreOf s s.cur.core).ops ++ [o] ∧
    o.instr = i ∧ o.crew = w.id.crew ∧ o.district = v.crew.district ∧ o.slot = s.cur.slot ∧ o.wave = w.id.index ∧
    o.active = laneMask v.act ∧ o.a = a ∧ o.b = b ∧ o.c = c ∧ o.flight = s.serial ∧ o.consumed = false ∧ s.clock < o.due ∧
    (opTiles i ≠ [] → (coreOf t s.cur.core).tileOwner = some w.id.crew)

/-- The words of an operand in the lowest active lane. -/
def wordsIn (h : Ctl) (s : State) (l : Nat) (e : BitVec 8) (n : Nat) : List W32 := wordsOf n ((viewOf h s).opd l e n)

/-- A signal word names no barrier, or one whose object lies in the crew's grant (R252). -/
def signalOk (grant word : Nat) : Prop := word % 65536 = 0xFFFF ∨ 16 * (word % 65536) + 16 ≤ grant

/-- The rows of the active lanes (R250). -/
def laneRows (ls : List Nat) : List Nat := ls.flatMap fun l => [2 * l, 2 * l + 1]

/-- A reservation that an array operand lies in (R254, R262). -/
def heldAs (c : Crew) (n : Nat) (fmt : BitVec 4) (off size : Nat) : Prop :=
  ∃ r, mget c.reservations n = some r ∧ r.format = fmt.toNat ∧ off % 256 = 0 ∧ off + size ≤ r.size

/-- An operation is the oldest of its core and can go on now: it is due, its lines are free, its partition runs (R69, R251, R260). -/
structure AtHead (s : State) (core n : Nat) (o : EngineOp) (rest : List EngineOp) : Prop where
  found : findOp s n = some (core, o)
  number : o.flight = n
  head : (coreOf s core).ops = o :: rest
  others : ∀ p ∈ rest, p.flight ≠ n
  due : o.due ≤ s.clock
  live : o.saved = none
  fresh : o.consumed = false
  runs : partRuns s (core / 96) = true
  unowned : ownedBefore s o = false

/-- The operation is over: it has left the core, and its flight waits for nothing more. -/
def Over (s t : State) (core n : Nat) (rest : List EngineOp) : Prop :=
  (coreOf t core).ops = rest ∧ ∀ fl, mget s.flights n = some fl → ∃ fl', mget t.flights n = some fl' ∧ fl'.waits = 0

/-- Reading a tensor record in state `s` has led to `u` by adding to the record cache of the core alone (R271). -/
def RecordCached (s u : State) : Prop :=
  u = { s with cores := u.cores } ∧
    coreOf u s.cur.core = { coreOf s s.cur.core with records := (coreOf u s.cur.core).records }

end Sys2Proof.Claims

open Sys2Proof Sys2Proof.Machine Sys2Proof.Claims

/-- R257, R259. `obres` gives the first code of its table that applies and makes the reservation with code 0 only, its contents
undefined until written; `obrel` gives 1 for one that is not held, and otherwise frees it and gives 0. -/
def Sys2Proof.Claims.reservationsHold : Prop :=
  (∀ h (f : GF) s w l, Acceptable (.obres h f) s w l → crewAt s w.id.crew ≠ none →
    let v := viewOf h s
    let n := f.sub.toNat
    let va := v.opd l f.a 1
    let vb := v.opd l f.b 1
    let vc := v.opd l f.c 1
    let wrong := va % 256 ≠ 0 ∨ vb % 256 ≠ 0 ∨ vb = 0 ∨ 8 < vc % 16 ∨ vc / 16 % 16 ≠ 0 ∨ (vc % 16 ≠ 8 ∧ vc / 256 ≠ 0) ∨
      (vc % 16 = 8 ∧ vb < 16 * (vc / 256) + 64 * 1040)
    let overlaps := ∃ e ∈ v.crew.reservations, va < e.2.offset + e.2.size ∧ e.2.offset < va + vb
    ∀ code, ((mget v.crew.reservations n ≠ none ∧ code = 1) ∨
      (mget v.crew.reservations n = none ∧ v.crew.ob < va + vb ∧ code = 2) ∨
      (mget v.crew.reservations n = none ∧ va + vb ≤ v.crew.ob ∧ overlaps ∧ code = 3) ∨
      (mget v.crew.reservations n = none ∧ va + vb ≤ v.crew.ob ∧ ¬ overlaps ∧ wrong ∧ code = 4) ∨
      (mget v.crew.reservations n = none ∧ va + vb ≤ v.crew.ob ∧ ¬ overlaps ∧ ¬ wrong ∧ code = 0)) →
    ∃ t fl, exec (.obres h f) s = .next t ∧ mget t.flights s.serial = some fl ∧ fl.waits = 0 ∧
      t.mem = { s.mem with ob := t.mem.ob } ∧
      (let at_ := obPlace s.cur.core (v.crew.obBase + va)
       ∀ p, mget t.mem.ob p = if code = 0 ∧ at_ ≤ p ∧ p < at_ + vb then none else mget s.mem.ob p) ∧
      (∀ m, reaches v f.dst m → fieldValue (landAll w fl.writes) (v.win m) m f.dst 1 = code) ∧
      crewAt t w.id.crew = some (if code = 0 then
        { v.crew with reservations := mset v.crew.reservations n ⟨va, vb, vc % 16, vc / 256⟩ } else v.crew)) ∧
  ∀ h (f : GF) s w l, Acceptable (.obrel h f) s w l → crewAt s w.id.crew ≠ none →
    let v := viewOf h s
    let n := f.sub.toNat
    ∃ t fl, exec (.obrel h f) s = .next t ∧ mget t.flights s.serial = some fl ∧ t.mem = s.mem ∧
      (mget v.crew.reservations n = none → fl.waits = 0 ∧ crewAt t w.id.crew = some v.crew ∧
        ∀ m, reaches v f.dst m → fieldValue (landAll w fl.writes) (v.win m) m f.dst 1 = 1) ∧
      ∀ r, mget v.crew.reservations n = some r → fl.waits ≠ 0 ∧
        crewAt t w.id.crew = some { v.crew with reservations := mdel v.crew.reservations n } ∧
        (∃ o, (coreOf t s.cur.core).ops = (coreOf s s.cur.core).ops ++ [o] ∧ o.resA = some r ∧ o.flight = s.serial) ∧
        ∀ m, reaches v f.dst m → fieldValue (landAll w fl.writes) (v.win m) m f.dst 1 = 0

/-- R250 to R256, R262 to R267. The tile instructions are accepted with the operands of their lowest active lane where those meet the
checks of their entries; the crew then holds the core's tiles. A tile that another crew holds makes the lanes wait. -/
def Sys2Proof.Claims.tileInstructionsHold : Prop :=
  (∀ h (f : TF) s w l, Acceptable (.mma h f) s w l →
    let v := viewOf h s
    let n := ((mmaPair f.fmtA f.fmtB false).map (·.n)).getD 0
    heldAs v.crew f.obA.toNat f.fmtA (v.opd l f.a 1) (64 * if f.fmtB = 8 then 512 else 256) →
    heldAs v.crew f.obB.toNat f.fmtB (v.opd l f.b 1) (256 * n) → signalOk v.crew.scratch (v.opd l f.c 1) →
    Accepts (.mma h f) s w (wordsIn h s l f.a 1) (wordsIn h s l f.b 1) (wordsIn h s l f.c 1)) ∧
  (∀ h (f : TF) s w l, Acceptable (.mmam h f) s w l →
    let v := viewOf h s
    let n := ((mmaPair f.fmtA f.fmtB true).map (·.n)).getD 0
    let word := fun i => v.opd l f.c 4 / 2 ^ (32 * i) % 2 ^ 32
    v.opd l f.a 2 % 16 = 0 → v.opd l f.b 2 % 16 = 0 → word 0 % 16 = 0 → word 1 % 16 = 0 →
    (∀ r ∈ laneRows v.act, spanCheck s v.crew.district permR ((v.opd l f.a 2 + r * word 0) % 2 ^ 64) 256 = none) →
    (∀ j, j < n → spanCheck s v.crew.district permR ((v.opd l f.b 2 + j * word 1) % 2 ^ 64) 256 = none) →
    signalOk v.crew.scratch (word 2) →
    Accepts (.mmam h f) s w (wordsIn h s l f.a 2) (wordsIn h s l f.b 2) (wordsIn h s l f.c 4)) ∧
  (∀ h (f : TF) s w l, Acceptable (.mzero h f) s w l → Accepts (.mzero h f) s w [] [] []) ∧
  (∀ h (f : TF) s w l, Acceptable (.mmov h f) s w l → Accepts (.mmov h f) s w [] [] []) ∧
  (∀ h (f : TF) s w l, Acceptable (.mld h f) s w l →
    let v := viewOf h s
    let n := if f.sub = 1 then 1 else 2
    v.opd l f.a n % 16 = 0 → v.opd l f.b 1 % 16 = 0 →
    (∀ r ∈ laneRows v.act, if f.sub = 1 then v.opd l f.a n + r * v.opd l f.b 1 + 256 ≤ v.crew.scratch
      else spanCheck s v.crew.district permR ((v.opd l f.a n + r * v.opd l f.b 1) % 2 ^ 64) 256 = none) →
    signalOk v.crew.scratch (v.opd l f.c 1) →
    Accepts (.mld h f) s w (wordsIn h s l f.a n) (wordsIn h s l f.b 1) (wordsIn h s l f.c 1)) ∧
  (∀ h (f : TF) s w l, Acceptable (.mflush h f) s w l →
    let v := viewOf h s
    let n := if f.sub = 1 then 1 else 2
    let add := 2 ≤ f.sub.toNat
    let row := fun r => (v.opd l f.a n + r * v.opd l f.b 1) % 2 ^ 64
    v.opd l f.a n % (if add then 128 else 16) = 0 → v.opd l f.b 1 % (if add then 128 else 16) = 0 →
    (∀ r ∈ laneRows v.act, if f.sub = 1 then v.opd l f.a n + r * v.opd l f.b 1 + 256 ≤ v.crew.scratch
      else spanCheck s v.crew.district (if add then permA + permR + permW else permW) (row r) 256 = none) →
    (add → ∀ r ∈ laneRows v.act, hostSpan s v.crew.district (row r) 256 = none) →
    signalOk v.crew.scratch (v.opd l f.c 1) →
    Accepts (.mflush h f) s w (wordsIn h s l f.a n) (wordsIn h s l f.b 1) (wordsIn h s l f.c 1)) ∧
  (∀ h (f : TF) s w l, Acceptable (.mstest h f) s w l → signalOk (viewOf h s).crew.scratch ((viewOf h s).opd l f.c 1) →
    Accepts (.mstest h f) s w [] [] (wordsIn h s l f.c 1)) ∧
  ∀ h (f : TF) s w k, Issues (.mzero h f) s w → (viewOf h s).act ≠ [] → (∀ l ∈ (viewOf h s).act, (viewOf h s).inTx l = false) →
    (coreOf s s.cur.core).tileOwner = some k → k ≠ w.id.crew → f.zd.toNat ∉ heldTiles s (viewOf h s).crew →
    ∃ t w' fl, Steps (.mzero h f) s t w' fl ∧ (coreOf t s.cur.core).ops = (coreOf s s.cur.core).ops ∧ t.mem = s.mem ∧
      ∀ l ∈ (viewOf h s).act, ∃ f', mget w'.fibres l = some f' ∧ f'.wait = .tile ∧ f'.pc = (viewOf h s).pc

/-- R225, R252, R254, R268 to R271. The copies and the record-cache fence are accepted where their operands meet the checks; a
copy of no byte or of more than 2^24 parks the lowest active lane with cause 16. -/
def Sys2Proof.Claims.copyInstructionsHold : Prop :=
  (∀ h (f : GF) s w l, Acceptable (.cpy h f) s w l →
    let v := viewOf h s
    let dk := f.sub.toNat % 4
    let da := if dk = 0 then 2 else 1
    let sa := if f.sub.toNat / 4 = 0 then 2 else 1
    let n := v.opd l f.c 2 % 2 ^ 32
    let word := v.opd l f.c 2 / 2 ^ 32
    (1 ≤ n → n ≤ 2 ^ 24 →
      (if dk = 0 then spanCheck s v.crew.district permW (v.opd l f.a da) n = none
        else if dk = 1 then v.opd l f.a da + n ≤ v.crew.scratch
        else dk = 2 ∧ ∃ r, mget v.crew.reservations f.dtype.toNat = some r ∧ v.opd l f.a da + n ≤ r.size) →
      (if f.sub.toNat / 4 = 0 then spanCheck s v.crew.district permR (v.opd l f.b sa) n = none
        else v.opd l f.b sa + n ≤ v.crew.scratch) →
      (word.testBit 31 = true ∨ signalOk v.crew.scratch word) →
      Accepts (.cpy h f) s w (wordsIn h s l f.a da) (wordsIn h s l f.b sa) (wordsIn h s l f.c 2)) ∧
    (dk ≠ 2 → n = 0 ∨ 2 ^ 24 < n → ∃ t w' fl, Steps (.cpy h f) s t w' fl ∧ t.mem = s.mem ∧
      (coreOf t s.cur.core).ops = (coreOf s s.cur.core).ops ∧
      parkedAt (tagUp w h.alloc.toNat) w' v.pc [(l, { cause := 16 })])) ∧
  (∀ h (f : GF) s w l bs u, Acceptable (.cpyt h f) s w l →
    let v := viewOf h s
    let va := v.opd l f.a 2
    let vb := v.opd l f.b 2
    let dir := f.sub.toNat
    let r := if dir = 1 then mget v.crew.reservations f.dtype.toNat else none
    let org := (List.range 4).map fun i => sval 32 ((wordsIn h s l f.c 4).getD i 0).toNat
    va % 64 = 0 → (dir = 1 → r ≠ none) → spanCheck s v.crew.district permR va 192 = none → recordNow s v va = .bytes u bs → RecordCached s u →
    (tensorOk bs (org.getD 0 0) = true →
      (boxChecks s v dir (vb % 2 ^ 32) r (tensorOf bs) org).1 = none ∧
      ∀ x ∈ (boxChecks s v dir (vb % 2 ^ 32) r (tensorOf bs) org).2.1, x = none) →
    ((vb / 2 ^ 32).testBit 31 = true ∨ signalOk v.crew.scratch (vb / 2 ^ 32)) →
    Accepts (.cpyt h f) s w (wordsIn h s l f.a 2) (wordsIn h s l f.b 2) (wordsIn h s l f.c 4)) ∧
  ∀ h (f : GF) s w l, Acceptable (.rcfence h f) s w l → Accepts (.rcfence h f) s w [] [] []

/-- R97, R250, R260, R264, R271. An accepted operation at the head of its core: `mzero` clears its rows and no other tile byte, `mmov`
copies its rows from one tile to another, `rcfence` empties the record cache; then it is over. An early `mma` without a
barrier is consumed and stays. A partial that is not ordered is added into its line. -/
def Sys2Proof.Claims.engineCompletionsHold : Prop :=
  (∀ n s core o rest h (f : TF), AtHead s core n o rest → o.instr = .mzero h f → Memory.wf s.mem.tiles = true →
    ∃ t, exec (.engineOperationComplete n) s = .next t ∧ Over s t core n rest ∧ t.mem.bytes = s.mem.bytes ∧
      ∀ z r b, b < 256 → r < 64 → z < 16 → readByte t.mem.tiles (tilePlace core z r b) =
        if z = f.zd.toNat ∧ o.active.getLsbD (r / 2) then 0 else readByte s.mem.tiles (tilePlace core z r b)) ∧
  (∀ n s core o rest h (f : TF), AtHead s core n o rest → o.instr = .mmov h f → f.sub = 0 → Memory.wf s.mem.tiles = true →
    ∃ t, exec (.engineOperationComplete n) s = .next t ∧ Over s t core n rest ∧ t.mem.bytes = s.mem.bytes ∧
      ∀ z r b, b < 256 → r < 64 → z < 16 → readByte t.mem.tiles (tilePlace core z r b) =
        if z = f.zd.toNat ∧ o.active.getLsbD (r / 2) then readByte s.mem.tiles (tilePlace core f.zs.toNat r b)
        else readByte s.mem.tiles (tilePlace core z r b)) ∧
  (∀ n s core o rest h (f : GF), AtHead s core n o rest → o.instr = .rcfence h f →
    ∃ t, exec (.engineOperationComplete n) s = .next t ∧ Over s t core n rest ∧ t.mem = s.mem ∧ (coreOf t core).records = []) ∧
  (∀ n s core o rest h (f : TF), AtHead s core n o rest → o.instr = .mma h f → (o.c.getD 0 0).toNat.testBit 31 = true →
    (o.c.getD 0 0).toNat % 65536 = 0xFFFF → o.arrayDue ≤ s.power.arrayClocks → dutyAdmits (s.power.duty.getD 0 16) s.clock = true →
    ∃ t o', exec (.mmaConsumedSignal n) s = .next t ∧ (coreOf t core).ops = o' :: rest ∧ o'.consumed = true ∧ o'.flight = n ∧
      o'.instr = o.instr ∧ t.mem.bytes = s.mem.bytes ∧ t.flights = s.flights) ∧
  (∀ part s p r, part < 8 → partReady s part = true → (partOf s part).partials = p :: r → p.ordered = false →
    findOp s p.op = none → allMonitors s = [] →
    onPackage ((List.range (elemBytes p.format * p.values.length)).map (p.place + ·)) →
    (∀ i, i < elemBytes p.format * p.values.length → sharedPlace s (p.place + i) = false) →
    ∃ t, exec (.nearCachePartial part) s = .next t ∧ (partOf t part).partials = r ∧
      let ps := (List.range (elemBytes p.format * p.values.length)).map (p.place + ·)
      t.mem.bytes = writePlaces s.mem.bytes ps
        (addRows p.format (readPlaces s ps) ((p.values.map (toBytes (elemBytes p.format))).flatten))) ∧
  ∀ part s, 8 ≤ part → exec (.nearCachePartial part) s = .fault .noSuchUnit

namespace Sys2Proof.Claims
open Sys2Proof.Machine

/-- The issuing crew holds context `k` of the step sequencer; no active lane is in a transaction (R104, R238). -/
structure Sequences (i : Instr) (s : State) (w : Wave) (l k : Nat) (c : SeqCtx) : Prop where
  issues : Issues i s w
  first : (viewOf (controlOf i) s).act.head? = some l
  free : ∀ m ∈ (viewOf (controlOf i) s).act, (viewOf (controlOf i) s).inTx m = false
  holds : (viewOf (controlOf i) s).crew.seqCtx = some k
  ctx : seqAt s k = some c

/-- The instruction gives `x` in `n` registers of `dst` and makes context `k` into `q`; memory and other contexts stand. -/
def SeqGives (i : Instr) (s : State) (w : Wave) (dst : BitVec 8) (n x k : Nat) (q : SeqCtx) : Prop :=
  let v := viewOf (controlOf i) s
  ∃ t w' fl, Steps i s t w' fl ∧ fl.waits = 0 ∧ t.mem = s.mem ∧ w' = tagUp w (controlOf i).alloc.toNat ∧
    (∀ l, reaches v dst l → fieldValue (landAll w fl.writes) (v.win l) l dst n = x % 2 ^ (32 * n)) ∧
    seqAt t k = some q ∧ ∀ j, j ≠ k → seqAt t j = seqAt s j

/-- The record of `n` bytes at `va` can be read, and reads `bs`. -/
def RecordAt (s : State) (v : View) (va n : Nat) (bs : List Byte) : Prop :=
  spanCheck s v.copy permR va n = none ∧ engRead s v.core (v.number s) v.copy va n = .bytes s bs ∧ bs.length = n

/-- Check `n` of R108 fails for a tableau record. -/
def failsAt (bs : List Byte) (n : Nat) : Prop :=
  let s := tabS bs
  let kind := tabKind bs
  let nz := fun p i j => isZero64 (tabA bs p i j) = false
  let badDiag := fun p => ∃ i, 1 ≤ i ∧ i ≤ s ∧ nz p i i ∧ tabA bs p i i ≠ tabParam bs 1
  (n = 1 ∧ (s = 0 ∨ 16 < s ∨ 8 < tabQ bs ∨ 5 < tabD bs ∨ 1 < tabXm bs ∨ tabXd bs < 3 ∨ 8 < tabXd bs ∨ tabNl bs = 0 ∨
    7 < tabNl bs ∨ tabJmin bs < -3 ∨ 0 < tabJmin bs ∨ 2 < tabJmax bs ∨ tabRsv bs = true)) ∨
  (n = 2 ∧ ((∃ i, i < 6 ∧ dFinite (tabParam bs i) = false) ∨ (∃ i, i < (tabSize bs - 64) / 8 ∧ dFinite (tabCoef bs i) = false) ∨
    dLt 0 (tabParam bs 0) = false ∨ dLe (tabParam bs 0) dOne = false ∨ dLt 0 (tabParam bs 2) = false ∨
    dLt (tabParam bs 3) 0 = true ∨ dLt (tabParam bs 4) 0 = true)) ∨
  (n = 3 ∧ ∃ p i j, p < tabParts bs ∧ 1 ≤ i ∧ i < j ∧ j ≤ s ∧ nz p i j) ∨
  (n = 4 ∧ (((kind = 0 ∨ kind = 2) ∧ ∃ i, 1 ≤ i ∧ i ≤ s ∧ nz 0 i i) ∨ (kind = 1 ∧ badDiag 0) ∨ (kind = 2 ∧ badDiag 1) ∨
    ((kind = 1 ∨ kind = 2) ∧ dLt 0 (tabParam bs 1) = false))) ∨
  (n = 5 ∧ kind = 3 ∧ (s ≠ 1 ∨ nz 0 1 1 ∨ (fpCond .f64 0 (tabB bs 0 1) dOne).1 = false ∨ tabQ bs ≠ 0))

/-- The parts of an `odeinit` of the aligned record `bs` that names no frame descriptor. -/
structure Inits (h : Ctl) (f : GF) (s : State) (w : Wave) (l : Nat) (bs : List Byte) : Prop where
  issues : Issues (.odeinit h f) s w
  first : (viewOf h s).act.head? = some l
  aligned : (viewOf h s).opd l f.a 2 % 8 = 0
  idle : ∀ k c, (viewOf h s).crew.seqCtx = some k → seqAt s k = some c → c.state < 3 ∧ c.at_ = .idle
  record : RecordAt s (viewOf h s) ((viewOf h s).opd l f.a 2) 128 bs

/-- A run record that R110 or R278 refuses. -/
def Refused (s : State) (v : View) (c : SeqCtx) : Prop :=
  c.n = 0 ∨ (∃ x ∈ [c.t0, c.tEnd, c.h0, c.atol, c.rtol, c.epsT], dFinite x = false) ∨ dLt c.tEnd c.t0 = true ∨
  dLe c.h0 0 = true ∨ dLt c.atol 0 = true ∨ dLt c.rtol 0 = true ∨ dLt c.epsT 0 = true ∨ c.grid 0 = 0 ∨ c.grid 1 = 0 ∨
  c.grid 2 = 0 ∨ (c.ring = 0 ∧ c.ringEntries ≠ 0) ∨ (c.ring ≠ 0 ∧ isPow2 c.ringEntries = false) ∨ c.flags / 512 % 128 ≠ 0 ∨
  c.rf 0x78 1 / 16 % 16 ≠ 0 ∨ c.rf 0x79 7 ≠ 0 ∨
  (c.tileFlag = true ∧ (c.wide = true ∨ c.tileCount ≠ (c.n + 4095) / 4096 ∨ 16 < c.tileBase + 2 * c.tileCount)) ∨
  queueOf s v.crew.district c.queue = none ∨ 8 ≤ v.crew.task.depth ∨ ∃ p, p < 3 ∧ typeCount s v.crew.district ≤ c.taskType p

/-- The run begins: the lanes wait, the context is in state 3, and in tile mode the crew holds the core's tiles (R113, R279). -/
def Starts (i : Instr) (s : State) (w : Wave) (k : Nat) (c : SeqCtx) (wait : Wait) (one : Bool) (at_ : SeqAt) : Prop :=
  let v := viewOf (controlOf i) s
  let r := { c.regs with cause := 5, runSteps := 0 }
  ∃ t w' fl, Steps i s t w' fl ∧ fl.waits = laneMask v.act ∧ fl.writes = [] ∧ t.mem.bytes = s.mem.bytes ∧ w'.regs = w.regs ∧
    fibresMoved w w' v.act (fun _ fb => { fb with wait := wait, pc := v.pc, next := s.cur.next, flight := s.serial }) ∧
    (coreOf t s.cur.core).tileOwner = (if c.tileFlag then some w.id.crew else (coreOf s s.cur.core).tileOwner) ∧
    seqAt t k = some { c with
      state := 3
      regs := r
      shown := r
      oneStep := one
      flight := s.serial
      eval := none
      at_ := at_ }

/-- In every lane the instruction gives way to a fault with this cause. -/
def SeqFaults (i : Instr) (s : State) (cause : Nat) : Prop :=
  ∀ w, Issues i s w → (viewOf (controlOf i) s).act ≠ [] → (∀ m ∈ (viewOf (controlOf i) s).act, (viewOf (controlOf i) s).inTx m = false) →
    ∃ t w' fl, Steps i s t w' fl ∧ t.mem = s.mem ∧ t.seqs = s.seqs ∧
      parkedAt (tagUp w (controlOf i).alloc.toNat) w' (viewOf (controlOf i) s).pc
        ((viewOf (controlOf i) s).act.map fun l => (l, { cause := cause }))

end Sys2Proof.Claims

open Sys2Proof Sys2Proof.Machine Sys2Proof.Claims

/-- R105, R108, R109, R110, R277, R278. `tbload` gives the first check that fails, misalignment and a running context before the
record's own checks, records the code, and loads a record that passes, leaving state 2 with no step retained; `odeinit` claims or
reinitialises a context with code 0, and with the codes 1 to 4 leaves it alone. -/
def Sys2Proof.Claims.sequencerLoadsHold : Prop :=
  (∀ h (f : GF) s w l k c, Sequences (.tbload h f) s w l k c →
    let va := (viewOf h s).opd l f.a 2
    let coded := fun n => { c with regs := { c.regs with tbCode := n } }
    (va % 8 ≠ 0 → SeqGives (.tbload h f) s w f.dst 1 7 k (coded 7)) ∧
    (va % 8 = 0 → 3 ≤ c.state → SeqGives (.tbload h f) s w f.dst 1 6 k (coded 6)) ∧
    (va % 8 = 0 → c.state < 3 → c.at_ = .idle → ∀ hd bs, RecordAt s (viewOf h s) va 64 hd →
      RecordAt s (viewOf h s) va (tabSize hd) bs →
      (∀ n, failsAt bs n → (∀ m, m < n → ¬ failsAt bs m) → SeqGives (.tbload h f) s w f.dst 1 n k (coded n)) ∧
      ((∀ n, ¬ failsAt bs n) → SeqGives (.tbload h f) s w f.dst 1 0 k
        { coded 0 with
          state := 2
          tableau := bs
          frames := ⟨0, true⟩
          regs := { c.regs with tbCode := 0, initDone := false, bank := 0, retained := false } }))) ∧
  (∀ h (f : GF) s w l, Issues (.odeinit h f) s w → (viewOf h s).act.head? = some l →
    let va := (viewOf h s).opd l f.a 2
    let gives := fun x => GivesLater (.odeinit h f) 1 f.dst 1 (fun _ => x) 0 s
    (va % 8 ≠ 0 → gives 4) ∧
    (∀ k c, va % 8 = 0 → (viewOf h s).crew.seqCtx = some k → seqAt s k = some c → 3 ≤ c.state → gives 3)) ∧
  ∀ h (f : GF) s w l bs, Inits h f s w l bs →
    let v := viewOf h s
    let c := ctxOf w.id.crew bs
    let c0 := ctxOf w.id.crew (bs ++ copies 32 0)
    let gives := fun x => GivesLater (.odeinit h f) 1 f.dst 1 (fun _ => x) 0 s
    (Refused s v c → gives 2) ∧
    (c.frameAddr ≠ 0 → c.frameAddr % 8 ≠ 0 → gives 2) ∧
    (¬ Refused s v c → c.frameAddr = 0 → v.crew.seqCtx = none →
      (∀ i, i < 8 → seqAt s (s.cur.core / 4 * 8 + i) ≠ none) → gives 1) ∧
    (¬ Refused s v c → c.frameAddr = 0 → crewAt s w.id.crew ≠ none →
      (v.crew.seqCtx ≠ none ∨ ∃ i, i < 8 ∧ seqAt s (s.cur.core / 4 * 8 + i) = none) →
      ∃ t fl k, exec (.odeinit h f) s = .next t ∧ mget t.flights s.serial = some fl ∧ fl.waits = 0 ∧ t.mem = s.mem ∧
        (v.crew.seqCtx = some k ∨ (v.crew.seqCtx = none ∧ seqAt s k = none ∧ k / 8 = s.cur.core / 4)) ∧
        t.seqs = mset s.seqs k c0 ∧ crewAt t w.id.crew = some { v.crew with seqCtx := some k } ∧
        ∀ m, reaches v f.dst m → fieldValue (landAll w fl.writes) (v.win m) m f.dst 1 = 0)

/-- R119, R128, R279, R280, R281, R282. `oderun` and `odestep` give 8 in a context that is not in state 2 and `oderun` 9 for kind 3;
otherwise the run begins and the lanes wait. `odestat` reads the status word or a value; `odeq` writes the dense state and
gives the step's number, all ones outside the last step, and −2 in state 1. -/
def Sys2Proof.Claims.sequencerRunsHold : Prop :=
  (∀ h (f : GF) s w l k c, Sequences (.oderun h f) s w l k c →
    (c.state ≠ 2 → SeqGives (.oderun h f) s w f.dst 1 8 k c) ∧
    (c.state = 2 → tabKind c.tableau = 3 → SeqGives (.oderun h f) s w f.dst 1 9 k c) ∧
    (c.state = 2 → tabKind c.tableau ≠ 3 → c.at_ = .idle →
      (c.tileFlag = false ∨ (coreOf s s.cur.core).tileOwner = none ∨ (coreOf s s.cur.core).tileOwner = some w.id.crew) →
      Starts (.oderun h f) s w k c (.oderun f.dst) false .start)) ∧
  (∀ h (f : GF) s w l k c, Sequences (.odestep h f) s w l k c →
    (c.state ≠ 2 → SeqGives (.odestep h f) s w f.dst (if f.sub = 1 then 4 else 1) 8 k c) ∧
    (c.state = 2 → c.at_ = .idle →
      (c.tileFlag = false ∨ (coreOf s s.cur.core).tileOwner = none ∨ (coreOf s s.cur.core).tileOwner = some w.id.crew) →
      Starts (.odestep h f) s w k c (.odestep f.dst (decide (f.sub = 1))) true
        (if tabKind c.tableau = 3 then .frames else .start))) ∧
  (∀ h (f : GF) s w l k c, Sequences (.odestat h f) s w l k c →
    let r := if c.state = 3 then c.shown else c.regs
    let gives := fun x => SeqGives (.odestat h f) s w f.dst (if f.sub = 0 then 1 else 2) x k c
    (f.sub = 0 → gives (c.state + 2 ^ 8 * c.regs.cause + 2 ^ 12 * c.regs.tbCode + (if c.regs.armFailed then 2 ^ 16 else 0) +
      (if r.nanEvent then 2 ^ 19 else 0))) ∧
    (1 ≤ f.sub.toNat → c.state = 1 → gives 0) ∧
    (c.state ≠ 1 → (f.sub = 1 → gives r.t.toNat) ∧ (f.sub = 2 → gives r.h.toNat) ∧ (f.sub = 3 → gives r.steps) ∧
      (f.sub = 4 → gives r.rejects) ∧ (f.sub = 5 → gives r.newtons) ∧ (f.sub = 6 → gives r.err.toNat))) ∧
  ∀ h (f : GF) s w l k c, Sequences (.odeq h f) s w l k c → (viewOf h s).crew.binding = none →
    let tau := (viewOf h s).opd l f.a 2
    let va := (viewOf h s).opd l f.b 2
    (c.state = 1 → SeqGives (.odeq h f) s w f.dst 2 (2 ^ 64 - 2) k c) ∧
    (c.state ≠ 1 → spanCheck s (viewOf h s).copy permW va (c.n * c.esize) = none →
      ((c.regs.retained = false ∨ dLe c.regs.tOld.toNat tau = false ∨ dLe tau c.regs.t.toNat = false) →
        SeqGives (.odeq h f) s w f.dst 2 (2 ^ 64 - 1) k c) ∧
      ∀ e y0 x u, c.regs.retained = true → dLe c.regs.tOld.toNat tau = true → dLe tau c.regs.t.toNat = true →
        e = SeqEnv.mk k c ((crewAt s c.owner).getD (viewOf h s).crew) → readWork e s 3 = .ok s y0 →
        denseTo e c.regs.hA.toNat (1 - c.regs.bank) (dQuot tau c.regs.tOld.toNat c.regs.hA.toNat) va s y0 =
          .ok { s with mem := u } x →
        ∃ t w' fl, Steps (.odeq h f) s t w' fl ∧ fl.waits = 0 ∧ t.mem = u ∧
          ∀ m, reaches (viewOf h s) f.dst m →
            fieldValue (landAll w fl.writes) ((viewOf h s).win m) m f.dst 2 = c.regs.steps % 2 ^ 64)

/-- R104, R115, R116, R124, R275, R283, R284, R285. In a stage task `stgget` reads its field in every active lane and `stgput` stores a value
in the target's format at its element; an element that the target lacks has cause 19. `evarm` arms or disarms at once where no run
has begun, and otherwise leaves the change to the sequencer. A crew without a context takes cause 18. -/
def Sys2Proof.Claims.sequencerTasksAndEventsHold : Prop :=
  (∀ h (f : GF) s k c ev, (viewOf h s).crew.binding = some k → seqAt s k = some c → c.eval = some ev →
    let gives := fun n x => GivesLater (.stgget h f) 1 f.dst n (fun _ => x % 2 ^ (32 * n)) 0 s
    (f.sub = 0 → gives 1 ev.phase) ∧ (f.sub = 1 → gives 1 ev.stage) ∧ (f.sub = 2 → gives 1 ev.iter) ∧
    (f.sub = 3 → gives 1 ev.event) ∧ (f.sub = 4 → gives 2 ev.time.toNat) ∧ (f.sub = 5 → gives 2 c.regs.h.toNat) ∧
    (f.sub = 6 → gives 2 (dMul c.regs.h.toNat (tabParam c.tableau 1))) ∧
    (f.sub = 7 → gives 2 ((c.workArea + (if ev.phase = 2 then 4 else 0) * c.n * c.esize) % 2 ^ 64)) ∧
    (f.sub = 8 → gives 1 c.n) ∧ (f.sub = 9 → gives 1 (if c.wide then 1 else 0))) ∧
  (∀ h (f : GF) s w k c ev, Issues (.stgput h f) s w → (viewOf h s).crew.binding = some k → seqAt s k = some c →
    c.eval = some ev →
    let v := viewOf h s
    let src : Fmt := if f.dtype = 11 then .f64 else .f32
    let dst : Fmt := if ev.phase = 3 ∨ c.wide = true then .f64 else .f32
    let n := if dst = .f64 then 8 else 4
    let x := fun l => v.opd l f.b (if f.dtype = 11 then 2 else 1)
    let cv := fun l => if src = dst then (x l, 0) else fpCvt src dst .rne false (x l)
    let va := fun l => stgTarget c ev (v.opd l f.a 1)
    (∀ l ∈ v.act, if ev.phase = 3 then v.opd l f.a 1 = 0 else v.opd l f.a 1 < c.n) → ∀ (d : District) (ps : Nat → List Nat),
    districtAt s v.crew.district = some d → allMonitors s = [] → Memory.wf s.mem.bytes = true →
    let put := putStore d n va fun l => (cv l).1
    (∀ j l, v.act[j]? = some l → Served (laneState put v.act s j) v d l .home permW true (va l) n (ps j)) →
    ∃ fl m, exec (.stgput h f) s = .next { inFlight (.stgput h f) s w fl with mem := m } ∧ fl.waits = 0 ∧ fl.writes = [] ∧
      fl.flags = BitVec.ofNat 32 (v.act.foldl (fun a l => a ||| (cv l).2) 0) ∧ m.bytes = (v.act.foldl put s).mem.bytes ∧
      m.ob = s.mem.ob ∧ m.tiles = s.mem.tiles ∧ m.code = s.mem.code ∧ ∀ a, (∀ j, a ∉ ps j) → readByte m.bytes a = readByte s.mem.bytes a) ∧
  (∀ h (f : GF) s w k c ev, Issues (.stgput h f) s w → (viewOf h s).crew.binding = some k → seqAt s k = some c →
    c.eval = some ev → (viewOf h s).act ≠ [] →
    (∀ l ∈ (viewOf h s).act, if ev.phase = 3 then (viewOf h s).opd l f.a 1 ≠ 0 else c.n ≤ (viewOf h s).opd l f.a 1) →
    ∃ t w' fl, Steps (.stgput h f) s t w' fl ∧ t.mem = s.mem ∧ parkedAt (tagUp w h.alloc.toNat) w' (viewOf h s).pc
      ((viewOf h s).act.map fun l => (l, { cause := 19 }))) ∧
  (∀ h (f : GF) s w l k c, Sequences (.evarm h f) s w l k c →
    let e := f.sub.toNat % 4
    let mask : BitVec 2 := f.sub.extractLsb' 2 2
    let stop := f.sub.getLsbD 4
    let type := (viewOf h s).opd l f.a 1
    let typed := mask = 0 ∨ type < 65536 ∧ type < typeCount s (viewOf h s).crew.district
    let off := { c with events := c.events.set e { eventAt c e with mask := 0 } }
    let pended := { c with pend := c.pend ++ [⟨e, BitVec.ofNat 32 type, mask, stop, s.serial⟩] }
    let pends := fun q => ∃ t w' fl, Steps (.evarm h f) s t w' fl ∧ fl.waits ≠ 0 ∧ t.mem = s.mem ∧ seqAt t k = some q
    (¬ typed → SeqFaults (.evarm h f) s 8) ∧
    (typed → c.state = 3 → pends pended) ∧
    (typed → c.state ≠ 3 → c.at_ = .idle → mask = 0 → SeqGives (.evarm h f) s w 0xFF 1 0 k off) ∧
    (typed → c.state ≠ 3 → c.at_ = .idle → mask ≠ 0 → c.state = 1 ∨ c.regs.initDone = false →
      SeqGives (.evarm h f) s w 0xFF 1 0 k { c with events := c.events.set e ⟨BitVec.ofNat 32 type, mask, stop, 0⟩ }) ∧
    (typed → c.state ≠ 3 → c.at_ = .idle → mask ≠ 0 → c.state ≠ 1 → c.regs.initDone = true →
      pends { pended with at_ := .outside })) ∧
  (∀ h (f : GF) s, (viewOf h s).crew.seqCtx = none →
    (∀ i ∈ [Instr.tbload h f, .oderun h f, .odestep h f, .odestat h f], SeqFaults i s 18) ∧
    (f.sub.extractLsb' 2 2 = 0#2 → SeqFaults (.evarm h f) s 18) ∧
    ((viewOf h s).crew.binding = none → SeqFaults (.odeq h f) s 18 ∧ SeqFaults (.stgget h f) s 18 ∧ SeqFaults (.stgput h f) s 18))

namespace Sys2Proof.Claims
open Sys2Proof.Machine

/-- A context whose owner runs, in a partition that does (R14, R104). -/
structure Works (s : State) (k : Nat) (c : SeqCtx) (e : SeqEnv) : Prop where
  key : k < 1536
  ctx : seqAt s k = some c
  crew : crewAt s c.owner = some e.crew
  env : e = ⟨k, c, e.crew⟩
  runs : partRuns s (partOfCore (c.owner / 16)) = true
  moves : c.state ≠ 4

/-- Lane `l` of the wave at this slot, whose crew owns the context, has gone on with `words` in its destination. -/
def Returned (s t : State) (c : SeqCtx) (words : Bool → List Nat) : Prop :=
  ∀ slot w, slot < 64 → waveAt s (c.owner / 16) slot = some w → w.id.crew = c.owner →
    rising w.fibres = true → (∀ m g, mget w.fibres m = some g → m < 32 ∧ ∀ e wide,
      (g.wait = .oderun e ∧ wide = false) ∨ g.wait = .odestep e wide → regClass e = .vec →
        g.win + e.toNat + (words wide).length ≤ 512) →
    ∃ w', waveAt t (c.owner / 16) slot = some w' ∧ ∀ l f dst wide, mget w.fibres l = some f →
      (f.wait = .oderun dst ∧ wide = false) ∨ f.wait = .odestep dst wide →
      (∃ f', mget w'.fibres l = some f' ∧ f'.pc = f.next ∧ f'.win = f.win ∧ f'.preds = f.preds ∧ ∃ u, f'.wait = .paced u) ∧
      (regClass dst = .vec →
        fieldValue w' f.win l dst (words wide).length = ofWords ((words wide).map (BitVec.ofNat 32)))

end Sys2Proof.Claims

open Sys2Proof Sys2Proof.Machine Sys2Proof.Claims

/-- R114, R118, R119, R131, R280. Each stage task is appended to the stage queue in turn, x fastest, while the queue has room; an evaluation
goes on when its tasks have ended; at a boundary the run ends at t_end with cause 0 and at the step limit with cause 3, and after a
failed task with cause 4; it then returns its word to the lanes. A chunk of frames is returned once its frames are there and no arming
is pending. The step factor is the first power of two that the error admits. -/
def Sys2Proof.Claims.sequencerEventsHold : Prop :=
  (∀ s k c e v q, Works s k c e → c.eval = some v → queueOf s e.crew.district c.queue = some q →
    let j := v.appended
    let x := j % c.grid 0
    let y := j / c.grid 0 % c.grid 1
    let z := j / (c.grid 0 * c.grid 1)
    (v.appended < v.total → q.appended - q.placed < q.entries → ∃ t, exec (.stageTaskAppend k) s = .next t ∧
      seqAt t k = some { c with eval := some { v with appended := j + 1 } } ∧
      queueOf t e.crew.district c.queue = some { q with
        waiting := q.waiting ++ [⟨none, some k⟩]
        appended := q.appended + 1 } ∧
      ∀ ps, placesWith s e.crew.district permW ((q.ring.toNat + 16 * (q.appended % q.entries)) % 2 ^ 64) 16 = some ps →
        t.mem.bytes = writePlaces s.mem.bytes ps (taskBytes v.type x y z (e.crew.task.depth + 1))) ∧
    (v.appended = v.total ∨ q.entries ≤ q.appended - q.placed → exec (.stageTaskAppend k) s = .next s)) ∧
  (∀ type x y z depth, type < 65536 → x < 2 ^ 32 → y < 2 ^ 32 → z < 2 ^ 32 → depth < 16 →
    taskOf (taskBytes type x y z depth) = ⟨type, BitVec.ofNat 32 x, BitVec.ofNat 32 y, BitVec.ofNat 32 z, depth⟩) ∧
  (∀ s k c e, Works s k c e →
    let done := fun (word : Nat) => ∃ t, exec (.evaluationComplete k) s = .next t ∧ t.mem = s.mem ∧ t.crews = s.crews ∧
      seqAt t k = some { c with
        state := 2
        regs := { c.regs with cause := word }
        shown := { c.regs with cause := word }
        eval := none
        at_ := .leave word 0 0 }
    (∀ v, c.eval = some v → c.at_ ≠ .idle → c.at_ ≠ .frames → v.ended < v.total → exec (.evaluationComplete k) s = .next s) ∧
    (∀ v i p, c.eval = some v → c.at_ = .rhs i p → v.ended = v.total → (v.failed = true → done 4) ∧
      (v.failed = false → v.access = true → done 6)) ∧
    (c.eval = none → c.at_ = .boundary → dLt c.regs.t.toNat c.tEnd = false → done 0) ∧
    (c.eval = none → c.at_ = .boundary → dLt c.regs.t.toNat c.tEnd = true → c.oneStep = false → c.maxSteps ≠ 0 →
      c.regs.runSteps = c.maxSteps → done 3) ∧
    (c.eval = none → c.at_ = .boundary → dLt c.regs.t.toNat c.tEnd = true →
      (c.oneStep = true ∨ c.maxSteps = 0 ∨ c.regs.runSteps ≠ c.maxSteps) → replayMode s e.crew.district = 0 →
      ∃ t, exec (.evaluationComplete k) s = .next t ∧ t.mem = s.mem ∧
        seqAt t k = some { c with
          shown := c.regs
          at_ := .attempt
          eval := none }) ∧
    (∀ word info f0, c.eval = none → c.at_ = .leave word info f0 → c.pend = [] →
      ∃ t, exec (.evaluationComplete k) s = .next t ∧ t.mem.bytes = s.mem.bytes ∧
        seqAt t k = some { c with
          at_ := .idle
          accDone := []
          old := none
          eval := none } ∧
        Returned s t c fun wide => if wide then [word, info, f0, f0 / 2 ^ 32] else [word])) ∧
  (∀ s k c e bs, Works s k c e → c.at_ = .frames → c.state = 3 → c.regs.runSteps ≠ 0 → seqRead e s c.countsAt 8 = .ok s bs →
    let f0 := c.frames.f0.toNat
    let closed := 2 ^ 63 ≤ ofBytes bs
    let n := ofBytes bs % 2 ^ 63
    let len := min c.chunk (n - f0)
    (¬ closed → n < f0 + c.chunk + c.look → exec (.frameChunkRelease k) s = .next s) ∧
    let info := len + 2 ^ 16 * min c.look (n - f0 - len)
    (closed ∨ f0 + c.chunk + c.look ≤ n → c.pend ≠ [] → ∃ t r, exec (.frameChunkRelease k) s = .next t ∧ t.mem = s.mem ∧
      t.waves = s.waves ∧ r = { c.regs with cause := if len = 0 then 0 else c.regs.cause } ∧
      seqAt t k = some { c with
        state := 2
        regs := r
        shown := r
        at_ := .leave (if len = 0 then 0 else 5) info f0
        eval := none }) ∧
    (closed ∨ f0 + c.chunk + c.look ≤ n → c.pend = [] → ∃ t r, exec (.frameChunkRelease k) s = .next t ∧ t.mem.bytes = s.mem.bytes ∧
      r = { c.regs with cause := if len = 0 then 0 else c.regs.cause } ∧
      seqAt t k = some { c with
        state := 2
        regs := r
        shown := r
        at_ := .idle
        accDone := []
        old := none
        eval := none } ∧
      Returned s t c fun wide => if wide then [if len = 0 then 0 else 5, info, f0, f0 / 2 ^ 32]
        else [if len = 0 then 0 else 5])) ∧
  (∀ k s, 1536 ≤ k → exec (.stageTaskAppend k) s = .fault .noSuchUnit ∧ exec (.evaluationComplete k) s = .fault .noSuchUnit ∧
    exec (.frameChunkRelease k) s = .fault .noSuchUnit) ∧
  ∀ bs err, tabQ bs ≠ 0 → tabJmin bs ≤ 0 →
    let fits := fun j : Int => dLe (dMul (factorPow bs j) err) dOne = true
    ∃ j : Int, tabJmin bs ≤ j ∧ j ≤ tabJmax bs ∧ stepFactor bs err = dPow2 j ∧ (fits j ∨ j = tabJmin bs) ∧
      ∀ i : Int, j < i → i ≤ tabJmax bs → ¬ fits i

namespace Sys2Proof.Claims
open Sys2Proof.Machine

/-- `h` is the one access that waits anywhere, at this core; its lane waits in wave `w` with fibre `f` and flight `fl`, and it is a
load in no transaction that no replay log records; no monitor is set (R35, R54, R69, R304). -/
structure OneLoad (s : State) (core : Nat) (h : Held) (sg : Bool) (w : Wave) (f : Fibre) (fl : Flight) : Prop where
  only : ∀ c x, (c, x) ∈ s.cores → x.log = [] ∧ x.held = if c = core then [h] else []
  here : (mget s.cores core).isSome = true
  keyed : rising s.cores = true
  load : h.req.op = .load sg
  plain : h.req.code = 0
  single : h.req.serial = false
  unwatched : allMonitors s = []
  alone : s.hostWrites = []
  live : h.req.core < 1024
  wave : waveAt s h.req.core h.req.slot = some w
  fibre : mget w.fibres h.req.lane = some f
  waits : f.wait = .remote ∨ ∃ n, f.wait = .hold n
  flight : f.flight = h.req.flight ∧ mget s.flights h.req.flight = some fl

/-- The load has been performed: its bytes join the flight, and its lane goes on. -/
def LoadDone (s t : State) (core : Nat) (h : Held) (sg : Bool) (ps : List Nat) (f : Fibre) (fl : Flight) : Prop :=
  t.mem.bytes = s.mem.bytes ∧ (coreOf t core).held = [] ∧
    (∃ w' f', waveAt t h.req.core h.req.slot = some w' ∧ mget w'.fibres h.req.lane = some f' ∧ f'.pc = f.next ∧
      (if f.wait = .remote then ∃ u, f'.wait = .paced u else f'.wait = .ready) ∧ f'.win = f.win ∧ f'.preds = f.preds) ∧
    ∃ fl', mget t.flights h.req.flight = some fl' ∧ fl'.writes = fl.writes ++
      h.req.dst.zip (wordsOf (regsFor h.req.size) (loadValue h.req.size sg (ofBytes (readPlaces s ps)))) ∧
      ∀ l, l < 32 → fl'.waits.getLsbD l = (fl.waits.getLsbD l && l ≠ h.req.lane)

/-- A load that its home performs now, at these places. -/
structure HomeServes (s : State) (h : Held) (d : District) (ps : List Nat) : Prop where
  district : districtAt s h.req.district = some d
  there : access s d (.near (dieOfCore h.req.core)) permR h.req.va.toNat h.req.size = .places ps
  marked : markAccess s d false h.req.va.toNat h.req.size = s
  ready : anyReset s d h.req.va.toNat h.req.size = false
  unowned : engineOwns s ps = false
  clean : poisoned s ps = false
  unshared : ∀ p ∈ ps, sharedPlace s p = false

/-- Bytes that an access from outside the compute dies reaches: nothing holds it at its home (R51, R77, R379). -/
structure Arrives (s : State) (a : OutsideAccess) (write : Bool) (ps : List Nat) : Prop where
  size : a.size ∈ [1, 2, 4, 8, 16]
  space : a.ia < 2 ^ 52
  ready : a.ia / 2 ^ 48 < 8 ∧ partReady s (a.ia / 2 ^ 48) = true ∨
    a.ia / 2 ^ 48 = 8 ∧ partReady s (a.ia / 2 ^ 32 % 8) = true
  there : reachAll (outsideBytes s a write) = .places ps
  marked : markLeaf s a.ctx a.ia write = s
  unowned : engineOwns s ps = false
  clean : poisoned s ps = false
  unshared : ∀ p ∈ ps, sharedPlace s p = false
  unwatched : allMonitors s = []

/-- The effect of an arriving access: its answer, and the bytes that it writes. -/
def Arrival (run : OutsideAccess → State → Host.Outcome State Fault Refusal) : Prop :=
  ∀ a s ps, Arrives s a (decide (a.kind ≠ .load)) ps →
    let old := readPlaces s ps
    let w := 8 * a.size
    let gives := fun bs (m : Memory) => ∃ t, run a s = .next t ∧ t.reply = ⟨bs, 0⟩ ∧ t.mem.bytes = m ∧ t.waves = s.waves ∧
      t.crews = s.crews
    (a.kind = .load → gives (toBytes a.size (ofBytes old)) s.mem.bytes) ∧
    (a.kind = .store → gives [] (writePlaces s.mem.bytes ps (toBytes a.size a.data.toNat))) ∧
    (∀ k, a.kind = .atomic k → k.toNat < 12 → a.size = 4 ∨ a.size = 8 → a.ia % a.size = 0 →
      gives (toBytes a.size (ofBytes old)) (writePlaces s.mem.bytes ps
        (toBytes a.size (atomResult k.toNat (BitVec.ofNat w (ofBytes old)) (BitVec.ofNat w a.data.toNat)).toNat))) ∧
    (a.kind = .cas → a.size ∈ [4, 8, 16] → a.ia % a.size = 0 → gives (toBytes a.size (ofBytes old))
      (if ofBytes old = a.cmp.toNat % 2 ^ w then writePlaces s.mem.bytes ps (toBytes a.size (a.data.toNat % 2 ^ w)) else s.mem.bytes))

end Sys2Proof.Claims

open Sys2Proof Sys2Proof.Machine Sys2Proof.Claims

/-- R35, R51, R69, R77. A remote load returns the bytes at its home once its route is up, and a load that waited for an engine's lines
once they are written: its lane goes on. An access that arrives acts at its home at once and is answered; one of a size or region
that its home does not serve is refused, and one whose partition is in reset must come again. -/
def Obligations.ArrivingAccesses : Prop :=
  (∀ s core h sg w f fl ps, OneLoad s core h sg w f fl → h.why = .remote → (node : Option Nat) → outsideOf s h.req = some (node, ps) →
    (match node with
      | some n => routeUp s n = true
      | none => s.manage.linkUp = true) → fl.due ≤ s.clock → s.fabric.writes = [] → poisoned s ps = false →
    (∀ p ∈ ps, sharedPlace s p = false) →
    ∃ t, exec (.remoteReply h.req.flight) s = .next t ∧ LoadDone s t core h sg ps f fl) ∧
  (∀ s n, (∀ c x, (c, x) ∈ s.cores → ∀ h ∈ x.held, h.why ≠ .remote ∨ h.req.flight ≠ n) → exec (.remoteReply n) s = .next s) ∧
  (∀ s core h sg w f fl d ps, OneLoad s core h sg w f fl → h.why = .engine → HomeServes s h d ps →
    ∃ t, exec (.directoryRecall h.req.flight) s = .next t ∧ LoadDone s t core h sg ps f fl) ∧
  Arrival (fun a s => exec (.arrivingRemoteAccess a) s) ∧
  (∀ app, app < 64 → Arrival fun a s => exec (.processorChipletAccess app a) s) ∧
  (∀ app a s, 64 ≤ app → exec (.processorChipletAccess app a) s = .fault .noSuchUnit) ∧
  (∀ a s, a.size ∉ [1, 2, 4, 8, 16] ∨ 2 ^ 52 ≤ a.ia ∨ (∃ k, a.kind = .atomic k ∧ 12 ≤ k.toNat) →
    exec (.arrivingRemoteAccess a) s = .next { s with reply := ⟨[], 1⟩ }) ∧
  ∀ a s, a.kind = .load → a.size ∈ [1, 2, 4, 8, 16] → a.ia / 2 ^ 48 < 8 → partReady s (a.ia / 2 ^ 48) = false →
    exec (.arrivingRemoteAccess a) s = .next { s with reply := ⟨[], 2⟩ }

/-- R429, R431, R432, R433, R434, R435. A remote store is performed at its home and acknowledged once its route is up; after 100 ms with
every port of the route down the writes in flight are discarded and reported. A retry is counted; a port comes up only when the node number is set and a
route names it, and its readiness bit follows it. -/
def Obligations.PortsAndRoutes : Prop :=
  (∀ s n r ps, mget s.fabric.writes n = some r → r.req.op = .store → r.req.line = false → outsideOf s r.req = some (some r.node, ps) →
    routeUp s r.node = true → r.due ≤ s.clock → remoteBehind s n (ps.map lineOf) = false → allMonitors s = [] →
    rising s.fabric.writes = true → (∀ p ∈ ps, hostPlace 0 ≤ p → 2 ^ 65 ≤ p) →
    ∃ t, exec (.remoteWriteAck n) s = .next t ∧ mget t.fabric.writes n = none ∧
      (∀ m, m ≠ n → mget t.fabric.writes m = mget s.fabric.writes m) ∧
      t.mem.bytes = writePlaces s.mem.bytes ps (toBytes r.req.size r.req.data.toNat)) ∧
  (∀ s n, mget s.fabric.writes n = none → exec (.remoteWriteAck n) s = .next s) ∧
  (∀ s n r, mget s.fabric.writes n = some r → routeUp s r.node = false → exec (.remoteWriteAck n) s = .next s) ∧
  (∀ s node, routePorts s node ≠ [] →
    (∀ i ∈ routePorts s node, (portAt s i).up = false ∧ (portAt s i).downSince + 125000000 ≤ s.clock) →
    (∀ c x, (c, x) ∈ s.cores → x.held = []) → rising s.fabric.writes = true →
    (∃ n r, mget s.fabric.writes n = some r ∧ r.node = node) →
    ∃ t, exec (.routeDownTimeout node) s = .next t ∧
      (∀ n r, mget s.fabric.writes n = some r → mget t.fabric.writes n = if r.node = node then none else some r) ∧
      mkeys t.waves = mkeys s.waves ∧ t.crews = s.crews) ∧
  (∀ s node, (routePorts s node = [] ∨ ∃ i ∈ routePorts s node, (portAt s i).up = true ∨ s.clock < (portAt s i).downSince + 125000000) →
    exec (.routeDownTimeout node) s = .next s) ∧
  (∀ s i, i < 18 → ∃ t, exec (.flitRetry i) s = .next t ∧ t = { s with fabric := t.fabric } ∧
    portAt t i = { portAt s i with retries := (portAt s i).retries + 1 } ∧ ∀ j, j ≠ i → portAt t j = portAt s j) ∧
  (∀ s i peer, i < 18 → s.fabric.nodeSet = true → (∃ e ∈ s.fabric.routes, e.2.getLsbD i = true) →
    ∃ t, exec (.portLinkChange i true peer) s = .next t ∧ portAt t i = { portAt s i with
      up := true
      peer := peer % 65536 } ∧ t.secure.readiness = s.secure.readiness ||| 1#64 <<< (19 + i)) ∧
  (∀ s i peer, i < 18 → s.fabric.nodeSet = false ∨ (∀ e ∈ s.fabric.routes, e.2.getLsbD i = false) →
    exec (.portLinkChange i true peer) s = .next s) ∧
  (∀ s i peer, i < 18 → ∃ t, exec (.portLinkChange i false peer) s = .next t ∧ portAt t i = { portAt s i with
    up := false
    peer := 0x1FFF
    downSince := if (portAt s i).up then s.clock else (portAt s i).downSince } ∧
    t.secure.readiness = s.secure.readiness &&& ~~~(1#64 <<< (19 + i))) ∧
  (∀ s i up peer, 18 ≤ i → exec (.flitRetry i) s = .fault .noSuchUnit ∧ exec (.portLinkChange i up peer) s = .fault .noSuchUnit) ∧
  ∀ s up, ∃ t, exec (.hostLinkChange up) s = .next t ∧ t = { s with manage := { s.manage with linkUp := up } }

namespace Sys2Proof.Claims
open Sys2Proof.Machine

/-- A word of the command register: the action, a wave slot and a lane mask (R362). -/
def cmdWord (action slot : Nat) (mask : W32) : W64 := BitVec.ofNat 64 (action + 2 ^ 4 * slot + 2 ^ 16 * mask.toNat)

/-- Lane `l` is parked and the command names it. -/
def commanded (w : Wave) (mask : W32) (l : Nat) (f : Fibre) : Prop :=
  mask.getLsbD l = true ∧ mget w.fibres l = some f ∧ f.wait = .parked

/-- The command acts as `g` and `x` on the fibre and the lane slot of each parked lane that it names, and leaves all else alone. -/
def Resumes (i : Instr) (s : State) (core slot : Nat) (mask : W32) (g : Lane → Fibre → Nat → Fibre) (x : Lane → Lane) : Prop :=
  ∀ w, core < 768 → slot < 64 → waveAt s core slot = some w → (∃ l f, commanded w mask l f) →
    ∃ t w', exec i s = .next t ∧ waveAt t core slot = some w' ∧ t.mem = s.mem ∧ t.crews = s.crews ∧ t.flights = s.flights ∧
      w'.regs = w.regs ∧
      (∀ l f, commanded w mask l f → ∃ u f', mget w'.fibres l = some f' ∧ f' = { g (laneAt w l) f u with path := f'.path } ∧
        laneAt w' l = x (laneAt w l)) ∧
      ∀ l, (∀ f, ¬ commanded w mask l f) → mget w'.fibres l = mget w.fibres l ∧ laneAt w' l = laneAt w l

/-- Crew `k` and its gang have been ended by the fault domain with this status: every fibre of their waves quits (R16, R34). -/
def DomainEnds (s t : State) (k : Nat) (c : Crew) (status : Nat) : Prop :=
  t.districts.map Prod.fst = s.districts.map Prod.fst ∧
  ∀ j b, crewAt s j = some b → j = k ∨ (c.gang ≠ none ∧ b.gang = c.gang) → b.ending = false →
    crewAt t j = some { b with
      endKind := 2
      endStatus := status % 1024 } ∧
    ∀ slot w, slot < 128 → waveAt s (j / 16) slot = some w → w.id.crew = j →
      ∃ w', waveAt t (j / 16) slot = some w' ∧ ∀ l f, mget w.fibres l = some f →
        ∃ f', mget w'.fibres l = some f' ∧ f'.wait = .quit (s.clock + 2)

/-- Nothing of crew `k` is left to do (R16, R43). -/
structure Finished (s : State) (k : Nat) : Prop where
  waves : ∀ e ∈ s.waves, wkCore e.1 = k / 16 → e.2.id.crew = k → e.2.ended = true
  ops : ∀ o ∈ (coreOf s (k / 16)).ops, o.crew = k → o.saved ≠ none
  flights : ∀ f ∈ s.flights, f.2.core = k / 16 → ∀ e ∈ s.waves, wkCore e.1 = k / 16 → e.2.id.crew = k → wkSlot e.1 ≠ f.2.slot
  logs : ∀ c ∈ s.cores, c.2.log = []
  writes : s.fabric.writes = []
  unwatched : allMonitors s = []

end Sys2Proof.Claims

open Sys2Proof Sys2Proof.Machine Sys2Proof.Claims

/-- R16, R34, R42, R43, R45. A crew with nothing left in flight readies its completion record, one with a wave left does not; a record
is posted while its district's queue has room, and then its core is notified and the crew's slots are free; the fault domain ends a
crew and its gang with kind 2 and status 0, and a saved crew that it has ended posts its record once nothing of it is in flight. -/
def Sys2Proof.Claims.crewsEndHold : Prop :=
  (∀ s k c d, k < 12288 → crewAt s k = some c → c.ending = false → Finished s k → districtAt s (c.district % 2 ^ 32) = some d →
    ∃ t, exec (.crewEnd k) s = .next t ∧ t.mem.bytes = s.mem.bytes ∧ t.waves = s.waves ∧ crewAt t k = some { c with ending := true } ∧
      districtAt t (c.district % 2 ^ 32) = some { d with evWaiting := d.evWaiting ++ [⟨toBytes 4 (c.endKind % 16 * 2 ^ 28 +
        c.rank % 4 * 2 ^ 26 + c.endStatus % 1024 * 2 ^ 16 + c.task.type % 65536) ++ toBytes 4 c.task.x.toNat ++
        toBytes 4 c.task.y.toNat ++ toBytes 4 c.task.z.toNat, c.dispatcher, c.launch, c.endKind, k, 0⟩] }) ∧
  (∀ s k c e, k < 12288 → crewAt s k = some c → e ∈ s.waves → wkCore e.1 = k / 16 → e.2.id.crew = k → e.2.ended = false →
    exec (.crewEnd k) s = .next s) ∧
  (∀ s n, mget s.saved n = none → exec (.crewEnd (12288 + n)) s = .next s) ∧
  (∀ s n x d, mget s.saved n = some x → (∀ e ∈ x.waves, e.2.fibres = []) → x.crew.endKind = 2 →
    (∀ c ∈ s.cores, ∀ o ∈ c.2.ops, o.saved ≠ some n) → rising s.saved = true →
    districtAt s (x.crew.district % 2 ^ 32) = some d →
    ∃ t b, exec (.crewEnd (12288 + n)) s = .next t ∧ mget t.saved n = none ∧
      (x.seq = none → ∀ m, m ≠ n → mget t.saved m = mget s.saved m) ∧ districtAt t (x.crew.district % 2 ^ 32) = some b ∧
      b.evWaiting = d.evWaiting ++
        [⟨completionBytes x.crew.task 2 x.crew.rank x.crew.endStatus, x.crew.dispatcher, x.crew.launch, 2, noCore, 0⟩]) ∧
  (∀ s n d e rest, districtAt s n = some d → d.evWaiting = e :: rest →
    let at_ := (blkNat d 0x068 8 + 16 * (d.evPosted % blkNat d 0x070 4)) % 2 ^ 64
    (d.evPosted - d.evConsumed < blkNat d 0x070 4 → ∃ t b, exec (.completionRecordPost n) s = .next t ∧ districtAt t n = some b ∧
      b.evWaiting = rest ∧ b.evPosted = d.evPosted + 1 ∧ b.evConsumed = d.evConsumed ∧
      (coreOf t e.core).notices = ringPost (coreOf s e.core).notices
        (toBytes 1 3 ++ toBytes 1 0 ++ toBytes 2 0 ++ toBytes 4 0 ++ toBytes 8 d.evPosted) ∧
      (e.kind = 1 → t.mem = (writeFor s n at_ e.bytes).mem ∧ t.crews = s.crews) ∧
      (e.kind ≠ 1 → rising s.crews = true → ∀ c, crewAt s e.crew = some c → crewAt t e.crew = none ∧
        (∀ k, k ≠ e.crew → crewAt t k = (crewAt s k).map fun x =>
          { x with binding := if x.binding = c.seqCtx then none else x.binding }) ∧
        (∀ x ∈ t.waves, ¬ (wkCore x.1 = e.crew / 16 ∧ x.2.id.crew = e.crew)))) ∧
    (blkNat d 0x070 4 ≤ d.evPosted - d.evConsumed → exec (.completionRecordPost n) s = .next s)) ∧
  (∀ s k c, k < 12288 → crewAt s k = some c → ∃ t, exec (.faultDomainEndCrew k) s = .next t ∧ DomainEnds s t k c 0) ∧
  ∀ s n x, mget s.saved n = some x → x.crew.gang = none →
    ∃ t y, exec (.faultDomainEndCrew (12288 + n)) s = .next t ∧ mget t.saved n = some y ∧
      (∀ m, m ≠ n → mget t.saved m = mget s.saved m) ∧ t.districts = s.districts ∧
      y.crew = { x.crew with
        endKind := 2
        endStatus := 0 } ∧
      ∀ i w, rising x.waves = true → mget x.waves i = some w → rising w.fibres = true → ∃ w', mget y.waves i = some w' ∧ w'.fibres = []

/-- R34, R44, R45, R249, R294, R361, R362. The oldest waiting notification enters a ring with room; a write of the ring head moves it over entries
that are there. The supervisor core acts on a completion record before the head passes it. Its commands resume parked lanes at TRAPPC
with their trap registers or at the resume PC, end them, pass them to the fault domain, and post replies; no other lane changes. -/
def Sys2Proof.Claims.noticesAndCommandsHold : Prop :=
  (∀ s core, core < 768 → ∃ t, exec (.notificationPost core) s = .next t ∧ t = { s with cores := t.cores } ∧
    let r := (coreOf s core).notices
    (∀ e es, r.waiting = e :: es → (r.tail + 2 ^ 64 - r.head) % 2 ^ 64 < 64 → coreOf t core = { coreOf s core with
      notices := { r with
        slots := mset r.slots (r.tail % 64) e
        tail := (r.tail + 1) % 2 ^ 64
        waiting := es } }) ∧
    (r.waiting = [] ∨ 64 ≤ (r.tail + 2 ^ 64 - r.head) % 2 ^ 64 → coreOf t core = coreOf s core) ∧
    ∀ c, c ≠ core → coreOf t c = coreOf s c) ∧
  (∀ s core value, core < 768 →
    let r := (coreOf s core).notices
    let n := (value.toNat + 2 ^ 64 - r.head) % 2 ^ 64
    let there := (r.tail + 2 ^ 64 - r.head) % 2 ^ 64
    (there < n → exec (.notificationRingHeadWrite core value) s = .next s) ∧
    (n ≤ there → (∀ i, i < n → ∀ bs, mget r.slots ((r.head + i) % 64) = some bs → bs.headD 0 ≠ 3) →
      ∃ t, exec (.notificationRingHeadWrite core value) s = .next t ∧ t = { s with cores := t.cores } ∧
        coreOf t core = { coreOf s core with notices := { r with head := value.toNat } })) ∧
  (∀ s core bs n e rest d, core < 768 →
    let r := (coreOf s core).notices
    r.head < 2 ^ 64 → r.tail < 2 ^ 64 → r.head ≠ r.tail → mget r.slots (r.head % 64) = some bs → bs.headD 0 = 3 →
    (coreOf s core).acts = (n, e) :: rest → districtAt s n = some d →
    ∃ t, exec (.dependantRelease core) s = .next t ∧ coreOf t core = { coreOf s core with
      acts := rest
      notices := { r with head := (r.head + 1) % 2 ^ 64 } } ∧ t.mem = s.mem ∧
      districtAt t n = some { d with evConsumed := d.evConsumed + 1 }) ∧
  (∀ s core slot mask, Resumes (.resumeAtTrappc core (cmdWord 1 slot mask)) s core slot mask
    (fun x f u => { f with
      pc := x.trap.pc
      preds := BitVec.ofNat 8 (x.trap.pred.toNat % 128 + 128)
      win := x.trap.win.toNat
      age := 0
      fell := f.fell && decide (f.pc = x.trap.pc)
      wait := .paced u })
    fun x => { x with
      win := x.trap.win.toNat
      skipSpan := decide (x.trap.cause.toNat % 64 = 24) }) ∧
  (∀ s core slot mask, Resumes (.resumeAtResumePc core (cmdWord 2 slot mask)) s core slot mask
    (fun x f u => { f with
      pc := x.svc.resume
      age := 0
      fell := f.fell && decide (f.pc = x.svc.resume)
      wait := .paced u }) id) ∧
  (∀ s core slot mask w, core < 768 → slot < 64 → waveAt s core slot = some w → (∃ l f, commanded w mask l f) →
    ∃ t w', exec (.endFibre core (cmdWord 3 slot mask)) s = .next t ∧ waveAt t core slot = some w' ∧ t.mem = s.mem ∧
      (∀ l f, commanded w mask l f → ∃ f', mget w'.fibres l = some f' ∧ f'.wait = .quit (s.clock + 2) ∧
        ∀ k, k < 12 → ∃ p ∈ w'.sched.pend, p.target = .k k ∧ p.keep.getLsbD l = false ∧ p.value = 0 ∧ p.land = s.clock + 2) ∧
      ∀ l, (∀ f, ¬ commanded w mask l f) → mget w'.fibres l = mget w.fibres l) ∧
  (∀ s core slot mask w c l f, core < 768 → slot < 64 → waveAt s core slot = some w → commanded w mask l f →
    (∀ m g, commanded w mask m g → l ≤ m) → crewAt s w.id.crew = some c →
    ∃ t, exec (.passToFaultDomain core (cmdWord 4 slot mask)) s = .next t ∧
      DomainEnds s t w.id.crew c (laneAt w l).trap.cause.toNat) ∧
  (∀ s core slot l w f dst, core < 768 → slot < 64 → l < 32 → Asks s core slot l false dst w f →
    ∃ t, Answers (.postServiceReply core (cmdWord 5 slot (1#32 <<< l))) s t core slot l dst f (laneAt w l).svc.reply) ∧
  ∀ s core v, 768 ≤ core → ∀ i ∈ [Instr.notificationPost core, .notificationRingHeadWrite core v, .dependantRelease core,
    .resumeAtTrappc core v, .resumeAtResumePc core v, .endFibre core v, .passToFaultDomain core v, .postServiceReply core v],
    exec i s = .fault .noSuchUnit

namespace Sys2Proof.Claims
open Sys2Proof.Machine

/-- Queue `q` of district `d` is the one queue of partition `p` with records; it holds the one record `m`, has no reservation, and
nothing of the partition is saved or promoted. -/
structure OneHead (s : State) (p d q : Nat) (x : TaskQueue) (m : QueuedTask) : Prop where
  runs : schedulerRuns s p = true
  queue : queueOf s d q = some x
  here : x.part = p
  one : x.waiting = [m] ∧ x.reserved = [] ∧ x.promoted = false
  only : ∀ e ∈ allQueues s, e.2.2.part = p → e.2.2.promoted = false ∧ (e.2.2.waiting ≠ [] → e = (d, q, x))
  saved : s.saved = []
  keyed : rising s.districts = true ∧ ∀ k b, districtAt s k = some b → rising b.queues = true
  free : replayMode s d = 0

/-- The core can take one more crew of this footprint under R26, and no budget of R33 forbids it. -/
def Takes (s : State) (d : Nat) (x : Need) (core : Nat) : Prop := coreFits s x core = true ∧ overBudget s d [core] x = false

/-- Wave `i` of a crew just placed (R14, R25, R324). -/
def FreshWave (w : Wave) (e : List Byte) (arg i k : Nat) : Prop :=
  let lantern := tyWavesC e ≤ i
  w.id.index = i ∧ w.id.crew = k ∧ w.id.lantern = decide lantern ∧
    w.id.allot = (if lantern then tyAllotL e else tyAllotC e) ∧ w.ended = false ∧ w.window = [] ∧
    (∀ l, mget w.fibres l = if l < (if lantern then tyFibresL e else tyFibresC e) then
      (let pc := BitVec.ofNat 64 (if lantern then tyEntryL e else tyEntryC e)
      some { fibreInit with
        pc := pc
        next := pc
        preds := 0x80
        win := 0
        age := 0
        wait := .ready }) else none) ∧
    (∀ j, readTarget w (.s j) = BitVec.ofNat 32
      ([arg % 2 ^ 32, arg / 2 ^ 32, tyScratch e, tyOb e, tyStackAt e, tyStack e].getD j 0)) ∧
    (∀ j, readTarget w (.k j) = 0) ∧ ∀ l g, readTarget w (.v l g) = 0

/-- The task of the crew is bound to no context that a live crew holds (R114). -/
def unbound (s : State) (c : Crew) : Prop := ∀ k b, crewAt s k = some b → b.seqCtx = none ∨ b.seqCtx ≠ c.binding

/-- The saved image of crew `k` (R36, R372): its control state, its registers, its scratchpad grant; the crew has left its core. -/
def SavedAs (s t : State) (k : Nat) (c : Crew) (kind : SaveKind) (n : Nat) : Prop :=
  crewAt t k = none ∧ (∀ x ∈ t.waves, ¬ (wkCore x.1 = k / 16 ∧ x.2.id.crew = k)) ∧ ∃ x, mget t.saved n = some x ∧ x.kind = kind ∧
    x.core = k / 16 ∧ (∃ b, x.crew = { c with
      yieldAsked := false
      migrating := false
      seqCtx := none
      binding := b } ∧ (unbound s c → b = c.binding)) ∧
    (∀ i, i < 2 ^ 19 → readByte x.scratch i = readByte s.mem.bytes (scratchPlace (k / 16) (k % 16 * 2 ^ 19) + i)) ∧
    ∀ slot w, slot < 128 → waveAt s (k / 16) slot = some w → w.id.crew = k → w.ended = false →
      (∀ e ∈ s.waves, wkCore e.1 = k / 16 → e.2.id.crew = k → e.2.id.index = w.id.index → e = (wkey (k / 16) slot, w)) →
      ∃ w', mget x.waves w.id.index = some w' ∧ w'.regs = (settled w).regs ∧ w'.fibres = (settled w).fibres ∧ w'.lanes = w.lanes ∧
        w'.spans = w.spans ∧ w'.window = w.window ∧ w'.sched.tags = w.sched.tags

end Sys2Proof.Claims

open Sys2Proof Sys2Proof.Machine Sys2Proof.Claims

/-- R14, R25, R27, R28, R29, R324, R366, R367, R369, R438. A pass places the head of a queue on the lowest core that its whole footprint
fits: a free crew slot and a free wave slot for each of its waves, which start as R14 and R324 say, and the record leaves its queue. A head
that fits nowhere stays and ages by one; a bad record leaves its queue with no crew. A partition whose scheduler does not run places nothing. -/
def Obligations.Placement : Prop :=
  (∀ s p d q x m h c, p < 8 → OneHead s p d q x m → headOf s d q = .task h → dependsMet s h.info.launch = true → tyGang h.entry = 0 →
    c / 96 = p → Takes s d h.need c → (∀ b, b / 96 = p → b < c → ¬ Takes s d h.need b) →
    ∃ t j, exec (.placementPass p []) s = .next t ∧ j < 16 ∧ crewAt s (c * 16 + j) = none ∧ t.mem = s.mem ∧
      crewAt t (c * 16 + j) = some { crewInit with
        task := taskOf h.bytes
        district := d
        gang := none
        rank := 0
        gangSize := 1
        stackAt := tyStackAt h.entry
        stack := tyStack h.entry
        scratchBase := j * 2 ^ 19
        scratch := tyScratch h.entry
        obBase := j * 2 ^ 18
        ob := tyOb h.entry
        binding := h.info.binding
        launch := h.info.launch
        dispatcher := c
        since := s.clock } ∧
      queueOf t d q = some { x with
        waiting := []
        placed := x.placed + 1
        age := 0
        promoted := false
        reserved := [] } ∧
      (∀ i, i < tyWaves h.entry → ∃ slot w, slot ∈ freeWaveSlots s c ∧ waveAt t c slot = some w ∧ FreshWave w h.entry h.arg i (c * 16 + j)) ∧
      ∀ i k a b v w, a < 64 → b < 64 → waveAt t c a = some v → waveAt t c b = some w → v.id.crew = c * 16 + j → w.id.crew = c * 16 + j →
        (∀ e ∈ s.waves, wkCore e.1 = c → e.2.id.crew ≠ c * 16 + j) → v.id.index = i → w.id.index = k → i < k → a < b) ∧
  (∀ s p d q x m h, p < 8 → OneHead s p d q x m → headOf s d q = .task h → tyGang h.entry = 0 → (∀ c, c / 96 = p → ¬ Takes s d h.need c) →
    x.age < 63 → ∃ t, exec (.placementPass p []) s = .next t ∧ t.crews = s.crews ∧ t.waves = s.waves ∧ t.mem = s.mem ∧
      queueOf t d q = some { x with age := x.age + 1 }) ∧
  (∀ s p d q x m, p < 8 → OneHead s p d q x m → headOf s d q = .bad m → m.launch = none →
    ∃ t, exec (.placementPass p []) s = .next t ∧ t.crews = s.crews ∧ t.waves = s.waves ∧
      queueOf t d q = some { x with
        waiting := []
        placed := x.placed + 1
        age := 0
        promoted := false
        reserved := [] }) ∧
  (∀ s p ps, p < 8 → schedulerRuns s p = false → exec (.placementPass p ps) s = .next s) ∧
  ∀ s p ps, 8 ≤ p → exec (.placementPass p ps) s = .fault .noSuchUnit

/-- R36, R37, R77, R370, R371, R372, R373, R375, R438. A crew that has been asked to yield is saved when it can be, with everything R372 names, and a
saved crew whose wake condition holds goes live again with its registers; a wave waiting for a reply can leave its slot alone. Migration and a swap
ask crews to yield; a swap saves every crew of the partition once all can be. A cluster with no crew is gated, its caches written back. -/
def Obligations.EvictionAndGating : Prop :=
  (∀ s k c, k < 12288 → crewAt s k = some c → c.gang = none → evictNow s k = true → rising s.crews = true →
    rising s.mem.bytes = true → (∀ e ∈ s.waves, e.2.away = []) → allMonitors s = [] →
    ∃ t, exec (.crewEviction k) s = .next t ∧ SavedAs s t k c (if c.migrating then .migrated else .evicted) s.serial) ∧
  (∀ s k, k < 12288 → evictNow s k = false → exec (.crewEviction k) s = .next s) ∧
  (∀ s core slot w c, core < 768 → slot < 64 → waveAt s core slot = some w → waveAt s core (64 + slot) = none →
    crewAt s w.id.crew = some c → (∃ l f chip dst, (l, f) ∈ w.fibres ∧ f.wait = .svc chip dst) → waveBlocks s w = true →
    waveNoToken s core slot c = true → c.ending = false → schedulerRuns s (core / 96) = true → rising s.waves = true →
    ∃ t w', exec (.waveEviction core slot) s = .next t ∧ waveAt t core slot = none ∧ waveAt t core (64 + slot) = some w' ∧
      w'.regs = (settled w).regs ∧ w'.fibres = (settled w).fibres ∧ w'.lanes = w.lanes ∧ t.crews = s.crews ∧ t.mem = s.mem) ∧
  (∀ s n x core, n < 2 ^ 20 → mget s.saved n = some x → x.crew.gang = none → savedWakes s x = true → rising s.saved = true →
    (∀ e ∈ x.waves, e.2.id.index = e.1) → rising x.waves = true → restorePlace s n = some [(n, core)] →
    ∃ t j c, exec (.crewRestore n) s = .next t ∧ mget t.saved n = none ∧ j < 16 ∧ crewAt s (core * 16 + j) = none ∧
      crewAt t (core * 16 + j) = some c ∧ c = { x.crew with
        seqCtx := c.seqCtx
        scratchBase := j * 2 ^ 19
        obBase := j * 2 ^ 18
        since := s.clock
        yieldAsked := false
        migrating := false } ∧
      ∀ i w, mget x.waves i = some w → ∃ slot w', slot ∈ freeWaveSlots s core ∧ waveAt t core slot = some w' ∧ w'.regs = w.regs ∧
        w'.spans = w.spans ∧ w'.window = w.window ∧ w'.id.index = i ∧ w'.id.crew = core * 16 + j) ∧
  (∀ s n x, n < 2 ^ 20 → mget s.saved n = some x → x.crew.gang = none → savedWakes s x = false → exec (.crewRestore n) s = .next s) ∧
  (∀ s k c, k < 12288 → crewAt s k = some c → rising s.crews = true →
    let hot := 8 * (s.power.migrateAt : Int) ≤ tempOf s (k / 64) ∧ c.since + 2500000 ≤ s.clock ∧
      ∃ m, m / 24 = k / 1536 ∧ tempOf s m ≤ 8 * (s.power.migrateAt : Int) - 80
    (hot → ∃ t, exec (.thermalMigration k) s = .next t ∧ t = { s with crews := t.crews } ∧ ∀ j b, crewAt s j = some b →
      crewAt t j = some (if j = k ∨ (c.gang ≠ none ∧ b.gang = c.gang) then { b with
        yieldAsked := true
        migrating := true } else b)) ∧
    (¬ hot → exec (.thermalMigration k) s = .next s)) ∧
  (∀ s p, p < 8 → partRuns s p = true → (partOf s p).restarting = false →
    (swapReady s p = false → ∃ t, exec (.partitionSwap p) s = .next t ∧ (partOf t p).swapping = true ∧ t.mem = s.mem ∧
      ∀ k c, crewAt s k = some c → crewAt t k = some (if k / 1536 = p then { c with yieldAsked := true } else c)) ∧
    (swapReady s p = true → rising s.crews = true → rising s.mem.bytes = true → (∀ e ∈ s.waves, e.2.away = [] ∧ ∀ f ∈ e.2.fibres, f.2.wait ≠ .tile) →
      (∀ e ∈ s.saved, e.2.kind ≠ .shadow) → allMonitors s = [] → ∃ t, exec (.partitionSwap p) s = .next t ∧ (partOf t p).swapping = false ∧
      ∀ k c, crewAt s k = some c → if k / 1536 = p then ∃ n, SavedAs s t k c .shadow n
        else ∃ b, crewAt t k = some { c with binding := b } ∧ (unbound s c → b = c.binding))) ∧
  (∀ s m, m < 192 → (∀ c, c / 4 = m → (∀ k, k / 16 = c → crewAt s k = none) ∧ (coreOf s c).ops = []) → rising s.crews = true →
    allMonitors s = [] →
    ∃ t, exec (.clusterGate m) s = .next t ∧ t.mem.bytes = s.mem.bytes ∧ (∀ c, (coreOf t c).gated = ((coreOf s c).gated || decide (c / 4 = m))) ∧
      ∀ e ∈ t.mem.l1Dirty, e.1 / 4 ≠ m) ∧
  (∀ s m k c, m < 192 → crewAt s k = some c → k / 64 = m → exec (.clusterGate m) s = .next s) ∧
  (∀ s m, m < 192 → ∃ t, exec (.clusterUngate m) s = .next t ∧ t = { s with cores := t.cores } ∧
    ∀ c, (coreOf t c).gated = ((coreOf s c).gated && decide (c / 4 ≠ m))) ∧
  (∀ s core slot n, (768 ≤ core ∨ 64 ≤ slot → exec (.waveEviction core slot) s = .fault .noSuchUnit) ∧
    (12288 ≤ n → exec (.crewEviction n) s = .fault .noSuchUnit ∧ exec (.thermalMigration n) s = .fault .noSuchUnit) ∧
    (8 ≤ n → exec (.partitionSwap n) s = .fault .noSuchUnit) ∧
    (192 ≤ n → exec (.clusterGate n) s = .fault .noSuchUnit ∧ exec (.clusterUngate n) s = .fault .noSuchUnit))

namespace Sys2Proof.Claims
open Sys2Proof.Machine

/-- The debug window of function `fn` names district `k` of its tenant's tree, which is `d` (R405). -/
structure Debugs (s : State) (fn k : Nat) (d : District) : Prop where
  function : fn ≤ 64
  target : mget (functionAt s fn).handles (functionAt s fn).dbgHandle = some k
  district : districtAt s k = some d

/-- The buffer of a debug command lies in a window of the function (R343, R405). -/
def bufferOf (s : State) (fn n : Nat) (ps : List Nat) : Prop :=
  ps = (List.range n).map (fun i => hostPlace ((functionAt s fn).dbgAddr.toNat + i)) ∧
    ∀ i, i < n → inWindow s fn ((functionAt s fn).dbgAddr.toNat + i) = true

/-- The command fails: DBGSTAT reads 2, and nothing else has changed. -/
def DebugFails (i : Instr) (s : State) (fn : Nat) : Prop :=
  ∃ t, exec i s = .next t ∧ t = { s with functions := t.functions } ∧ functionAt t fn = { functionAt s fn with dbgStat := 2 } ∧
    ∀ g, g ≠ fn → functionAt t g = functionAt s g

/-- What R406 refuses in a descriptor beside its monitors. -/
def badDescriptor (b : List Byte) : Prop :=
  let period := bf b 0x0C 4
  (bf b 0 8 ≠ 0 ∧ isPow2 (bf b 8 4) = false) ∨ (period ≠ 0 ∧ (period < 256 ∨ 2 ^ 24 < period)) ∨
  (∃ i, i < 4 ∧ 2 ^ 20 ≤ bf b (0x10 + 4 * i) 4) ∨ 4 ≤ bf b 0x20 4 ∨ bf b 0x24 4 ≠ 0 ∨ 65536 ≤ bf b 0x68 4 ∨ 65536 ≤ bf b 0x6C 4 ∨
  bf b 0x70 16 ≠ 0

/-- What R412 refuses in the 16 bytes of a monitor. -/
def badMonitor (b : List Byte) : Prop :=
  bf b 0 8 % 4 ≠ 0 ∨ 4 < bf b 0x0C 1 ∨ 3 < bf b 0x0D 1 ∨ bf b 0x0E 2 ≠ 0

/-- No trace ring: what capture does leaves memory alone. -/
def noRing (d : District) : Prop := d.dbg.trace.ring = 0

/-- The lanes of district `n` that wait for its replay ring and that `p` selects go on with their instruction; the other fibres
stand (R421, R422). -/
def GoOn (s t : State) (n : Nat) (p : Nat → Nat → Prop) : Prop :=
  t.mem = s.mem ∧ ∀ k w c, mget s.waves k = some w → crewAt s w.id.crew = some c → c.district = n →
    ∃ w', mget t.waves k = some w' ∧ w'.regs = w.regs ∧ ∀ l f, mget w.fibres l = some f →
      ((f.wait = .replay ∧ p k l → ∃ f', mget w'.fibres l = some f' ∧ f'.wait = .again ∧ f'.pc = f.pc ∧ f'.flight = f.flight) ∧
      (¬ (f.wait = .replay ∧ p k l) → mget w'.fibres l = some f))

end Sys2Proof.Claims

open Sys2Proof Sys2Proof.Machine Sys2Proof.Claims

/-- R405, R406, R409, R411, R412, R413, R415, R421, R422, R423. The debug window loads a sound descriptor and refuses another, writes the counters,
starts, stops and unfreezes capture. A core's due sample takes the district's next wave slot and is due again a period later. A full
replay log holds the lanes that wait for it; the record at the tail lets the agent that it names go on, and diverges where that agent is gone. -/
def Obligations.DebugAndReplay : Prop :=
  (∀ s fn k d ps, Debugs s fn k d → bufferOf s fn 128 ps →
    let b := readPlaces s ps
    (badDescriptor b → DebugFails (.loadDescriptor fn) s fn) ∧
    (∀ i, i < 4 → badMonitor ((b.drop (0x28 + 16 * i)).take 16) → DebugFails (.loadDescriptor fn) s fn) ∧
    ∀ ms, ¬ badDescriptor b → monitorsIn s d b 4 = some ms → ∃ t, exec (.loadDescriptor fn) s = .next t ∧ t.mem = s.mem ∧
      functionAt t fn = { functionAt s fn with dbgStat := 0 } ∧ districtAt t k = some { d with dbg := {
        trace := ⟨BitVec.ofNat 64 (bf b 0 8), bf b 8 4, bf b 0x0C 4,
          (List.range 4).map fun i => BitVec.ofNat 32 (bf b (0x10 + 4 * i) 4), decide (bf b 0x20 4 % 2 = 1), 0, 0, 0⟩
        capture := bf b 0x20 4 / 2 % 2
        monitors := ms
        causal := ⟨BitVec.ofNat 16 (bf b 0x68 4), bf b 0x6C 4, 0, 0⟩
        counters := []
        since := s.clock
        samples := [] } }) ∧
  (∀ s fn k d ps, Debugs s fn k d → bufferOf s fn 192 ps → (∀ e ∈ s.functions, e.2.dirtyOn = false) → ∃ t, exec (.readCounters fn) s = .next t ∧
    functionAt t fn = { functionAt s fn with dbgStat := 0 } ∧
    t.mem.bytes = writePlaces s.mem.bytes ps (((List.range 16).flatMap fun i => toBytes 8 ((mget d.dbg.counters i).getD 0).toNat) ++
      toBytes 8 d.dbg.causal.owed ++ toBytes 8 d.dbg.causal.visits ++ toBytes 8 (s.clock - d.dbg.since) ++
      toBytes 8 d.dbg.trace.written ++ toBytes 8 d.dbg.trace.dropped ++ toBytes 1 d.dbg.capture ++ copies 23 0)) ∧
  (∀ s fn k d, Debugs s fn k d → noRing d →
    let ends := fun i n => ∃ t, exec i s = .next t ∧ t = { s with
      districts := t.districts
      functions := t.functions } ∧ functionAt t fn = { functionAt s fn with dbgStat := 0 } ∧
      districtAt t k = some { d with dbg := { d.dbg with capture := n } }
    ends (.startCapture fn) (if d.dbg.capture = 2 then 2 else 1) ∧ ends (.stopCapture fn) (if d.dbg.capture = 2 then 2 else 0) ∧
    ends (.unfreeze fn) 0) ∧
  (∀ s fn, fn ≤ 64 → mget (functionAt s fn).handles (functionAt s fn).dbgHandle = none →
    ∀ i ∈ [Instr.loadDescriptor fn, .readCounters fn, .startCapture fn, .stopCapture fn, .unfreeze fn], DebugFails i s fn) ∧
  (∀ s fn, 64 < fn → ∀ i ∈ [Instr.loadDescriptor fn, .readCounters fn, .startCapture fn, .stopCapture fn, .unfreeze fn],
    exec i s = .fault .noSuchUnit) ∧
  (∀ s core k d, core < 768 → districtAt s k = some d →
    (sampleDue s core k = true → noRing d → rising s.waves = true → let last := (sampleState d.dbg core).2
      let later := fun i => i ∈ sampleSlots s core k ∧ last < 64 ∧ last < i
      ∃ t j, exec (.pcSample core k) s = .next t ∧ t = { s with districts := t.districts } ∧
      j ∈ sampleSlots s core k ∧ ((∃ i, later i) → later j ∧ ∀ i, later i → j ≤ i) ∧
      ((∀ i, ¬ later i) → ∀ i ∈ sampleSlots s core k, j ≤ i) ∧
      districtAt t k = some { d with dbg := { d.dbg with
        samples := mset d.dbg.samples core (s.clock + d.dbg.trace.period, j) } }) ∧
    (d.dbg.capture ≠ 1 ∨ d.dbg.trace.period = 0 ∨ s.clock < (sampleState d.dbg core).1 → exec (.pcSample core k) s = .next s)) ∧
  (∀ s d w l f fs, w.fibres = (l, f) :: fs →
    (∀ c pc ls, w.sched.lastIssue = some (c, pc, ls) → c = s.clock → ls.getLsbD l = true →
      (sampleOf s d w).state = 0 ∧ (sampleOf s d w).pc = pc.toNat) ∧
    (w.sched.lastIssue = none → f.wait = .parked → (sampleOf s d w).state = 5 ∧ (sampleOf s d w).pc = (laneAt w l).trap.pc.toNat)) ∧
  (∀ s d w, w.fibres = [] → (sampleOf s d w).state = 7 ∧ (sampleOf s d w).pc = w.sched.lastQuit.toNat ∧
    (quitDeferred s w = false → (sampleOf s d w).lanes = 0)) ∧
  (∀ s core k, 768 ≤ core → exec (.pcSample core k) s = .fault .noSuchUnit) ∧
  (∀ s n, (replayMode s n = 0 ∨ (replayMode s n = 1 ∧ replayHead s n - replayTail s n < replayEntries s n)) →
    replayWaits s n (fun _ _ => true) = true → ∃ t, exec (.replayLogStallRelease n) s = .next t ∧ GoOn s t n fun _ _ => True) ∧
  (∀ s n, replayMode s n = 2 ∨ (replayMode s n = 1 ∧ replayEntries s n ≤ replayHead s n - replayTail s n) →
    exec (.replayLogStallRelease n) s = .next s) ∧
  (∀ s n d, replayMode s n = 2 → replayTail s n < replayHead s n → districtAt s n = some d → d.replay.diverged = false →
    let bs := rrecAt s n (replayTail s n)
    let named := fun key l => bf bs 5 1 = 3 ∨ bf bs 5 1 = 4 ∨
      (wkCore key = bf bs 8 2 ∧ wkSlot key = bf bs 0x0A 1 ∧ (bf bs 0x0B 1 = 0xFF ∨ bf bs 0x0B 1 = l))
    (agentGone s n bs = true → ∃ t b, exec (.replayEventResolve n) s = .next t ∧ districtAt t n = some b ∧ b.replay.diverged = true ∧
      t.waves = s.waves) ∧
    (agentGone s n bs = false → (∃ k w c l f, mget s.waves k = some w ∧ crewAt s w.id.crew = some c ∧ c.district = n ∧
      mget w.fibres l = some f ∧ f.wait = .replay ∧ named k l) →
      ∃ t, exec (.replayEventResolve n) s = .next t ∧ GoOn s t n named)) ∧
  ∀ s n, replayMode s n ≠ 2 ∨ replayHead s n ≤ replayTail s n → exec (.replayEventResolve n) s = .next s

namespace Sys2Proof.Claims
open Sys2Proof.Machine

/-- A page command of handler core `core`, in its partition, for a context that names it (R380, R381, R382). -/
structure Handles (s : State) (core p : Nat) (cmd : PageCmd) : Prop where
  there : core < 768
  part : p = core / 96
  formed : 1 ≤ cmd.count.toNat ∧ cmd.count.toNat ≤ 65536 ∧ cmd.ctx.toNat < 4096
  aligned : cmd.ia.toNat % 65536 = 0 ∧ cmd.ia.toNat / 2 ^ 48 = p ∧ cmd.ia.toNat % 2 ^ 48 + 65536 * cmd.count.toNat ≤ 2 ^ 48
  named : ctxHandler s p cmd.ctx.toNat = some core

/-- The command ends with this PGSTAT and changes no memory. -/
def PageEnds (i : Instr) (s : State) (core st : Nat) : Prop :=
  ∃ t, exec i s = .next t ∧ t.mem = s.mem ∧ t.crews = s.crews ∧ coreOf t core = { coreOf s core with pgstat := st }

/-- No access is held and no side log has an entry; no monitor is set. -/
def quietCores (s : State) : Prop :=
  (∀ c x, (c, x) ∈ s.cores → x.held = [] ∧ x.log = [] ∧ ∀ o ∈ x.ops, o.held = false) ∧ s.hostWrites = [] ∧ allMonitors s = []

/-- A leaf that MAP admits for 64 KiB pages outside replication: valid, a leaf, not host-owned, its frame aligned (R378, R382). -/
def plainLeaf (leaf : Nat) : Prop :=
  leaf % 2 = 1 ∧ leaf / 2 % 2 = 1 ∧ leaf / 8 % 2 = 0 ∧ leaf / 16 % 2 = 0 ∧ leaf / 2 ^ 36 = 0 ∧ leaf / 256 % 256 = 0

/-- The leaf of page `i` of a MAP stands at its slot. -/
def putLeaf (p : Nat) (cmd : PageCmd) (u : State) (i : Nat) : State :=
  modMem u fun m => writeNat m (leafSlot u p cmd.ctx.toNat (cmd.ia.toNat + i * 65536)).1 8 (cmd.leaf.toNat + i * 65536)

end Sys2Proof.Claims

open Sys2Proof Sys2Proof.Machine Sys2Proof.Claims

/-- R378, R382, R385. A handler's MAP writes its leaves and answers 0; it answers 2 where a page is mapped already. UNMAP leaves no page of its
range mapped, and answers 2 for a pinned one. INVAL answers 0; RETRY has what waits for the range walk again; NOFRAME answers 0. A malformed
command answers 3 and one for another handler's context 4, with nothing changed. -/
def Sys2Proof.Claims.pageCommandsHold : Prop :=
  (∀ s core p part cmd, Handles s core p cmd → plainLeaf cmd.leaf.toNat → ctxValid s p cmd.ctx.toNat = true →
    let n := cmd.count.toNat
    (∀ i, i < n → mapsPage s p cmd.ctx.toNat (cmd.ia.toNat + i * 65536) = false ∧
      (leafSlot s p cmd.ctx.toNat (cmd.ia.toNat + i * 65536)).2 = 16) →
    cmd.leaf.toNat / 256 * 256 % 2 ^ 36 + n * 65536 ≤ 2 ^ 36 → quietCores s →
    ∃ t, exec (.map (some core) part cmd) s = .next t ∧ (coreOf t core).pgstat = 0 ∧ t.crews = s.crews ∧
      t.mem.bytes = ((List.range n).foldl (putLeaf p cmd) s).mem.bytes) ∧
  (∀ s core p part cmd i, Handles s core p cmd → plainLeaf cmd.leaf.toNat → ctxValid s p cmd.ctx.toNat = true → i < cmd.count.toNat →
    (leafSlot s p cmd.ctx.toNat cmd.ia.toNat).2 = 16 → mapsPage s p cmd.ctx.toNat (cmd.ia.toNat + i * 65536) = true →
    PageEnds (.map (some core) part cmd) s core 2) ∧
  (∀ s core p part cmd, Handles s core p cmd → cmd.leaf.toNat % 2 = 0 ∨ cmd.leaf.toNat / 2 % 2 = 0 ∨ cmd.leaf.toNat / 16 % 2 = 1 ∨
    cmd.leaf.toNat / 2 ^ 36 ≠ 0 → PageEnds (.map (some core) part cmd) s core 3) ∧
  (∀ s core p part cmd, Handles s core p cmd →
    let ias := (List.range cmd.count.toNat).map fun i => cmd.ia.toNat + 65536 * i
    let pinned := ∃ ia ∈ ias, ∃ e at_ bits, walk s p cmd.ctx.toNat ia = .leaf e at_ bits ∧ e / 32 % 2 = 1
    (pinned → PageEnds (.unmap (some core) part cmd) s core 2) ∧
    (¬ pinned → quietCores s → Memory.wf s.mem.bytes = true → (partOf s p).tableAt % 8 = 0 → ∃ t, exec (.unmap (some core) part cmd) s = .next t ∧
      (coreOf t core).pgstat = 0 ∧ t.crews = s.crews ∧ t.waves = s.waves ∧ ∀ ia ∈ ias, mapsPage t p cmd.ctx.toNat ia = false)) ∧
  (∀ s core p part cmd, Handles s core p cmd → PageEnds (.inval (some core) part cmd) s core 0) ∧
  (∀ s core p part cmd k h sg w f fl d ps, Handles s core p cmd → OneLoad s k h sg w f fl → h.why = .page → HomeServes s h d ps →
    h.req.ctx = cmd.ctx.toNat → (∃ page ∈ reqPages s h.req, cmd.ia.toNat ≤ page * 65536 ∧
      page * 65536 < cmd.ia.toNat + 65536 * cmd.count.toNat) →
    ∃ t, exec (.retry (some core) part cmd) s = .next t ∧ (coreOf t core).pgstat = 0 ∧ LoadDone s t k h sg ps f fl) ∧
  (∀ s core p part cmd, Handles s core p cmd → waitingDistricts s cmd (65536 * cmd.count.toNat) = [] →
    PageEnds (.noframe (some core) part cmd) s core 0) ∧
  (∀ s core p part cmd, core < 768 → p = core / 96 →
    let answers := fun st => ∀ i ∈ [Instr.map (some core) part cmd, .unmap (some core) part cmd, .inval (some core) part cmd,
      .retry (some core) part cmd, .noframe (some core) part cmd], PageEnds i s core st
    (cmd.count.toNat = 0 ∨ 65536 < cmd.count.toNat ∨ 4096 ≤ cmd.ctx.toNat ∨
      cmd.ia.toNat % 65536 ≠ 0 ∨ cmd.ia.toNat / 2 ^ 48 ≠ p ∨ 2 ^ 48 < cmd.ia.toNat % 2 ^ 48 + 65536 * cmd.count.toNat → answers 3) ∧
    (1 ≤ cmd.count.toNat → cmd.count.toNat ≤ 65536 → cmd.ctx.toNat < 4096 →
      cmd.ia.toNat % 65536 = 0 → cmd.ia.toNat / 2 ^ 48 = p → cmd.ia.toNat % 2 ^ 48 + 65536 * cmd.count.toNat ≤ 2 ^ 48 →
      ctxHandler s p cmd.ctx.toNat ≠ some core → answers 4)) ∧
  ∀ s part core cmd, (8 ≤ part → ∀ i ∈ [Instr.map none part cmd, .unmap none part cmd, .inval none part cmd, .retry none part cmd,
    .noframe none part cmd], exec i s = .fault .noSuchUnit) ∧
    (768 ≤ core → ∀ i ∈ [Instr.map (some core) part cmd, .unmap (some core) part cmd, .inval (some core) part cmd,
      .retry (some core) part cmd, .noframe (some core) part cmd], exec i s = .fault .noSuchUnit)

/-- R382, R383. A page-fault record goes to its handler's ring when that has room, or to the firmware; the handler moves the ring's head
over entries that are there. The firmware serves its oldest record with a zeroed frame, a 64 KiB leaf and one page less of quota, and with
NOFRAME when the quota is 0. -/
def Sys2Proof.Claims.pageFaultsHold : Prop :=
  (∀ s p m r, p < 8 → (partOf s p).toPost = m :: r →
    let record := toBytes 8 m.ia ++ toBytes 2 m.ctx ++ toBytes 1 m.flags ++ toBytes 1 0 ++
      toBytes 4 (min (pageWaiters s m.ctx m.ia) 0xFFFFFFFF)
    (∀ core, ctxHandler s p m.ctx = some core →
      let q := (coreOf s core).pageRing
      ((q.tail + 2 ^ 64 - q.head) % 2 ^ 64 < 64 → q.waiting = [] → ∃ t, exec (.pageFaultRecord p) s = .next t ∧ t.mem = s.mem ∧
        partOf t p = { partOf s p with toPost := r } ∧ coreOf t core = { coreOf s core with pageRing := { q with
          slots := mset q.slots (q.tail % 64) record
          tail := (q.tail + 1) % 2 ^ 64
          waiting := [] } }) ∧
      (64 ≤ (q.tail + 2 ^ 64 - q.head) % 2 ^ 64 → exec (.pageFaultRecord p) s = .next s)) ∧
    (ctxHandler s p m.ctx = none → ∃ t, exec (.pageFaultRecord p) s = .next t ∧ t = { s with partitions := t.partitions } ∧
      partOf t p = { partOf s p with
        toPost := r
        toServe := (partOf s p).toServe ++ [m] })) ∧
  (∀ s core value, core < 768 →
    let q := (coreOf s core).pageRing
    let there := (q.tail + 2 ^ 64 - q.head) % 2 ^ 64
    ∃ t, exec (.pageFaultRingHeadWrite core value) s = .next t ∧ t = { s with cores := t.cores } ∧
      coreOf t core = { coreOf s core with pageRing :=
        if (value.toNat + 2 ^ 64 - q.head) % 2 ^ 64 ≤ there then { q with head := value.toNat } else q }) ∧
  (∀ s p frame m r, p < 8 → (partOf s p).toServe = m :: r → m.ctx < 65536 → m.ia < 2 ^ 64 → quietCores s →
    mapsPage s p m.ctx m.ia = false →
    (ctxQuota s p m.ctx = 0 → waitingDistricts s ⟨0, BitVec.ofNat 16 m.ctx, 1, BitVec.ofNat 64 m.ia, 0, 0⟩ 65536 = [] →
      ∃ t, exec (.firmwarePageFaultService p frame) s = .next t ∧ t = { s with partitions := t.partitions } ∧
        partOf t p = { partOf s p with toServe := r }) ∧
    (frame < 2 ^ 20 → m.ctx < 4096 → m.ia / 2 ^ 48 = p → m.ia % 65536 = 0 → ctxQuota s p m.ctx ≠ 0 → (leafSlot s p m.ctx m.ia).2 = 16 →
      let z := zeroFrame s (hbmPlace p (frame * 65536)) 65536
      ctxValid z p m.ctx = true → mapsPage z p m.ctx m.ia = false → (leafSlot z p m.ctx m.ia).2 = 16 →
      let u := writeNat z.mem.bytes (leafSlot z p m.ctx m.ia).1 8 (frame * 65536 + 3)
      ∃ t, exec (.firmwarePageFaultService p frame) s = .next t ∧ (partOf t p).toServe = r.filter (fun x => ¬ (x.ctx = m.ctx ∧ x.ia / 65536 = m.ia / 65536)) ∧
        t.mem.bytes = writeNat u (ctxEntryAt s p m.ctx + 0x0C) 4 (readNat u (ctxEntryAt s p m.ctx + 0x0C) 4 - 1)) ∧
      ∀ i, i < 65536 → Memory.wf s.mem.bytes = true →
        readByte (zeroFrame s (hbmPlace p (frame % 2 ^ 20 * 65536)) 65536).mem.bytes (hbmPlace p (frame % 2 ^ 20 * 65536) + i) = 0) ∧
  (∀ s p frame, p < 8 → (partOf s p).toServe = [] → exec (.firmwarePageFaultService p frame) s = .next s) ∧
  ∀ s p core v frame, (8 ≤ p → exec (.pageFaultRecord p) s = .fault .noSuchUnit ∧ exec (.firmwarePageFaultService p frame) s = .fault .noSuchUnit) ∧
    (768 ≤ core → exec (.pageFaultRingHeadWrite core v) s = .fault .noSuchUnit)

namespace Sys2Proof.Claims
open Sys2Proof.Machine

/-- Queue `q` of function `fn` exists: its key is `k` and it stands as `x`. -/
structure QueueIs (s : State) (fn q k : Nat) (x : HostQueue) : Prop where
  named : fn ≤ 64 ∧ q ≤ 63 ∧ k = 64 * fn + q
  is : hostQueue s k = x

/-- The entry at the head of the queue is `e`, and its server may consume it: the queue is enabled and not to stop, no launch is
appending, and the ring can be read (R346, R348, R353). -/
structure HeadEntry (s : State) (fn q k : Nat) (x : HostQueue) (e : List Byte) : Prop where
  queue : QueueIs s fn q k x
  running : x.ctl.getLsbD 0 = true ∧ x.ctl.getLsbD 1 = false ∧ x.current = none ∧ x.head.toNat < x.tail.toNat
  served : schedulerRuns s x.part = true
  ring : ∃ ps, ringPlaces s fn (x.ringCfg.getLsbD 15)
    (x.ringBase.toNat + 64 * (x.head.toNat % 2 ^ min 16 (max 1 (x.ringCfg.toNat % 32)))) 64 = some ps ∧ e = readPlaces s ps

/-- The entry has been consumed, and completes with this status and handle (R348, R351). -/
def consumed (x : HostQueue) (e : List Byte) (status handle : Nat) : HostQueue :=
  { x with
    head := x.head + 1
    errSeen := x.errSeen || decide (status ≠ 0)
    done := x.done ++ [⟨x.head.toNat, bf e 0 1, status, 0, handle, decide (bf e 1 1 % 2 = 1)⟩] }

/-- The event changes the queue into `x`, and nothing but queues. -/
def QueueGets (i : Instr) (s : State) (k : Nat) (x : HostQueue) : Prop :=
  ∃ t, exec i s = .next t ∧ t = { s with queues := t.queues } ∧ hostQueue t k = x ∧ ∀ j, j ≠ k → hostQueue t j = hostQueue s j

/-- One more message of this vector. -/
def told (f : Function) (vector : Nat) : List (Nat × Nat) :=
  mset f.messages vector ((mget f.messages vector).getD 0 + 1)

/-- The event changes the queue into `x` and sends the function a message of this vector, and does nothing else. -/
def QueueGetsAndTells (i : Instr) (s : State) (fn k vector : Nat) (x : HostQueue) : Prop :=
  ∃ t, exec i s = .next t ∧ t = { s with
    queues := t.queues
    functions := t.functions } ∧ hostQueue t k = x ∧ (∀ j, j ≠ k → hostQueue t j = hostQueue s j) ∧
    functionAt t fn = { functionAt s fn with messages := told (functionAt s fn) vector }

/-- No write of the device to host memory is tracked (R355). -/
def untracked (s : State) : Prop := ∀ e ∈ s.functions, e.2.dirtyOn = false

/-- The launch that an entry starts (R349, R350). -/
def launchOf (k d : Nat) (x : HostQueue) (e : List Byte) (on : Option Nat) : Launch :=
  { key := k, n := x.head.toNat, district := d, queue := bf e 4 1, addr := BitVec.ofNat 64 (bf e 8 8),
    arg := BitVec.ofNat 64 (bf e 0x18 8), appended := 0, total := bf e 0x10 4,
    dep := on.map fun j => (j, bf e 0x28 4, bf e 0x2C 4), undone := [], unseen := [], refused := false, endedByDomain := 0,
    interrupt := decide (bf e 1 1 % 2 = 1), complete := false }

end Sys2Proof.Claims

open Sys2Proof Sys2Proof.Machine Sys2Proof.Claims

/-- R347. A doorbell write of a value up to the tail is ignored; up to a full ring beyond the head it is the new tail; beyond that it is
ignored, the overrun bit sets and vector 0 fires. A write of another size or place does the same (R346). -/
def Obligations.Doorbells : Prop :=
  ∀ s fn q k x v offset size, QueueIs s fn q k x →
    let entries := 2 ^ min 16 (max 1 (x.ringCfg.toNat % 32))
    (size = 8 → offset = 0 → v.toNat ≤ x.tail.toNat → exec (.qtaildbWrite fn q offset size v) s = .next s) ∧
    (size = 8 → offset = 0 → x.tail.toNat < v.toNat → v.toNat ≤ x.head.toNat + entries →
      QueueGets (.qtaildbWrite fn q offset size v) s k { x with tail := v }) ∧
    (size ≠ 8 ∨ offset ≠ 0 ∨ (x.tail.toNat < v.toNat ∧ x.head.toNat + entries < v.toNat) →
      QueueGetsAndTells (.qtaildbWrite fn q offset size v) s fn k 0 { x with overrun := true })

/-- R346, R351, R353. Reading QSTAT answers and clears its sticky bits; enabling empties the queue, unless an import has set it; a queue that
is to stop has stopped once all it consumed has completed. A completion entry is written at its index, with the phase. -/
def Obligations.QueueControl : Prop :=
  (∀ s fn q k x, QueueIs s fn q k x →
    let down := (partOf s x.part).restarting
    let word := (if x.ctl.getLsbD 0 ∧ x.stopped = false ∧ down = false then 1 else 0) + (if x.stopped then 2 else 0) +
      (if down then 4 else 0) + (if x.overrun then 8 else 0) + (if x.errSeen then 16 else 0)
    ∃ t, exec (.qstatRead fn q) s = .next t ∧ t.reply = ⟨toBytes 4 word, 0⟩ ∧ t.mem = s.mem ∧
      hostQueue t k = { x with
        overrun := false
        errSeen := false }) ∧
  (∀ s fn q k x, QueueIs s fn q k x →
    (x.ctl.getLsbD 0 = true → exec (.queueEnable fn q) s = .next s) ∧
    (x.ctl.getLsbD 0 = false → x.imported = false → ∃ t, exec (.queueEnable fn q) s = .next t ∧ t = { s with
      queues := t.queues
      districts := t.districts } ∧ hostQueue t k = { x with
      ctl := x.ctl ||| 1
      tail := 0
      head := 0
      cplIndex := 0
      cplPhase := true
      cplWritten := 0
      current := none
      past := []
      first := 0
      since := s.serial
      stopped := false } ∧ (∀ j, j ≠ k → hostQueue t j = hostQueue s j) ∧ ∀ d n y, queueOf s d n = some y →
        queueOf t d n = some { y with tag := if y.tag.any fun p => p.1 = k then none else y.tag }) ∧
    (x.ctl.getLsbD 0 = false → x.imported = true → QueueGets (.queueEnable fn q) s k { x with
      ctl := x.ctl ||| 1
      imported := false }) ∧
    QueueGets (.queueDisable fn q) s k { x with ctl := x.ctl &&& ~~~1#32 } ∧
    QueueGets (.queueStop fn q) s k { x with ctl := x.ctl ||| 2 } ∧
    QueueGets (.queueResume fn q) s k { x with
      ctl := x.ctl &&& ~~~2#32
      stopped := false } ∧
    let finished := x.ctl.getLsbD 0 = true ∧ x.ctl.getLsbD 1 = true ∧ x.stopped = false ∧ x.current = none ∧ x.done = [] ∧
      ∀ l ∈ s.launches, l.2.key = k → l.2.complete = true
    (finished → QueueGetsAndTells (.queueStopped fn q) s fn k 0 { x with stopped := true }) ∧
    (¬ finished → exec (.queueStopped fn q) s = .next s)) ∧
  (∀ s fn q k x d r ps, QueueIs s fn q k x → x.done = d :: r → schedulerRuns s x.part = true → untracked s →
    let n := 2 ^ min 16 (max 1 (x.cplCfg.toNat % 32))
    let room := x.cplWritten < n ∨ x.cplWritten - Config.cplTaken k s.clock < n
    (¬ room → exec (.completionEntryWrite fn q) s = .next s) ∧ (room → ringPlaces s fn (x.cplCfg.getLsbD 15) (x.cplBase.toNat + 16 * (x.cplIndex % n)) 16 = some ps →
    ∃ t, exec (.completionEntryWrite fn q) s = .next t ∧ hostQueue t k = { x with
      done := r
      cplWritten := x.cplWritten + 1
      cplIndex := (x.cplIndex + 1) % n
      cplPhase := if x.cplIndex + 1 = n then !x.cplPhase else x.cplPhase } ∧
      t.mem.bytes = writePlaces s.mem.bytes ps (toBytes 8 d.n ++ toBytes 1 d.status ++ toBytes 1 d.op ++ toBytes 2 d.ended ++
        toBytes 4 ((if x.cplPhase then 1 else 0) + d.handle * 2 ^ 16)) ∧
      (functionAt t fn).messages = if d.interrupt && x.ctl.getLsbD 2 then told (functionAt s fn) (x.ringCfg.toNat / 256 % 128) else (functionAt s fn).messages)) ∧
  (∀ s fn q k x, QueueIs s fn q k x → x.done = [] → exec (.completionEntryWrite fn q) s = .next s) ∧
  ∀ s fn q v offset size, 64 < fn ∨ 63 < q → ∀ i ∈ [Instr.qtaildbWrite fn q offset size v, .qstatRead fn q, .queueEnable fn q, .queueDisable fn q,
    .queueStop fn q, .queueResume fn q, .queueStopped fn q, .completionEntryWrite fn q, .entryNop fn q, .launch fn q,
    .launchAppendOnRoom fn q, .signal fn q, .reload fn q, .flip fn q, .createDistrict fn q, .destroyDistrict fn q],
    exec i s = .fault .noSuchUnit

/-- R335, R341, R348, R349, R350, R351, R356. What the entries of a host queue do and the status that each completes with: nop, launch, signal,
reload, flip, create and destroy district. A launch whose queue is full waits for room and then goes on appending. -/
def Obligations.QueueEntries : Prop :=
  (∀ s fn q k x e, HeadEntry s fn q k x e →
    let op := bf e 0 1
    let h := mget (functionAt s fn).handles (bf e 2 2)
    (entryRsvOk e = false ∨ 6 < op → ∀ i n, (i, n) ∈ [(Instr.launch fn q, 1), (.signal fn q, 2), (.reload fn q, 3), (.flip fn q, 4),
      (.createDistrict fn q, 5), (.destroyDistrict fn q, 6), (.entryNop fn q, 0), (.entryNop fn q, op)] →
      n = op → (i = .entryNop fn q → op = 0 ∨ 6 < op) → QueueGets i s k (consumed x e 1 0)) ∧
    (entryRsvOk e = true →
      (op = 0 → QueueGets (.entryNop fn q) s k (consumed x e 0 0)) ∧
      (∀ i n st, (i, n, st) ∈ [(Instr.launch fn q, 1, 2), (.reload fn q, 3, 2), (.flip fn q, 4, 2), (.createDistrict fn q, 5, 2),
        (.destroyDistrict fn q, 6, 8)] → op = n → h = none → QueueGets i s k (consumed x e st 0)) ∧
      (∀ d, op = 1 → h = some d →
        let count := bf e 0x10 4
        let dep := bf e 0x20 8
        let known := dep < x.head.toNat ∧ bf e 0x28 4 ≤ bf e 0x2C 4 ∧
          (dep < x.first ∨ ∃ p ∈ x.past, p.1 = dep ∧ bf e 0x2C 4 < p.2)
        (queueOf s d (bf e 4 1) = none → QueueGets (.launch fn q) s k (consumed x e 1 0)) ∧
        (queueOf s d (bf e 4 1) ≠ none → count = 0 ∨ 2 ^ 24 < count → QueueGets (.launch fn q) s k (consumed x e 3 0)) ∧
        (queueOf s d (bf e 4 1) ≠ none → 1 ≤ count → count ≤ 2 ^ 24 → dep ≠ 2 ^ 64 - 1 → ¬ known →
          QueueGets (.launch fn q) s k (consumed x e 4 0)) ∧
        ∀ y, queueOf s d (bf e 4 1) = some y → 1 ≤ count → count ≤ 2 ^ 24 → dep = 2 ^ 64 - 1 ∨ known →
          let on := (s.launches.find? fun l => l.2.key = k && l.2.n = dep && x.since ≤ l.1).map Prod.fst
          (y.entries ≤ y.appended - y.placed → ∃ t, exec (.launch fn q) s = .next t ∧ t.mem = s.mem ∧
            hostQueue t k = { x with current := some s.serial } ∧ mget t.launches s.serial = some (launchOf k d x e on)) ∧
          ∀ b ps, y.appended - y.placed < y.entries → count = 1 → districtAt s d = some b →
            access s b .home permR (bf e 8 8) 16 = .places ps →
            ∃ t c, exec (.launch fn q) s = .next t ∧ queueOf t d (bf e 4 1) = some { y with
              waiting := y.waiting ++ [⟨some ⟨s.serial, 0⟩, none⟩]
              appended := y.appended + 1
              tag := some (k, x.head.toNat) } ∧
              hostQueue t k = { x with
                head := x.head + 1
                past := x.past ++ [(x.head.toNat, 1)] } ∧
              mget t.launches s.serial = some { launchOf k d x e on with
                appended := 1
                undone := [(0, c)]
                unseen := [(0, c)] } ∧ 1 ≤ c ∧
              ∀ qs, untracked s → placesWith s d permW ((y.ring.toNat + 16 * (y.appended % y.entries)) % 2 ^ 64) 16 = some qs →
                t.mem.bytes = writePlaces s.mem.bytes qs
                  (toBytes 4 (bf (readPlaces s ps) 0 4 % 2 ^ 28) ++ ((readPlaces s ps).drop 4).take 12)) ∧
      (op = 2 → ((∀ l ∈ s.launches, l.2.key = k → l.2.complete = true) →
          (∀ ps, ringPlaces s fn false (bf e 8 8) 8 = some ps → untracked s → ∃ t, exec (.signal fn q) s = .next t ∧
            hostQueue t k = consumed x e 0 0 ∧ t.mem.bytes = writePlaces s.mem.bytes ps (toBytes 8 (bf e 0x18 8))) ∧
          (ringPlaces s fn false (bf e 8 8) 8 = none → QueueGets (.signal fn q) s k (consumed x e 1 0))) ∧
        ((∃ l ∈ s.launches, l.2.key = k ∧ l.2.complete = false) → exec (.signal fn q) s = .next s)) ∧
      (∀ d b p c ps, op = 3 → h = some d → districtAt s d = some b → b.parent = some p → districtAt s p = some c →
        access s c .home permR b.blockAt.toNat 768 = .places ps →
        (blockOk (readPlaces s ps) = false → QueueGets (.reload fn q) s k (consumed x e 1 0)) ∧
        (reloadDistrict s d = none → QueueGets (.reload fn q) s k (consumed x e 1 0)) ∧
        (blockOk (readPlaces s ps) = true → (∀ j y, districtAt s j = some y → y.tenant = b.tenant) → reloadDistrict s d ≠ none) ∧
        (reloadDistrict s d ≠ none → (∀ j, districtInUse s j = false) → (∀ j ∈ s.districts, j.1 < 2 ^ 32) → rising s.districts = true →
          ∃ t b', exec (.reload fn q) s = .next t ∧ hostQueue t k = consumed x e 0 0 ∧ t.mem = s.mem ∧ districtAt t d = some b' ∧
            b'.block = clampBudgets s (some p) (stampBlock (readPlaces s ps) (blkNat b 0 8) b.depth (blkNat b 0x034 4)) ∧ b'.replay = { b.replay with diverged := false } ∧
            b'.queues = b.queues ∧ b'.parent = b.parent)) ∧
      (∀ d b, op = 4 → h = some d → districtAt s d = some b →
        let va := bf e 8 8
        let n := bf e 0x10 4
        let host := decide (bf e 0x14 4 = 1)
        (flipBad s b va n = true → QueueGets (.flip fn q) s k (consumed x e 6 0)) ∧
        let waits := if host then flipWaits s b va n else hostWritesIn s b va n
        (flipBad s b va n = false → waits = true → exec (.flip fn q) s = .next s) ∧
        (flipBad s b va n = false → waits = false → allMonitors s = [] → Memory.wf s.mem.bytes = true →
          (∀ p, (partOf s p).tableAt % 8 = 0) → (∀ a ∈ flipPages va n, ∃ at_ w p, flipLeaf s b a = some (at_, w, p, 16)) →
          ∃ t, exec (.flip fn q) s = .next t ∧ hostQueue t k = consumed x e 0 0 ∧
          ∀ a ∈ flipPages va n, ∃ at_ w p, flipLeaf t b a = some (at_, w, p, 16) ∧ decide (w / 16 % 2 = 1) = host) ∧
        (flipBad s b va n = false → waits = false → n = 1 → allMonitors s = [] →
          ∀ at_ w p bits, flipLeaf s b va = some (at_, w, p, bits) → bits ≠ 16 →
          ∃ t, exec (.flip fn q) s = .next t ∧ hostQueue t k = consumed x e 0 0 ∧ flipLeaf t b va = some (at_, w, p, bits) ∧
            hostOwns t b.ctx (iaOf b va) w bits = host)) ∧
      (∀ p b ps, op = 5 → h = some p → districtAt s p = some b → access s b .home permR (bf e 8 8) 768 = .places ps →
        let want := bf e 0x10 2
        let block := readPlaces s ps
        let used := fun n => mget (functionAt s fn).handles n ≠ none
        let refused := blockOk block = false ∨ 8 ≤ b.depth ∨ (want ≠ 0xFFFF ∧ (want = 0 ∨ 1023 < want ∨ used want)) ∨
          (want = 0xFFFF ∧ ∀ n, 1 ≤ n → n ≤ 1023 → used n)
        (refused → QueueGets (.createDistrict fn q) s k (consumed x e 7 0)) ∧
        ∀ n j u, ¬ refused → (if want = 0xFFFF then 1 ≤ n ∧ n ≤ 1023 ∧ ¬ used n ∧ ∀ m, 1 ≤ m → m < n → used m else n = want) →
          addDistrict s fn (some p) block (bf e 8 8) x.part n = some (j, u) → ∃ t b', exec (.createDistrict fn q) s = .next t ∧
            hostQueue t k = consumed x e 0 n ∧ (functionAt t fn).handles = mset (functionAt s fn).handles n s.serial ∧
            districtAt t s.serial = some b' ∧ b'.parent = some p ∧ b'.depth = b.depth + 1 ∧ b'.tenant = fn ∧ b'.handle = BitVec.ofNat 32 n ∧
            b'.evPosted = 0 ∧ b'.evConsumed = 0 ∧ t.mem = s.mem) ∧
      ∀ d, op = 6 → h = some d →
        (bf e 2 2 = 0 ∨ districtBusy s d = true → QueueGets (.destroyDistrict fn q) s k (consumed x e 8 0)) ∧
        (bf e 2 2 ≠ 0 → districtBusy s d = false → rising s.districts = true → rising (functionAt s fn).handles = true →
          ∃ t, exec (.destroyDistrict fn q) s = .next t ∧ hostQueue t k = consumed x e 0 0 ∧ districtAt t d = none ∧
            mget (functionAt t fn).handles (bf e 2 2) = none ∧ ∀ j, j ≠ d → districtAt t j = districtAt s j))) ∧
  (∀ s fn q k x m l y b ps, QueueIs s fn q k x → x.current = some m → schedulerRuns s x.part = true → mget s.launches m = some l →
    l.appended + 1 = l.total → l.complete = false → (∀ e ∈ s.launches, e.2.key = k → e.2.appended < e.2.total → e = (m, l)) → l.key = k → queueOf s l.district l.queue = some y → districtAt s l.district = some b →
    access s b .home permR ((l.addr.toNat + 16 * l.appended) % 2 ^ 64) 16 = .places ps →
    (y.appended - y.placed < y.entries → ∃ t y', exec (.launchAppendOnRoom fn q) s = .next t ∧ hostQueue t k = { x with
        head := BitVec.ofNat 64 (l.n + 1)
        current := none
        past := x.past ++ [(l.n, l.total)] } ∧ queueOf t l.district l.queue = some y' ∧
        y'.waiting = y.waiting ++ [⟨some ⟨m, l.appended⟩, none⟩] ∧ y'.appended = y.appended + 1) ∧
    (y.entries ≤ y.appended - y.placed → exec (.launchAppendOnRoom fn q) s = .next s)) ∧
  ∀ s fn q k x, QueueIs s fn q k x → (∀ e ∈ s.launches, e.2.key = k → e.2.total ≤ e.2.appended) → exec (.launchAppendOnRoom fn q) s = .next s

namespace Sys2Proof.Claims
open Sys2Proof.Machine

/-- The event changes the function into `f`, and nothing else. -/
def FunctionGets (i : Instr) (s : State) (fn : Nat) (f : Function) : Prop :=
  ∃ t, exec i s = .next t ∧ t = { s with functions := t.functions } ∧ functionAt t fn = f ∧
    ∀ j, j ≠ fn → functionAt t j = functionAt s j

/-- An image that R393 does not refuse for its header, its signature or its security version. -/
structure GoodImage (s : State) (i : Image) : Prop where
  magic : i.magic = 0x464A4231 ∧ i.version = 1 ∧ 1 ≤ i.kind.toNat ∧ i.kind.toNat ≤ 5
  lengths : i.signer.length = 64 ∧ i.body.length = i.bodyLen.toNat ∧ i.signature.length = 29792
  reserved : i.rsv = List.replicate 168 0
  signed : Config.slhVerify i.signer (signedBytes i) i.signature = true
  recent : (mget s.secure.minVersion i.kind.toNat).getD 0 ≤ i.security.toNat

/-- The signer is a root key whose digest the fuses hold and do not revoke (R392). -/
def ByRoot (s : State) (i : Image) : Prop := ∃ r ∈ s.secure.roots, r.2 = false ∧ r.1 = Config.shake256 i.signer

/-- Measurement `n` after an extend by this image (R394). -/
def extendedBy (s : State) (n : Nat) (i : Image) : List Byte :=
  Config.sha3 ((mget s.secure.measures n).getD (List.replicate 48 0) ++ Config.sha3 (signedBytes i))

/-- The event refuses an image: only the boot-failed bit sets (R393). -/
def Refuses (e : Instr) (s : State) : Prop :=
  exec e s = .next { s with secure := { s.secure with readiness := s.secure.readiness ||| 1#64 <<< 63 } }

/-- Partition `p`'s firmware serves an enabled queue of function `f`. -/
def Serves (s : State) (p f : Nat) : Prop := ∃ e ∈ s.queues, e.2.part = p ∧ e.2.ctl.getLsbD 0 = true ∧ e.1 / 64 = f

/-- Vector 0 has fired once more at each function that partition `p` serves, and nothing else of any function has changed. -/
def ServedTold (s t : State) (p : Nat) : Prop := ∀ f,
  (Serves s p f → functionAt t f = { functionAt s f with messages := told (functionAt s f) 0 }) ∧
  (¬ Serves s p f → functionAt t f = functionAt s f)

/-- What a function's readiness bit needs beside its own initialisation (R397, as the model reads it). -/
def CanBeReady (s : State) (i : Nat) : Prop :=
  let runs := fun k => (mget s.secure.running k).isSome = true
  i < 8 ∨ (8 ≤ i ∧ i < 16 ∧ s.secure.readiness.getLsbD (i - 8) = true ∧ runs 1 ∧ runs 2 ∧ runs 3) ∨ (i = 16 ∧ runs 1) ∨ i = 17 ∨
    (i = 18 ∧ runs 1 ∧ runs 2 ∧ runs 3 ∧ runs 4) ∨ (19 ≤ i ∧ i < 37 ∧ s.fabric.nodeSet = true ∧ (portAt s (i - 19)).up = true) ∨
    (i = 37 ∧ runs 4)

/-- The bytes of an aperture entry (R344). -/
def entryBytes (base size va handle perm : Nat) : List Byte :=
  toBytes 8 base ++ toBytes 8 size ++ toBytes 8 va ++ toBytes 2 handle ++ toBytes 1 perm ++ toBytes 5 0

/-- The bytes of a queue in the canonical layout (R354). -/
def migrated (x : HostQueue) : List Byte :=
  toBytes 8 x.ringBase.toNat ++ toBytes 4 x.ringCfg.toNat ++ toBytes 4 x.cplCfg.toNat ++ toBytes 8 x.cplBase.toNat ++
    toBytes 8 x.tail.toNat ++ toBytes 8 x.head.toNat ++ toBytes 8 x.cplIndex ++
    toBytes 4 ((if x.cplPhase then 1 else 0) + 2 * (x.ctl.toNat % 8)) ++ toBytes 4 1 ++ List.replicate 200 0

end Sys2Proof.Claims

open Sys2Proof Sys2Proof.Machine Sys2Proof.Claims

/-- R342, R343, R344, R346, R354, R355, R360, R362, R400, R405. A register write: the queue registers, written while the queue is disabled;
QCTL; the registers of function 0; windows and aperture entries; BAR4; a parked lane's registers. Reserved bits are ignored. A write of
another size, to a place without a register, by another function or of a value that R346, R343 or R400 does not allow is discarded. -/
def Obligations.RegisterWrites : Prop :=
  (∀ s fn q k x v, QueueIs s fn q k x →
    let run := fun o n => Instr.registerWrite (.bar0 fn (0x10000 + 0x1000 * q + o)) n v
    let off := x.ctl.getLsbD 0 = false
    let w := BitVec.ofNat 32 v.toNat
    exec (run 0 8) s = exec (.qtaildbWrite fn q 0 8 v) s ∧
    (off → v.toNat % 64 = 0 → QueueGets (run 0x20 8) s k { x with ringBase := v }) ∧
    (off → QueueGets (run 0x28 4) s k { x with ringCfg := w &&& 0xFF1F#32 }) ∧
    (off → v.toNat % 16 = 0 → QueueGets (run 0x30 8) s k { x with cplBase := v }) ∧
    (off → QueueGets (run 0x38 4) s k { x with cplCfg := w &&& 0x801F#32 }) ∧
    (x.ctl.getLsbD 0 = true → ∀ o n, (o, n) ∈ [(0x20, 8), (0x28, 4), (0x30, 8), (0x38, 4)] → exec (run o n) s = .next s) ∧
    (v.toNat % 64 ≠ 0 → exec (run 0x20 8) s = .next s) ∧ (v.toNat % 16 ≠ 0 → exec (run 0x30 8) s = .next s) ∧
    (∀ o n, 8 ≤ o → o < 0x1000 → (o, n) ∉ [(0x10, 4), (0x20, 8), (0x28, 4), (0x30, 8), (0x38, 4)] → exec (run o n) s = .next s) ∧
    ∃ t y, exec (run 0x10 4) s = .next t ∧ t = { s with
        queues := t.queues
        districts := t.districts } ∧ hostQueue t k = y ∧ (∀ j, j ≠ k → hostQueue t j = hostQueue s j) ∧
      (∀ b, b < 32 → y.ctl.getLsbD b = if b < 3 then v.getLsbD b else x.ctl.getLsbD b) ∧ y.ringBase = x.ringBase ∧
      y.ringCfg = x.ringCfg ∧ y.cplBase = x.cplBase ∧ y.cplCfg = x.cplCfg ∧
      (∀ d n z, queueOf s d n = some z → ∃ g, queueOf t d n = some { z with tag := g }) ∧
      (if v.getLsbD 0 = true ∧ off ∧ x.imported = false then y.tail = 0 ∧ y.head = 0 else y.tail = x.tail ∧ y.head = x.head)) ∧
  (∀ s v,
    let run := fun o n => Instr.registerWrite (.bar0 0 o) n v
    let w := BitVec.ofNat 32 v.toNat
    exec (run 0x1000 4) s = .next { s with migrate := { s.migrate with fn := w } } ∧
    exec (run 0x1004 4) s = .next { s with migrate := { s.migrate with q := w } } ∧
    exec (run 0x1008 8) s = .next { s with migrate := { s.migrate with addr := v } } ∧
    (v.toNat ≤ 48 → exec (run 0x2000 4) s = .next { s with power := { s.power with limit := v.toNat } }) ∧
    (48 < w.toNat → exec (run 0x2000 4) s = .next s) ∧
    ∀ f, 1 ≤ f → f ≤ 64 → exec (run (0x1040 + 16 * (f - 1)) 8) s = exec (.dirtyBitmapSwap f v) s) ∧
  (∀ s fn v, fn ≤ 64 →
    (∀ o n, (o, n) ∈ [(0x1000, 4), (0x1004, 4), (0x1008, 8), (0x1010, 4), (0x2000, 4), (0x1040, 8), (0x1048, 4)] → fn ≠ 0 →
      exec (.registerWrite (.bar0 fn o) n v) s = .next s) ∧
    (∀ o n, 0x50000 ≤ o → exec (.registerWrite (.bar0 fn o) n v) s = .next s) ∧
    FunctionGets (.registerWrite (.bar0 fn 0x3000) 2 v) s fn { functionAt s fn with dbgHandle := v.toNat % 65536 } ∧
    FunctionGets (.registerWrite (.bar0 fn 0x3010) 8 v) s fn { functionAt s fn with dbgAddr := v } ∧
    (∀ c i, (c, i) ∈ [(1, Instr.loadDescriptor fn), (2, .readCounters fn), (3, .startCapture fn), (4, .stopCapture fn), (5, .unfreeze fn)] →
      exec (.registerWrite (.bar0 fn 0x3008) 4 (BitVec.ofNat 64 c)) s = exec i s) ∧
    ∀ n i base limit entry,
      (i < 16 → base.toNat % 4096 = 0 → limit.toNat % 4096 = 0 → FunctionGets (.registerWrite (.window fn i base limit) n v) s fn
        { functionAt s fn with windows := mset (functionAt s fn).windows i (base, limit) }) ∧
      (16 ≤ i ∨ base.toNat % 4096 ≠ 0 ∨ limit.toNat % 4096 ≠ 0 → exec (.registerWrite (.window fn i base limit) n v) s = .next s) ∧
      (∀ o z va h perm, i < 16 → o < 2 ^ 64 → z < 2 ^ 64 → va < 2 ^ 64 → h < 2 ^ 16 → o % 65536 = 0 → z % 65536 = 0 → va % 65536 = 0 →
        entry = entryBytes o z va h perm →
        FunctionGets (.registerWrite (.aperture fn i entry) n v) s fn
          { functionAt s fn with apertures := mset (functionAt s fn).apertures i entry }) ∧
      (16 ≤ i ∨ entry.length ≠ 32 → exec (.registerWrite (.aperture fn i entry) n v) s = .next s)) ∧
  (∀ s core slot l g v w f, core < 768 → slot < 64 → l < 32 → g < w.id.allot → g < 512 → waveAt s core slot = some w → mget w.fibres l = some f →
    let at_ := 0x10000000 + 0x10000 * slot + 0x800 * l + 4 * g
    let run := fun n => Instr.registerWrite (.supervisor core at_) n v
    (f.wait = .parked → ∃ t w', exec (run 4) s = .next t ∧ t = { s with waves := t.waves } ∧ waveAt t core slot = some w' ∧
      readTarget w' (.v l g) = BitVec.ofNat 32 v.toNat ∧ (∀ l' h, l' < 32 → g < 512 → h < 512 → (l', h) ≠ (l, g) →
        readTarget w' (.v l' h) = readTarget w (.v l' h)) ∧ w'.fibres = w.fibres) ∧
    (f.wait = .ready → waveAt s core (64 + slot) = none → s.saved = [] → exec (run 4) s = .next s) ∧
    exec (run 8) s = .next s) ∧
  (∀ s fn o n v, let run := Instr.registerWrite (.bar4 fn o) n v
    (fn ≤ 64 → o + n ≤ 65536 → FunctionGets run s fn { functionAt s fn with
      bar4 := putBlock (functionAt s fn).bar4 o (toBytes (min n 8) v.toNat) }) ∧
    (fn ≤ 64 → 65536 < o + n → exec run s = .next s) ∧ (64 < fn → exec run s = .fault .noSuchUnit)) ∧
  ∀ s fn core o n v a, (64 < fn → exec (.registerWrite (.bar0 fn o) n v) s = .fault .noSuchUnit) ∧
    (768 ≤ core → exec (.registerWrite (.supervisor core a) n v) s = .fault .noSuchUnit)

/-- R354, R355. An export writes the state of a stopped queue in the canonical layout; an import gives a disabled queue all that the layout
holds; a command that its queue does not allow fails. Tracking turns on and off, and a new bitmap address clears bit 1 at once. -/
def Sys2Proof.Claims.migrationAndTrackingHold : Prop :=
  (∀ s k x ps, let m := s.migrate
    let stat := fun n => { s with migrate := { s.migrate with stat := n } }
    1 ≤ m.fn.toNat → m.fn.toNat ≤ 64 → m.q.toNat < 64 → m.addr.toNat % 64 = 0 → QueueIs s m.fn.toNat m.q.toNat k x →
    ringPlaces s 0 false m.addr.toNat 256 = some ps →
    (x.stopped = false → exec (.queueStateExport 1) s = .next (stat 2)) ∧
    (x.stopped = true → untracked s → ∃ t, exec (.queueStateExport 1) s = .next t ∧
      t.mem.bytes = writePlaces s.mem.bytes ps (migrated x) ∧ t.queues = s.queues ∧ t.migrate = { m with stat := 0 }) ∧
    let b := readPlaces s ps
    (x.ctl.getLsbD 0 = true ∨ bf b 0x34 4 ≠ 1 → exec (.queueStateImport 2) s = .next (stat 2)) ∧
    (x.ctl.getLsbD 0 = false → bf b 0x34 4 = 1 → ∃ t y, exec (.queueStateImport 2) s = .next t ∧ t = { s with
        queues := t.queues
        districts := t.districts
        migrate := { m with stat := 0 } } ∧ hostQueue t k = y ∧ (∀ j, j ≠ k → hostQueue t j = hostQueue s j) ∧
      y.ringBase.toNat = bf b 0 8 ∧ y.ringCfg.toNat = bf b 8 4 ∧ y.cplCfg.toNat = bf b 0x0C 4 ∧ y.cplBase.toNat = bf b 0x10 8 ∧
      y.tail.toNat = bf b 0x18 8 ∧ y.head.toNat = bf b 0x20 8 ∧ y.cplIndex = bf b 0x28 8 ∧
      y.cplPhase = decide (bf b 0x30 4 % 2 = 1) ∧ y.ctl.toNat = bf b 0x30 4 / 2 % 8)) ∧
  (∀ s, s.migrate.fn = 0 → (∀ i, i ∈ [Instr.queueStateExport 1, .queueStateImport 2] →
    exec i s = .next { s with migrate := { s.migrate with stat := 2 } })) ∧
  (∀ s v, (v ≠ 1 → exec (.queueStateExport v) s = .next s) ∧ (v ≠ 2 → exec (.queueStateImport v) s = .next s)) ∧
  (∀ s f v, 1 ≤ f → f ≤ 64 → let x := functionAt s f
    (v.toNat = 1 ∨ v.toNat = 3 → exec (.dirtyTrackingDisable f v) s = .next s ∧
      (v.toNat = 1 → FunctionGets (.dirtyTrackingEnable f v) s f { x with dirtyOn := true })) ∧
    (v.toNat = 0 ∨ v.toNat = 2 → exec (.dirtyTrackingEnable f v) s = .next s ∧ FunctionGets (.dirtyTrackingDisable f v) s f { x with
      dirtyOn := false
      dirtyDone := !x.dirtyOn && x.dirtyDone }) ∧
    (4 ≤ v.toNat → exec (.dirtyTrackingEnable f v) s = .next s ∧ exec (.dirtyTrackingDisable f v) s = .next s) ∧
    FunctionGets (.dirtySwapDone f) s f { x with dirtyDone := true } ∧
    ∀ a, FunctionGets (.dirtyBitmapSwap f a) s f { x with
      dirtyAddr := a
      dirtyDone := !x.dirtyOn && x.dirtyDone }) ∧
  ∀ s f v a, f = 0 ∨ 64 < f → ∀ i ∈ [Instr.dirtyTrackingEnable f v, .dirtyTrackingDisable f v, .dirtyBitmapSwap f a, .dirtySwapDone f],
    exec i s = .fault .noSuchUnit

/-- R344. A host access inside an aperture entry acts at the district address that the entry gives; a read of no entry completes with
Unsupported Request, and a write of no entry is discarded. -/
def Sys2Proof.Claims.apertureAccessesHold : Prop :=
  (∀ s fn i o z va h perm offset k d ps n, fn ≤ 64 → z < 2 ^ 64 → va < 2 ^ 64 → h < 2 ^ 16 → o ≤ offset → offset + n ≤ o + z → o < 2 ^ 64 →
    (functionAt s fn).apertures = [(i, entryBytes o z va h perm)] → mget (functionAt s fn).handles h = some k → districtAt s k = some d →
    offset + n ≤ 2 ^ 36 → s.hostWrites = [] → engineOwns s ps = false → (∀ p ∈ ps, sharedPlace s p = false) →
    let at_ := (va + (offset - o)) % 2 ^ 64
    homeReset s d at_ = false →
    (perm ∈ [0x81, 0x83] → access s d .home permR at_ n = .places ps → poisoned s ps = false → markAccess s d false at_ n = s →
      exec (.apertureRead fn offset n) s = .next { s with reply := ⟨readPlaces s ps, 0⟩ }) ∧
    ∀ data, data.length = n → perm ∈ [0x82, 0x83] → access s d .home permW at_ n = .places ps → markAccess s d true at_ n = s →
      allMonitors s = [] → ∃ t, exec (.apertureWrite fn offset data) s = .next t ∧ t.mem.bytes = writePlaces s.mem.bytes ps data ∧
        t.waves = s.waves ∧ t.reply = ⟨[], 0⟩) ∧
  (∀ s fn offset n, fn ≤ 64 → (2 ^ 36 < offset + n ∨ ∀ e ∈ (functionAt s fn).apertures, offset < bf e.2 0 8 ∨
      bf e.2 0 8 + bf e.2 8 8 < offset + n ∨ bf e.2 0x1A 1 < 0x80) →
    exec (.apertureRead fn offset n) s = .next { s with reply := ⟨[], 1⟩ } ∧
    ∀ data, data.length = n → exec (.apertureWrite fn offset data) s = .next { s with reply := ⟨[], 1⟩ }) ∧
  ∀ s fn offset n data, 64 < fn → exec (.apertureRead fn offset n) s = .fault .noSuchUnit ∧
    exec (.apertureWrite fn offset data) s = .fault .noSuchUnit

/-- R352, R359, R390, R392, R393, R394, R397, R398, R399. A restart runs a verified image, measured in index 3; QSTAT shows it from its start to its end,
vector 0 fires at each edge, and on return an entry whose tag shows it applied is passed over. A plug-in is measured in its own index. An
image that is refused sets the boot-failed bit and does nothing else. A function's bit sets once what it needs is there (the model's
reading of R397, log entry 51). -/
def Sys2Proof.Claims.firmwareAndReadinessHold : Prop :=
  (∀ s p i, p < 8 → GoodImage s i → ByRoot s i → i.kind = 2 → (partOf s p).restarting = false →
    ∃ t, exec (.firmwareRestartBegin p (some i)) s = .next t ∧ partOf t p = { partOf s p with
        firmware := imageBytes i
        restarting := true } ∧ (∀ q, q ≠ p → partOf t q = partOf s q) ∧
      mget t.secure.measures 3 = some (extendedBy s 3 i) ∧ (∀ n, n ≠ 3 → mget t.secure.measures n = mget s.secure.measures n) ∧
      mget t.secure.running 2 = some i.security.toNat ∧ ServedTold s t p ∧ t.queues = s.queues ∧ t.mem = s.mem ∧ t.waves = s.waves) ∧
  (∀ s p i, p < 8 → ¬ (GoodImage s i ∧ ByRoot s i ∧ i.kind = 2) → Refuses (.firmwareRestartBegin p (some i)) s) ∧
  (∀ s p, p < 8 → let held := imageOf ((mget s.manage.stored 2).getD (partOf s p).firmware)
    (∀ i, held = some i → exec (.firmwareRestartBegin p none) s = exec (.firmwareRestartBegin p (some i)) s) ∧
    (held = none → (partOf s p).restarting = false → ∃ t, exec (.firmwareRestartBegin p none) s = .next t ∧
      partOf t p = { partOf s p with restarting := true } ∧ t.secure = s.secure ∧ ServedTold s t p ∧ t.mem = s.mem ∧ t.waves = s.waves)) ∧
  (∀ s p, p < 8 → (partOf s p).restarting = true → partReady s p = true → rising s.queues = true →
    ∃ t, exec (.firmwareRestartEnd p) s = .next t ∧ partOf t p = { partOf s p with restarting := false } ∧ ServedTold s t p ∧
      t.mem = s.mem ∧ t.waves = s.waves ∧ ∀ k, let x := hostQueue s k
        (x.part = p ∧ x.current = none ∧ x.head.toNat < x.tail.toNat ∧
          (∃ d ∈ s.districts, ∃ y ∈ d.2.queues, y.2.tag = some (k, x.head.toNat)) → hostQueue t k = { x with head := x.head + 1 }) ∧
        (x.part ≠ p ∨ x.current ≠ none ∨ x.tail.toNat ≤ x.head.toNat ∨
          (∀ d ∈ s.districts, ∀ y ∈ d.2.queues, y.2.tag ≠ some (k, x.head.toNat)) → hostQueue t k = x)) ∧
  (∀ s p, p < 8 → (partOf s p).restarting = false ∨ partReady s p = false → exec (.firmwareRestartEnd p) s = .next s) ∧
  (∀ s fn c i, fn ≤ 64 → c < 16 →
    (GoodImage s i ∧ i.kind = 5 ∧ i.signer = (functionAt s fn).pluginKey → ∃ t, exec (.pluginLoad fn c i) s = .next t ∧
      functionAt t fn = { functionAt s fn with plugins := mset (functionAt s fn).plugins c i.security } ∧
      mget t.secure.measures (0x10 + fn) = some (extendedBy s (0x10 + fn) i) ∧ mget t.secure.running 5 = some i.security.toNat ∧
      t.mem = s.mem ∧ t.waves = s.waves ∧ t.queues = s.queues) ∧
    (¬ (GoodImage s i ∧ i.kind = 5 ∧ i.signer = (functionAt s fn).pluginKey) → Refuses (.pluginLoad fn c i) s)) ∧
  (∀ s i, i < 38 → (s.secure.readiness.getLsbD i = false → CanBeReady s i → s.power.tripped = false ∨ i = 37 →
      (∀ c ∈ s.cores, c.2.held = [] ∧ c.2.log = []) → s.hostWrites = [] → ∃ t, exec (.functionReady i) s = .next t ∧
        t.secure = { s.secure with readiness := s.secure.readiness ||| 1#64 <<< i } ∧ t.mem = s.mem ∧ mkeys t.waves = mkeys s.waves ∧
        (8 ≤ i → i < 16 → (partOf t (i - 8)).restarting = false)) ∧
    (s.secure.readiness.getLsbD i = true ∨ ¬ CanBeReady s i ∨ (s.power.tripped = true ∧ i ≠ 37) →
      exec (.functionReady i) s = .next s)) ∧
  ∀ s p fn c i, (8 ≤ p → exec (.firmwareRestartBegin p (some i)) s = .fault .noSuchUnit ∧
      exec (.firmwareRestartEnd p) s = .fault .noSuchUnit) ∧
    (64 < fn ∨ 16 ≤ c → exec (.pluginLoad fn c i) s = .fault .noSuchUnit)

/-- R333, R335, R339, R340. The firmware gives a new tenant its root district, handle 0, with its queues served by the partition of the tenant's
number modulo 8; for a tenant that has one the block is what a reload of the root reads (log entry 63). The loader loads an object that
passes its checks, into memory and into what fetch and LDL read, and reports 0, or loads nothing of it and reports the first
failing check. -/
def Obligations.TenantsAndCode : Prop :=
  (∀ s fn b, fn ≤ 64 →
    ((functionAt s fn).enabled = true → FunctionGets (.tenantEnable fn b) s fn { functionAt s fn with rootBlock := b }) ∧
    ((functionAt s fn).enabled = false → (blockOk b = false ∨ addDistrict s fn none b 0 (fn % 8) 0 = none) →
      exec (.tenantEnable fn b) s = .next s) ∧
    ∀ j u, (functionAt s fn).enabled = false → addDistrict s fn none b 0 (fn % 8) 0 = some (j, u) →
      ∃ t d, exec (.tenantEnable fn b) s = .next t ∧ functionAt t fn = { functionAt s fn with
          enabled := true
          handles := [(0, s.serial)]
          rootBlock := b } ∧ districtAt t s.serial = some d ∧ d.block = stampBlock b 0 1 0 ∧ d.parent = none ∧ d.depth = 1 ∧
        d.tenant = fn ∧ d.handle = 0 ∧ d.queues.length = bf b 0x074 4 ∧
        (∀ q ∈ d.queues, q.2.part = fn % 8 ∧ q.2.waiting = [] ∧ q.2.appended = 0) ∧
        (∀ k, k ≠ s.serial → districtAt t k = districtAt s k) ∧ t.mem = s.mem) ∧
  (∀ s fn b, 64 < fn → exec (.tenantEnable fn b) s = .fault .noSuchUnit) ∧
  ∀ s o, (o.unload = true → ∃ t, exec (.codeObjectLoad o) s = .next t ∧ t.reply = ⟨[], 0⟩ ∧ t.mem.bytes = s.mem.bytes ∧ t.waves = s.waves) ∧
    (o.unload = false → let refused := fun c => exec (.codeObjectLoad o) s = .next { s with reply := ⟨[], c⟩ }
      let elf := o.elfClass = 2 ∧ o.elfData = 1 ∧ o.osabi = 0 ∧ o.etype = 3 ∧ o.machine = 0xFA74 ∧ o.flags = 2
      (¬ elf → refused 1) ∧
      (elf → sectionsOk o = false → refused 2) ∧
      (elf → sectionsOk o = true → (∃ r ∈ o.relocs, r.type.toNat % 256 = 0 ∨ 4 < r.type.toNat % 256) → refused 3) ∧
      (∀ bs a, elf → o.base % 16 = 0 → a % 16 = 0 → bs.length % 16 = 0 → o.sections = [⟨".text", 1, 6, 16, a, bs.length, bs⟩] → o.relocs = [] →
        o.taskTypes = [] → o.tableaux = [] → o.routines = [] →
        (clauseStarts bs (bs.length / 16 + 1) 0 [] = none → refused 4) ∧
        (clauseStarts bs (bs.length / 16 + 1) 0 [] ≠ none → let u := writeFor s o.district (o.base + a) bs
          ∃ t, exec (.codeObjectLoad o) s = .next t ∧ t.reply = ⟨[], 0⟩ ∧ t.mem.bytes = u.mem.bytes ∧ t.waves = s.waves ∧
            ∀ d, districtAt s o.district = some d → Memory.wf s.mem.code = true →
              ((List.range bs.length).map fun i => codeKey s d (o.base + a + i)).Nodup →
              ∀ i, i < bs.length →
                codeByte t d (o.base + a + i) = BitVec.ofNat 8 (readFor u o.district (o.base + a + i) 1))))

namespace Sys2Proof.Claims
open Sys2Proof.Machine

/-- The duties after an interval above the limit: the earliest stage above its minimum loses one sixteenth (R401). -/
def Lowered (d e : List Nat) : Prop :=
  e.length = 4 ∧ ∀ i, i < 4 → let least := if i = 3 then 4 else 8
    let first := ∀ j, j < i → d.getD j 0 ≤ if j = 3 then 4 else 8
    (first → least < d.getD i 0 → e.getD i 0 = d.getD i 0 - 1) ∧ (¬ first ∨ d.getD i 0 ≤ least → e.getD i 0 = d.getD i 0)

/-- The duties after an interval 50 W or more below the limit: the latest stage below 16/16 gains one sixteenth (R401). -/
def Raised (d e : List Nat) : Prop :=
  e.length = 4 ∧ ∀ i, i < 4 → let last := ∀ j, i < j → j < 4 → 16 ≤ d.getD j 0
    (last → d.getD i 0 < 16 → e.getD i 0 = d.getD i 0 + 1) ∧ (¬ last ∨ 16 ≤ d.getD i 0 → e.getD i 0 = d.getD i 0)

/-- A cluster's duty after a reading in eighths of a degree: each limit goes 3 °C below its threshold (R403). -/
def dutyAt (now : Nat) (eighths : Int) : Nat :=
  if 105 * 8 ≤ eighths ∨ (now = 4 ∧ 102 * 8 < eighths) then 4
  else if 100 * 8 ≤ eighths ∨ (now < 16 ∧ 97 * 8 < eighths) then 8
  else 16

/-- What a trip leaves of the readiness word. -/
def trippedWord (w : W64) : W64 := w &&& ~~~(0x1FFFFFFFFF#64)

/-- The image that boots for a kind, if the flash holds one (R392, R427). -/
def Boots (s : State) (kind : Nat) (i : Image) : Prop := ∃ b, mget s.manage.stored kind = some b ∧ imageOf b = some i

/-- The image for a kind passes R393. -/
def BootsWell (s : State) (kind : Nat) (i : Image) : Prop := Boots s kind i ∧ GoodImage s i ∧ ByRoot s i ∧ i.kind.toNat = kind

end Sys2Proof.Claims

open Sys2Proof Sys2Proof.Machine Sys2Proof.Claims

/-- R400, R401, R403. A power limit up to 48 is kept and another is discarded; the limiter moves one stage by one sixteenth at the end of each
interval; a cluster's reading limits its duty until it falls 3 °C below the threshold; at 110 °C the package trips: bits 36:0 of the
readiness word clear and every partition is held in reset. -/
def Obligations.PowerAndTemperature : Prop :=
  (∀ s v, exec (.pwrlimitWrite v) s = .next (if v.toNat ≤ 48 then { s with power := { s.power with limit := v.toNat } } else s)) ∧
  (∀ s mw, s.clock < s.power.nextStep → exec (.limiterStep mw) s = .next s) ∧
  (∀ s mw, s.power.nextStep ≤ s.clock → s.power.duty.length = 4 → let limit := 1600000 + 25000 * s.power.limit
    ∃ e, exec (.limiterStep mw) s = .next { s with power := { s.power with
        duty := e
        last := mw
        sum := s.power.sum + mw
        count := s.power.count + 1
        nextStep := s.power.nextStep + 12500 } } ∧
      (limit < mw → Lowered s.power.duty e) ∧ (mw + 50000 ≤ limit → Raised s.power.duty e) ∧
      (mw ≤ limit → limit < mw + 50000 → e = s.power.duty)) ∧
  (∀ s c x, c < 192 → rising s.power.clusterDuty = true → ∃ t, exec (.clusterThermalLimit c x) s = .next t ∧
    t = { s with power := t.power } ∧ mget t.power.temps c = some x ∧
    (mget t.power.clusterDuty c).getD 16 = dutyAt ((mget s.power.clusterDuty c).getD 16) x ∧
    (∀ j, j ≠ c → mget t.power.clusterDuty j = mget s.power.clusterDuty j ∧ mget t.power.temps j = mget s.power.temps j) ∧
    t.power.duty = s.power.duty ∧ t.power.limit = s.power.limit) ∧
  (∀ s c x, c < 192 → x < 880 → exec (.packageTrip c x) s = .next s) ∧
  (∀ s c x, c < 192 → 880 ≤ x → s.power.tripped = false → ∃ t, exec (.packageTrip c x) s = .next t ∧ t.power.tripped = true ∧
    t.secure = { s.secure with readiness := trippedWord s.secure.readiness } ∧ t.manage.trips = s.manage.trips + 1 ∧
    mget t.power.temps c = some x ∧ ∀ p, p < 8 → (partOf t p).restarting = true) ∧
  ∀ s c x, 192 ≤ c → exec (.clusterThermalLimit c x) s = .fault .noSuchUnit ∧ exec (.packageTrip c x) s = .fault .noSuchUnit

/-- R267, R389, R390, R399. Errors are counted; a line that holds an uncorrectable one is poisoned, and one in control state resets the
partition; a sub-array that fails is one that `mstest` finds, and is not counted (log entry 20). A reset clears the partition's readiness bit, its cores, its sequencer contexts and its logs, restarts its firmware, poisons what its
caches held and only they, writes back what other partitions held of it, and ends its crews with kind 2 and status 0. -/
def Obligations.ErrorsAndResets : Prop :=
  (∀ s p, p < 8 → ∃ t, exec (.correctableError p) s = .next t ∧ t = { s with partitions := t.partitions } ∧
    partOf t p = { partOf s p with corrected := (partOf s p).corrected + 1 } ∧ ∀ q, q ≠ p → partOf t q = partOf s q) ∧
  (∀ s p place, p < 8 → (place < 2 ^ 40 ∧ place / 2 ^ 36 = p) ∨ (2 ^ 40 ≤ place ∧ place < 2 ^ 41 ∧ (place - 2 ^ 40) / 2 ^ 32 = p) →
    ∃ t, exec (.uncorrectableError p (.line place)) s = .next t ∧ linePoisoned t (place / 128) = true ∧ t.mem.bytes = s.mem.bytes ∧
      partOf t p = { partOf s p with uncorrected := (partOf s p).uncorrected + 1 } ∧
      (∀ l, l ≠ place / 128 → linePoisoned t l = linePoisoned s l) ∧ t.waves = s.waves ∧ t.crews = s.crews) ∧
  (∀ s p core i, p < 8 → i < 16 → core < 768 → core / 96 = p → ∃ t, exec (.uncorrectableError p (.subArray core i)) s = .next t ∧
    t = { s with cores := t.cores } ∧ coreOf t core = { coreOf s core with failing := (coreOf s core).failing ||| 1#16 <<< i } ∧
    ∀ c, c ≠ core → coreOf t c = coreOf s c) ∧
  (∀ s p, p < 8 → exec (.uncorrectableError p .control) s =
    exec (.partitionReset p) (modPart s p fun x => { x with uncorrected := x.uncorrected + 1 })) ∧
  (∀ s p, p < 8 → (∀ e ∈ s.crews, e.1 / 16 / 96 ≠ p) → rising s.cores = true → rising s.seqs = true → (∀ c, c / 96 = p → (coreOf s c).ops = []) →
    (∀ c, c / 96 = p → (coreOf s c).acts = []) → allMonitors s = [] →
    (∀ b, b < 8 → (belfryAt s b).district = none ∨ (belfryAt s b).part ≠ p) → (∀ c, c / 96 ≠ p → (coreOf s c).held = [] ∧ (coreOf s c).log = []) →
    let keeps := fun l => ∃ c, (c, l) ∈ s.mem.l1Dirty ∧ c / 96 ≠ p
    ∃ t, exec (.partitionReset p) s = .next t ∧
      t.secure = { s.secure with readiness := s.secure.readiness &&& ~~~(1#64 <<< (8 + p)) } ∧
      t.manage = { s.manage with resets := s.manage.resets + 1 } ∧ t.mem.bytes = s.mem.bytes ∧ t.crews = s.crews ∧ t.waves = s.waves ∧
      (∀ c, c < 768 → c / 96 = p → coreOf t c = { coreInit with
        cyclesFrom := s.clock
        failing := (coreOf s c).failing }) ∧
      (∀ c, c / 96 ≠ p → coreOf t c = coreOf s c) ∧
      (∀ k, mget t.seqs k = if k < 1536 ∧ k / 192 = p then none else mget s.seqs k) ∧
      partOf t p = { partOf s p with
        swapping := false
        reported := []
        toPost := []
        toServe := []
        restarting := true } ∧ (∀ q, q ≠ p → partOf t q = partOf s q) ∧
      (∀ l ∈ s.mem.sliceDirty, l * 128 / 2 ^ 36 = p → ¬ keeps l → linePoisoned t l = true) ∧
      (∀ l, 2 ^ 40 ≤ l * 128 → l * 128 < 2 ^ 41 → (l * 128 - 2 ^ 40) / 2 ^ 32 = p → ¬ keeps l → linePoisoned t l = true) ∧
      (∀ l c, (c, l) ∈ s.mem.l1Dirty → c / 96 = p → l * 128 < 2 ^ 39 → l * 128 / 2 ^ 36 ≠ p → l ∈ t.mem.poison) ∧
      (∀ l, l * 128 < 2 ^ 39 → l * 128 / 2 ^ 36 = p → keeps l → l ∈ t.mem.sliceDirty ∧ l ∉ t.mem.poison)) ∧
  (∀ s p k c d, p < 8 → k / 16 / 96 = p → crewAt s k = some c → (∀ e ∈ s.crews, e.1 / 16 / 96 = p → e.1 = k) → rising s.crews = true →
    c.ending = false → c.binding = none → c.gang = none → c.seqCtx = none → allMonitors s = [] → rising s.cores = true → (∀ c, c / 96 = p → (coreOf s c).ops = []) → districtAt s (c.district % 2 ^ 32) = some d →
    ∃ t b, exec (.partitionReset p) s = .next t ∧ crewAt t k = none ∧ (∀ j, j ≠ k → crewAt t j = crewAt s j) ∧
      (∀ x ∈ t.waves, ¬ (wkCore x.1 = k / 16 ∧ x.2.id.crew = k)) ∧ districtAt t (c.district % 2 ^ 32) = some b ∧
      b.evWaiting = d.evWaiting ++ [⟨completionBytes c.task 2 c.rank 0, c.dispatcher, c.launch, 2, noCore, 0⟩]) ∧
  ∀ s p i, 8 ≤ p → i ∈ [Instr.correctableError p, .uncorrectableError p .control, .partitionReset p] → exec i s = .fault .noSuchUnit

/-- R392, R393, R394, R397, R403. A package reset leaves nothing running and device memory zero; it keeps the fuses, the flash, host memory and
the sensors; each kind's image boots where R393 does not refuse it, measured first; a refused one sets the boot-failed bit. What it
keeps, and zero memory, are the model's choice where the spec is silent (log entries 5 and 52). -/
def Sys2Proof.Claims.packageResetsHold : Prop :=
  ∀ s, ∃ t, exec (.packageReset []) s = .next t ∧ t.clock = 0 ∧ t.waves = [] ∧ t.crews = [] ∧ t.districts = [] ∧ t.cores = [] ∧ t.seqs = [] ∧
    t.queues = [] ∧ t.functions = [] ∧ t.flights = [] ∧ t.launches = [] ∧ t.power.limit = 48 ∧ t.power.duty = [16, 16, 16, 16] ∧
    t.power.tripped = false ∧ t.power.temps = s.power.temps ∧ t.fabric.nodeSet = false ∧ t.secure.roots = s.secure.roots ∧
    t.secure.minVersion = s.secure.minVersion ∧ t.manage.stored = s.manage.stored ∧ t.manage.trips = 0 ∧
    (∀ a, readByte t.mem.bytes a = if a < 2 ^ 48 then 0 else readByte s.mem.bytes a) ∧ t.mem.poison = [] ∧
    (∀ b, b < 63 → t.secure.readiness.getLsbD b = false) ∧
    (t.secure.readiness.getLsbD 63 = true ↔ ∃ k b, k ∈ [1, 2, 3, 4] ∧ mget s.manage.stored k = some b ∧
      ∃ i, imageOf b = some i ∧ ¬ BootsWell s k i) ∧
    (∀ k, k ∈ [1, 2, 3, 4] → (∀ i, BootsWell s k i → mget t.secure.running k = some i.security.toNat) ∧
      ((∀ i, ¬ BootsWell s k i) → mget t.secure.running k = none)) ∧
    (∀ k i, k ∈ [1, 2] → BootsWell s k i → mget t.secure.measures (k + 1) =
      some (Config.sha3 (List.replicate 48 0 ++ Config.sha3 (signedBytes i)))) ∧
    mget t.secure.measures 1 = some (Config.sha3 (List.replicate 48 0 ++ Config.romDigest)) ∧
    mget t.secure.measures 5 = some (Config.sha3 (List.replicate 48 0 ++ Config.fuseDigest (s.secure.roots.map Prod.snd) s.secure.minVersion))

namespace Sys2Proof.Claims
open Sys2Proof.Machine

/-- The request is answered with this code and these bytes, and the management state becomes `m`; nothing else changes. -/
def Replied (i : Instr) (s : State) (m : Manage) (code : Nat) (bs : List Byte) : Prop :=
  exec i s = .next { s with
    manage := m
    reply := ⟨bs, code⟩ }

/-- The request is answered and has no effect. -/
def RepliesWith (i : Instr) (s : State) (code : Nat) (bs : List Byte) : Prop := Replied i s s.manage code bs

/-- The readiness word as it is read: bit 62 while some duty is below 16/16 (R397, R401). -/
def wordRead (s : State) : Nat := s.secure.readiness.toNat + if ∃ d ∈ s.power.duty, d < 16 then 2 ^ 62 else 0

/-- The SPDM responder can serve a request of this path now: none of the other path is being signed (R396). -/
def Responds (s : State) (path : SpdmPath) : Prop := ∀ p u, s.secure.signing = some (p, u) → p = path ∨ u ≤ s.clock

/-- A measurement index, 48 zero bytes until it is extended (R394). -/
def measured (s : State) (n : Nat) : List Byte := (mget s.secure.measures n).getD (List.replicate 48 0)

/-- A signed answer: `body` and its signature; the responder signs for a while. -/
def Signs (i : Instr) (s : State) (path : SpdmPath) (body nonce : List Byte) : Prop :=
  ∃ t u, exec i s = .next t ∧ s.clock ≤ u ∧ t = { s with
    delays := s.delays.tail
    secure := { s.secure with signing := some (path, u) }
    reply := ⟨body ++ Config.slhSign ([1, 2, 3, 4, 5].map (measured s)) (body ++ nonce), 0⟩ }

end Sys2Proof.Claims

open Sys2Proof Sys2Proof.Machine Sys2Proof.Claims

/-- R425, R426, R427, R430. The management port keeps its endpoint ID, names the message types it carries, counts a message of another type, and
reads sensors out of the latest snapshot, which is taken every 1 ms. A component's transfer is checked when it is complete: the image is
stored, or refused with the stored one in force; ActivateFirmware starts a partition's restart with it. -/
def Sys2Proof.Claims.managementPortHold : Prop :=
  (∀ s e, Replied (.setEndpointId e) s { s.manage with eid := e } 0 []) ∧
  (∀ s, RepliesWith .getEndpointId s 0 [s.manage.eid]) ∧
  (∀ s, RepliesWith .getMessageTypeSupport s 0 [0x00, 0x01, 0x05, 0x7F]) ∧
  (∀ s t, (t ∈ [0x00, 0x01, 0x05, 0x7F] → RepliesWith (.getMctpVersionSupport t) s 0 (Config.dmtfReply t.toNat 4) ∧
      exec (.mctpUnsupportedMessage t) s = .next s) ∧
    (t ∉ [0x00, 0x01, 0x05, 0x7F] → RepliesWith (.getMctpVersionSupport t) s 1 [] ∧
      exec (.mctpUnsupportedMessage t) s = .next { s with manage := { s.manage with dropped := s.manage.dropped + 1 } })) ∧
  (∀ s c, RepliesWith (.pldmBaseCommand c) s 0 (Config.dmtfReply 1 c.toNat)) ∧
  (∀ s, s.manage.telemetry.length = 1152 → let b := s.manage.telemetry
    (∀ c, (c < 192 → RepliesWith (.pldmSensorRead (.clusterTemp c)) s 0 (toBytes 2 (bf b (0x20 + 2 * c) 2))) ∧
      (192 ≤ c → RepliesWith (.pldmSensorRead (.clusterTemp c)) s 1 [])) ∧
    RepliesWith (.pldmSensorRead .railPower) s 0 (toBytes 4 (bf b 0x10 4)) ∧
    (∀ i, (1 ≤ i → i ≤ 4 → RepliesWith (.pldmSensorRead (.duty i)) s 0 (toBytes 1 (bf b (0x17 + i) 1))) ∧
      (i = 0 ∨ 4 < i → RepliesWith (.pldmSensorRead (.duty i)) s 1 [])) ∧
    ∀ i, (i < 64 → RepliesWith (.pldmSensorRead (.readiness i)) s 0 (toBytes 1 (bf b 0 8 / 2 ^ i % 2))) ∧
      (64 ≤ i → RepliesWith (.pldmSensorRead (.readiness i)) s 1 [])) ∧
  (∀ s, (s.clock < s.manage.nextTelemetry → exec .telemetryRefresh s = .next s) ∧
    (s.manage.nextTelemetry ≤ s.clock → s.power.duty.length = 4 → s.power.limit < 2 ^ 32 → (∀ d ∈ s.power.duty, d ≤ 16) →
      s.secure.readiness.getLsbD 62 = false → ∃ b, exec .telemetryRefresh s = .next { s with
        manage := { s.manage with
          telemetry := b
          telemetrySeq := s.manage.telemetrySeq + 1
          nextTelemetry := s.manage.nextTelemetry + 1250000 }
        power := { s.power with
          sum := 0
          count := 0 } } ∧ b.length = 1152 ∧ bf b 0 8 = wordRead s ∧ bf b 8 8 = (s.manage.telemetrySeq + 1) % 2 ^ 64 ∧
        bf b 0x10 4 = (if s.power.count = 0 then s.power.last else s.power.sum / s.power.count) % 2 ^ 32 ∧
        bf b 0x14 4 = s.power.limit ∧ (∀ i, i < 4 → bf b (0x18 + i) 1 = s.power.duty.getD i 0) ∧
        bf b 0x1C 4 = s.manage.dropped % 2 ^ 32 ∧
        (∀ c, c < 192 → (bf b (0x20 + 2 * c) 2 : Int) = ((mget s.power.temps c).getD 0) % 2 ^ 16) ∧
        (∀ p, p < 8 → bf b (0x1A0 + 8 * p) 8 = (partOf s p).corrected % 2 ^ 64 ∧
          bf b (0x1E0 + 8 * p) 8 = (partOf s p).uncorrected % 2 ^ 64) ∧
        (∀ i, i < 18 → bf b (0x220 + 32 * i) 8 = (portAt s i).sent % 2 ^ 64 ∧ bf b (0x228 + 32 * i) 8 = (portAt s i).received % 2 ^ 64 ∧
          bf b (0x230 + 32 * i) 8 = (portAt s i).retries % 2 ^ 64) ∧
        bf b 0x460 8 = s.manage.migrations % 2 ^ 64 ∧ bf b 0x468 8 = s.manage.resets % 2 ^ 64 ∧ bf b 0x470 8 = s.manage.trips % 2 ^ 64)) ∧
  (∀ s c o bs, (1 ≤ c ∧ c ≤ 4 → ∃ b, Replied (.pldmFirmwareUpdateTransfer c o bs) s { s.manage with staged := mset s.manage.staged c b } 0 [] ∧
      (b.drop o).take bs.length = bs ∧ ∀ j, j < o → b.getD j 0 = ((mget s.manage.staged c).getD []).getD j 0) ∧
    (c = 0 ∨ 4 < c → RepliesWith (.pldmFirmwareUpdateTransfer c o bs) s 1 [])) ∧
  (∀ s c b, mget s.manage.staged c = some b → let gone := mdel s.manage.staged c
    let good := ∃ i, imageOf b = some i ∧ i.kind.toNat = c ∧ GoodImage s i ∧ ByRoot s i
    (good → Replied (.pldmTransferComplete c) s { s.manage with
      staged := gone
      stored := mset s.manage.stored c b } 0 []) ∧
    (¬ good → exec (.pldmTransferComplete c) s = .next { s with
      secure := { s.secure with readiness := s.secure.readiness ||| 1#64 <<< 63 }
      manage := { s.manage with staged := gone }
      reply := ⟨[], 1⟩ })) ∧
  (∀ s c, mget s.manage.staged c = none → RepliesWith (.pldmTransferComplete c) s 1 []) ∧
  ∀ s p, (8 ≤ p → RepliesWith (.pldmActivateFirmware p) s 1 []) ∧
    (p < 8 → ∃ u, exec (.firmwareRestartBegin p none) s = .next u ∧ exec (.pldmActivateFirmware p) s = .next { u with reply := ⟨[], 0⟩ })

/-- R428, R429, R432, R433. The vendor commands: each does what R428 says and answers 0; a field out of range gives code 1, and the state that a
command does not allow code 2. Telemetry and readiness reads return the snapshot and the word of R397. -/
def Sys2Proof.Claims.vendorCommandsHold : Prop :=
  (∀ s o n, s.manage.telemetry.length = 1152 →
    (1 ≤ n.toNat → n.toNat ≤ 64 → o.toNat + n.toNat ≤ 0x480 →
      RepliesWith (.readTelemetry o n) s 0 ((s.manage.telemetry.drop o.toNat).take n.toNat)) ∧
    (n = 0 ∨ 64 < n.toNat ∨ 0x480 < o.toNat + n.toNat → RepliesWith (.readTelemetry o n) s 1 [])) ∧
  (∀ s, RepliesWith .readReadiness s 0 (toBytes 8 (wordRead s))) ∧
  (∀ s v, (v.toNat ≤ 48 → exec (.writePowerLimit v) s = .next { s with
      power := { s.power with limit := v.toNat }
      reply := ⟨[], 0⟩ }) ∧ (48 < v.toNat → RepliesWith (.writePowerLimit v) s 1 [])) ∧
  (∀ s c, (80 ≤ c.toNat → c.toNat ≤ 100 → exec (.setMigrationThreshold c) s = .next { s with
      power := { s.power with migrateAt := c.toNat }
      reply := ⟨[], 0⟩ }) ∧ (c.toNat < 80 ∨ 100 < c.toNat → RepliesWith (.setMigrationThreshold c) s 1 [])) ∧
  (∀ s n, (n.toNat ≤ 6143 → s.fabric.nodeSet = false → exec (.setNodeNumber n) s = .next { s with
      fabric := { s.fabric with
        node := n.toNat
        nodeSet := true }
      reply := ⟨[], 0⟩ }) ∧ (n.toNat ≤ 6143 → s.fabric.nodeSet = true → RepliesWith (.setNodeNumber n) s 2 []) ∧
    (6143 < n.toNat → RepliesWith (.setNodeNumber n) s 1 [])) ∧
  (∀ s n m, (8192 ≤ n.toNat ∨ 2 ^ 18 ≤ m.toNat → RepliesWith (.writeRoute n m) s 1 []) ∧
    (n.toNat < 8192 → m.toNat < 2 ^ 18 → rising s.fabric.routes = true → ∃ t, exec (.writeRoute n m) s = .next t ∧ t.reply = ⟨[], 0⟩ ∧
      mget t.fabric.routes n.toNat = (if m = 0 then none else some m) ∧
      (∀ j, j ≠ n.toNat → mget t.fabric.routes j = mget s.fabric.routes j) ∧ t.mem = s.mem ∧ t.waves = s.waves ∧
      ∀ i, i < 18 → (∀ e ∈ t.fabric.routes, e.2.getLsbD i = false) ∧ (portAt t i).up = false ∨
        (∃ e ∈ t.fabric.routes, e.2.getLsbD i = true) ∧ portAt t i = portAt s i)) ∧
  (∀ s p, (8 ≤ p.toNat → RepliesWith (.resetPartition p) s 1 []) ∧
    (p.toNat < 8 → s.power.tripped = true → RepliesWith (.resetPartition p) s 2 []) ∧
    (p.toNat < 8 → s.power.tripped = false → ∃ u, exec (.partitionReset p.toNat) s = .next u ∧
      exec (.resetPartition p) s = .next { u with reply := ⟨[], 0⟩ })) ∧
  (∀ s, (s.power.tripped = false → RepliesWith .clearTrip s 2 []) ∧
    (s.power.tripped = true → ∃ u, exec (.packageReset []) s = .next u ∧ u.power.tripped = false ∧ u.crews = [] ∧
      exec .clearTrip s = .next { u with reply := ⟨[], 0⟩ })) ∧
  ∀ s k, (k = 0 ∨ 5 < k.toNat → RepliesWith (.commitImage k) s 1 []) ∧
    (1 ≤ k.toNat → k.toNat ≤ 5 → mget s.secure.running k.toNat = none → RepliesWith (.commitImage k) s 2 []) ∧
    ∀ v, 1 ≤ k.toNat → k.toNat ≤ 5 → mget s.secure.running k.toNat = some v → ∃ t, exec (.commitImage k) s = .next t ∧
      t.reply = ⟨[], 0⟩ ∧ t = { s with
        secure := t.secure
        reply := t.reply } ∧ mget t.secure.minVersion k.toNat = some (max v ((mget s.secure.minVersion k.toNat).getD 0)) ∧
      ∀ j, j ≠ k.toNat → mget t.secure.minVersion j = mget s.secure.minVersion j

/-- R396, R397, R398, R429. The SPDM responder serves one request at a time: while a request of the other path is being signed every
request gets ERROR, Busy. CHALLENGE and GET_MEASUREMENTS need the attestation bit; requests that it does not support get ERROR. The
code bytes of the answers are the model's (log entry 53). -/
def Obligations.Attestation : Prop :=
  (∀ s path other u nonce idx slot algs c, s.secure.signing = some (other, u) → other ≠ path → s.clock < u →
    ∀ i ∈ [Instr.getVersion path, .getCapabilities path, .negotiateAlgorithms path algs, .getDigests path, .getCertificate path slot,
      .challenge path nonce, .getMeasurements path idx nonce, .spdmUnsupportedRequest path c], RepliesWith i s 0x7F [0x03]) ∧
  ∀ s path, Responds s path →
    let chain := Config.certificate ([1, 2, 3, 4, 5].map (measured s))
    let index := measured s
    let known := fun n => (1 ≤ n ∧ n ≤ 5) ∨ (0x10 ≤ n ∧ n ≤ 0x50)
    RepliesWith (.getVersion path) s 0 [0x14] ∧ RepliesWith (.getCapabilities path) s 0 [21] ∧
    (∀ algs, (algs.slhDsaShake256s = true → algs.sha3_384 = true → RepliesWith (.negotiateAlgorithms path algs) s 0 []) ∧
      (algs.slhDsaShake256s = false ∨ algs.sha3_384 = false → RepliesWith (.negotiateAlgorithms path algs) s 0x7F [0x01])) ∧
    RepliesWith (.getDigests path) s 0 (Config.sha3 chain) ∧ RepliesWith (.getCertificate path 0) s 0 chain ∧
    (∀ slot, slot ≠ 0 → RepliesWith (.getCertificate path slot) s 0x7F [0x01]) ∧
    (∀ c, RepliesWith (.spdmUnsupportedRequest path c) s 0x7F [0x07]) ∧
    (s.secure.readiness.getLsbD 18 = false → ∀ nonce idx, RepliesWith (.challenge path nonce) s 0x7F [0x42] ∧
      RepliesWith (.getMeasurements path idx nonce) s 0x7F [0x42]) ∧
    (s.secure.readiness.getLsbD 18 = true →
      (∀ nonce, Signs (.challenge path nonce) s path (Config.sha3 chain) nonce) ∧
      (∀ idx : Byte, known idx.toNat → RepliesWith (.getMeasurements path idx []) s 0 (idx :: index idx.toNat) ∧
        ∀ nonce, nonce ≠ [] → Signs (.getMeasurements path idx nonce) s path (idx :: index idx.toNat) nonce) ∧
      RepliesWith (.getMeasurements path 0 []) s 0 [70] ∧
      ∀ idx : Byte, idx ≠ 0 → idx ≠ 0xFF → ¬ known idx.toNat → ∀ nonce, RepliesWith (.getMeasurements path idx nonce) s 0x7F [0x01])

/-- R154, R155, R156, R305, R306, R307, R308. What a register field reads, from the register file and from the bypass. -/
def Obligations.OperandForms : Prop :=
  operandFormsHold ∧ bypassReadsHold

/-- R293, R295, R13, R162, R164, R168, R193, R292. Taking a fault: lanes park with their trap registers, and one notification is sent. -/
def Obligations.InstructionFaults : Prop :=
  faultsParkHold ∧ instructionFaultsHold

/-- R177, R176. Integer arithmetic: wrapping, saturating, immediate and division. -/
def Obligations.IntegerArithmetic : Prop :=
  integerArithmeticHold ∧ integerSaturationHold ∧ immediateArithmeticHold ∧ integerDivisionHold

/-- R179, R178. Logic, shifts, counts, bit reversal and address formation. -/
def Obligations.LogicAndShifts : Prop :=
  logicAndShiftsHold ∧ countsHold

/-- R84, R200. Floating arithmetic completes, with canonical NaNs and the signs of zero sums. -/
def Obligations.FloatArithmetic : Prop :=
  floatArithmeticHold ∧ floatZeroSumsHold

/-- R84, R200, R204, R201, and R205 to R210, R214 with R176 and R181. Sign operations, minimum and maximum, and the conversions. -/
def Obligations.FloatConversions : Prop :=
  floatSignsHold ∧ floatMinMaxAndConversionsHold

/-- R99, R100, R101, R102, R216 to R220, R211, R212, R213. The extrapolating accumulator and block quantisation. -/
def Obligations.Extrapolation : Prop :=
  extrapolationHold ∧ blockQuantisationHold

/-- R173, R192, R162, R193. Branches, jumps, calls and returns. -/
def Obligations.BranchesAndCalls : Prop :=
  branchesHold ∧ callsAndReturnsHold

/-- R16, R20, R191, R22, R23. Ending fibres, and their meeting at JOIN and WAITM. -/
def Obligations.FibresEndAndMeet : Prop :=
  quitsHold ∧ joinAndWaitmHold ∧ joinAndWaitmReleasesHold

/-- R161, R175, R223, R227, R228, R323, R50, R54, R222, R295, R296, R356, R383. Loads, their faults and their holds. -/
def Obligations.Loads : Prop :=
  loadsHold ∧ loadFaultsAndHoldsHold

/-- R161, R222, R223, R228, R47, R48, R227. Global, replica, scratchpad and peer stores. -/
def Obligations.Stores : Prop :=
  globalStoresHold ∧ scratchStoresHold

/-- R47, R223, R232, R233, R234, R235, R236. Atomics, compare-and-swap and programmable calls. -/
def Obligations.Atomics : Prop :=
  atomicsHold ∧ compareAndSwapHold ∧ programmableCallsHold

/-- R237, R238, R239, R240, R242, R72, R74, R241. Transactions: begin, abort and commit. -/
def Obligations.Transactions : Prop :=
  transactionBeginAndAbortHold ∧ transactionCommitHold

/-- R243, R244, R245, R246, R247. Barriers and belfry tags. -/
def Obligations.BarriersAndTags : Prop :=
  barriersHold ∧ belfryTagsHold

/-- R250 to R256, R262 to R267, R225, R252, R254, R268 to R271. The tile, matrix and copy instructions are accepted. -/
def Obligations.EngineInstructions : Prop :=
  tileInstructionsHold ∧ copyInstructionsHold

/-- R257, R259, R97, R250, R260, R264, R271. Operand-buffer reservations, and engine operations that end. -/
def Obligations.EngineOperations : Prop :=
  reservationsHold ∧ engineCompletionsHold

/-- R105, R108, R109, R110, R277, R278, R119, R128, R279, R280, R281, R282. Loading, initialising, running and reading a sequencer context. -/
def Obligations.SequencerLoads : Prop :=
  sequencerLoadsHold ∧ sequencerRunsHold

/-- R104, R115, R116, R124, R275, R283, R284, R285, R114, R118, R119, R131, R280. Stage tasks, event arming and the run of a context. -/
def Obligations.SequencerTasksAndEvents : Prop :=
  sequencerTasksAndEventsHold ∧ sequencerEventsHold

/-- R16, R34, R42, R43, R45, R44, R249, R294, R361, R362. The end of crews, notifications and the commands of supervisor cores. -/
def Obligations.CrewsAndNotices : Prop :=
  crewsEndHold ∧ noticesAndCommandsHold

/-- R378, R382, R385, R383. Page tables, paging commands and page faults. -/
def Obligations.PagingCommands : Prop :=
  pageCommandsHold ∧ pageFaultsHold

/-- R354, R355, R344. Migration, dirty tracking and the aperture. -/
def Obligations.HostAccesses : Prop :=
  migrationAndTrackingHold ∧ apertureAccessesHold

/-- R352, R359, R390, R392, R393, R394, R397, R398, R399, R403. Firmware restarts, plug-ins, readiness and package resets. -/
def Obligations.FirmwareAndBoot : Prop :=
  firmwareAndReadinessHold ∧ packageResetsHold

/-- R425, R426, R427, R430, R428, R429, R432, R433. The management port and its vendor commands. -/
def Obligations.ManagementPort : Prop :=
  managementPortHold ∧ vendorCommandsHold
end

