-- ==== Sys2Proof/Laws/Maps.lean ====
section
/-! SUPPORT. The sparse maps: what an entry reads after another is set, removed, changed or filtered, and that the keys
go on rising. -/

namespace Sys2Proof.Machine

@[simp] theorem mget_nil {α : Type} (i : Nat) : mget ([] : List (Nat × α)) i = none := rfl

@[simp] theorem mget_mset_self {α : Type} (m : List (Nat × α)) (i : Nat) (x : α) : mget (mset m i x) i = some x := by
  induction m with
  | nil => simp [mset, mget]
  | cons e m ih =>
    obtain ⟨k, v⟩ := e
    simp only [mset]
    split
    · simp [mget]
    · split
      · simp [mget]
      · simp [mget, *, show ¬ i < k by omega]

@[simp] theorem mget_mset_ne {α : Type} (m : List (Nat × α)) {i j : Nat} (x : α) (h : i ≠ j) :
    mget (mset m i x) j = mget m j := by
  induction m with
  | nil => simp [mset, mget, h]
  | cons e m ih =>
    obtain ⟨k, v⟩ := e
    simp only [mset]
    split
    · subst_vars; simp [mget, h]
    · split
      · simp only [mget, h, if_false]
        split <;> split <;> first | rfl | omega | skip
        split
        · rfl
        · omega
      · simp only [mget, ih]

theorem mget_mset {α : Type} (m : List (Nat × α)) (i j : Nat) (x : α) :
    mget (mset m i x) j = if i = j then some x else mget m j := by
  by_cases h : i = j
  · subst h; simp
  · simp [h]

theorem mset_some {α : Type} (m : List (Nat × α)) (i j : Nat) (x : α) (h : (mget m j).isSome) :
    (mget (mset m i x) j).isSome := by
  rw [mget_mset]; split <;> simp [h]

@[simp] theorem mget_mmod_self {α : Type} (m : List (Nat × α)) (i : Nat) (f : α → α) :
    mget (mmod m i f) i = (mget m i).map f := by
  unfold mmod; split <;> simp_all

@[simp] theorem mget_mmod_ne {α : Type} (m : List (Nat × α)) {i j : Nat} (f : α → α) (h : i ≠ j) :
    mget (mmod m i f) j = mget m j := by
  unfold mmod; split <;> simp [h]

/-- A key below all others of a rising map is not in it. -/
theorem mget_lt {α : Type} {m : List (Nat × α)} {i : Nat} (h : ∀ e ∈ m, i < e.1) : mget m i = none := by
  cases m with
  | nil => rfl
  | cons e m =>
    have := h e (by simp)
    simp [mget, show ¬ e.1 = i by omega, this]

theorem rising_cons {α : Type} {e : Nat × α} {m : List (Nat × α)} :
    rising (e :: m) = true ↔ (∀ x ∈ m, e.1 < x.1) ∧ rising m = true := by
  induction m generalizing e with
  | nil => simp [rising]
  | cons b m ih =>
    simp only [rising, Bool.and_eq_true, decide_eq_true_eq, ih, List.mem_cons, forall_eq_or_imp]
    constructor
    · rintro ⟨h, h', h''⟩
      exact ⟨⟨h, fun x hx => Nat.lt_trans h (h' x hx)⟩, h', h''⟩
    · rintro ⟨⟨h, _⟩, h', h''⟩
      exact ⟨h, h', h''⟩

theorem mem_mset {α : Type} {m : List (Nat × α)} {i : Nat} {x : α} {e : Nat × α} (h : e ∈ mset m i x) :
    e = (i, x) ∨ e ∈ m := by
  induction m with
  | nil => simpa [mset] using h
  | cons b m ih =>
    obtain ⟨k, v⟩ := b
    simp only [mset] at h
    split at h
    · simp at h; rcases h with h | h <;> simp [h]
    · split at h
      · simpa using h
      · simp at h
        rcases h with h | h
        · simp [h]
        · rcases ih h with h | h <;> simp [h]

theorem mem_mdel {α : Type} {m : List (Nat × α)} {i : Nat} {e : Nat × α} (h : e ∈ mdel m i) : e ∈ m := by
  induction m with
  | nil => simp [mdel] at h
  | cons b m ih =>
    obtain ⟨k, v⟩ := b
    simp only [mdel] at h
    split at h
    · simp [h]
    · split at h
      · exact h
      · simp at h
        rcases h with h | h
        · simp [h]
        · simp [ih h]

theorem rising_mset {α : Type} {m : List (Nat × α)} (i : Nat) (x : α) (h : rising m = true) :
    rising (mset m i x) = true := by
  induction m with
  | nil => rfl
  | cons e m ih =>
    obtain ⟨k, v⟩ := e
    obtain ⟨h1, h2⟩ := rising_cons.1 h
    simp only [mset]
    split
    · next hk => subst hk; exact rising_cons.2 ⟨h1, h2⟩
    · split
      · next hk =>
        refine rising_cons.2 ⟨?_, h⟩
        intro y hy
        simp at hy
        rcases hy with rfl | hy
        · exact hk
        · exact Nat.lt_trans hk (h1 y hy)
      · refine rising_cons.2 ⟨?_, ih h2⟩
        intro y hy
        rcases mem_mset hy with rfl | hy
        · show k < i; omega
        · exact h1 y hy

theorem rising_mdel {α : Type} {m : List (Nat × α)} (i : Nat) (h : rising m = true) : rising (mdel m i) = true := by
  induction m with
  | nil => rfl
  | cons e m ih =>
    obtain ⟨k, v⟩ := e
    obtain ⟨h1, h2⟩ := rising_cons.1 h
    simp only [mdel]
    split
    · exact h2
    · split
      · exact h
      · exact rising_cons.2 ⟨fun y hy => h1 y (mem_mdel hy), ih h2⟩

theorem rising_mmod {α : Type} {m : List (Nat × α)} (i : Nat) (f : α → α) (h : rising m = true) :
    rising (mmod m i f) = true := by
  unfold mmod; split
  · exact rising_mset _ _ h
  · exact h

theorem rising_mfilter {α : Type} {m : List (Nat × α)} (p : Nat → Bool) (h : rising m = true) :
    rising (mfilter p m) = true := by
  induction m with
  | nil => rfl
  | cons e m ih =>
    obtain ⟨h1, h2⟩ := rising_cons.1 h
    simp only [mfilter, List.filter_cons] at *
    split
    · refine rising_cons.2 ⟨?_, ih h2⟩
      intro y hy; exact h1 y (List.mem_filter.1 hy).1
    · exact ih h2

theorem mget_mdel_self {α : Type} {m : List (Nat × α)} (i : Nat) (h : rising m = true) : mget (mdel m i) i = none := by
  induction m with
  | nil => rfl
  | cons e m ih =>
    obtain ⟨k, v⟩ := e
    obtain ⟨h1, h2⟩ := rising_cons.1 h
    simp only [mdel]
    split
    · next hk => subst hk; exact mget_lt h1
    · split
      · next h3 h4 => simp [mget, h3, h4]
      · next h3 h4 => simp [mget, h3, h4, ih h2]

theorem mget_mdel_ne {α : Type} {m : List (Nat × α)} {i j : Nat} (h : rising m = true) (hij : i ≠ j) :
    mget (mdel m i) j = mget m j := by
  induction m with
  | nil => rfl
  | cons e m ih =>
    obtain ⟨k, v⟩ := e
    obtain ⟨h1, h2⟩ := rising_cons.1 h
    simp only [mdel]
    split
    · next hk =>
      subst hk
      simp only [mget, hij, if_false]
      split
      · next hj => exact mget_lt fun y hy => Nat.lt_trans hj (h1 y hy)
      · rfl
    · split
      · rfl
      · simp only [mget, ih h2]

/-- A filtered map reads an entry whose key passes as before, and no other. -/
theorem mget_mfilter {α : Type} {m : List (Nat × α)} (p : Nat → Bool) (i : Nat) (h : rising m = true) :
    mget (mfilter p m) i = if p i then mget m i else none := by
  induction m with
  | nil => simp [mfilter]
  | cons e m ih =>
    obtain ⟨k, v⟩ := e
    obtain ⟨h1, h2⟩ := rising_cons.1 h
    have ih := ih h2
    simp only [mfilter, List.filter_cons] at *
    by_cases hk : k = i
    · subst hk
      by_cases hp : p k
      · simp [hp, mget]
      · rw [if_neg (by simpa using hp), ih]; simp [hp]
    · by_cases hp : p k
      · simp only [hp, if_true, mget, hk, if_false, ih]
        split <;> simp
      · rw [if_neg (by simpa using hp), ih]
        simp only [mget, hk, if_false]
        by_cases hi : i < k
        · simp [hi, mget_lt fun y hy => Nat.lt_trans hi (h1 y hy)]
        · simp [hi]

/-! ## Sparse byte memories -/

theorem cget_cset_self (d : Byte) {m : List (Nat × Byte)} (a : Nat) (b : Byte) (h : rising m = true) :
    cget d (cset d m a b) a = b := by
  unfold cget cset
  split
  · next hb => simp [mget_mdel_self a h, hb]
  · simp

theorem cget_cset_ne (d : Byte) {m : List (Nat × Byte)} {a c : Nat} (b : Byte) (h : rising m = true) (hac : a ≠ c) :
    cget d (cset d m a b) c = cget d m c := by
  unfold cget cset
  split
  · simp [mget_mdel_ne h hac]
  · simp [hac]

end Sys2Proof.Machine
end

