-- ==== Sys2Proof/Laws/State.lean ====
section
/-! SUPPORT. What each update of State and of a wave leaves alone, one lemma per field, and what it sets. -/

namespace Sys2Proof.Machine

@[simp] theorem setWave_clock (s : State) (c t : Nat) (w : Wave) : (setWave s c t w).clock = s.clock := rfl
@[simp] theorem setWave_agenda (s : State) (c t : Nat) (w : Wave) : (setWave s c t w).agenda = s.agenda := rfl
@[simp] theorem setWave_delays (s : State) (c t : Nat) (w : Wave) : (setWave s c t w).delays = s.delays := rfl
@[simp] theorem setWave_free (s : State) (c t : Nat) (w : Wave) : (setWave s c t w).free = s.free := rfl
@[simp] theorem setWave_serial (s : State) (c t : Nat) (w : Wave) : (setWave s c t w).serial = s.serial := rfl
@[simp] theorem setWave_cur (s : State) (c t : Nat) (w : Wave) : (setWave s c t w).cur = s.cur := rfl
@[simp] theorem setWave_mem (s : State) (c t : Nat) (w : Wave) : (setWave s c t w).mem = s.mem := rfl
@[simp] theorem setWave_crews (s : State) (c t : Nat) (w : Wave) : (setWave s c t w).crews = s.crews := rfl
@[simp] theorem setWave_saved (s : State) (c t : Nat) (w : Wave) : (setWave s c t w).saved = s.saved := rfl
@[simp] theorem setWave_cores (s : State) (c t : Nat) (w : Wave) : (setWave s c t w).cores = s.cores := rfl
@[simp] theorem setWave_flights (s : State) (c t : Nat) (w : Wave) : (setWave s c t w).flights = s.flights := rfl
@[simp] theorem setWave_districts (s : State) (c t : Nat) (w : Wave) : (setWave s c t w).districts = s.districts := rfl
@[simp] theorem setWave_launches (s : State) (c t : Nat) (w : Wave) : (setWave s c t w).launches = s.launches := rfl
@[simp] theorem setWave_seqs (s : State) (c t : Nat) (w : Wave) : (setWave s c t w).seqs = s.seqs := rfl
@[simp] theorem setWave_belfry (s : State) (c t : Nat) (w : Wave) : (setWave s c t w).belfry = s.belfry := rfl
@[simp] theorem setWave_functions (s : State) (c t : Nat) (w : Wave) : (setWave s c t w).functions = s.functions := rfl
@[simp] theorem setWave_queues (s : State) (c t : Nat) (w : Wave) : (setWave s c t w).queues = s.queues := rfl
@[simp] theorem setWave_hostWrites (s : State) (c t : Nat) (w : Wave) : (setWave s c t w).hostWrites = s.hostWrites := rfl
@[simp] theorem setWave_partitions (s : State) (c t : Nat) (w : Wave) : (setWave s c t w).partitions = s.partitions := rfl
@[simp] theorem setWave_migrate (s : State) (c t : Nat) (w : Wave) : (setWave s c t w).migrate = s.migrate := rfl
@[simp] theorem setWave_fabric (s : State) (c t : Nat) (w : Wave) : (setWave s c t w).fabric = s.fabric := rfl
@[simp] theorem setWave_power (s : State) (c t : Nat) (w : Wave) : (setWave s c t w).power = s.power := rfl
@[simp] theorem setWave_secure (s : State) (c t : Nat) (w : Wave) : (setWave s c t w).secure = s.secure := rfl
@[simp] theorem setWave_manage (s : State) (c t : Nat) (w : Wave) : (setWave s c t w).manage = s.manage := rfl
@[simp] theorem setWave_reply (s : State) (c t : Nat) (w : Wave) : (setWave s c t w).reply = s.reply := rfl

@[simp] theorem setCore_clock (s : State) (c : Nat) (x : Core) : (setCore s c x).clock = s.clock := rfl
@[simp] theorem setCore_agenda (s : State) (c : Nat) (x : Core) : (setCore s c x).agenda = s.agenda := rfl
@[simp] theorem setCore_delays (s : State) (c : Nat) (x : Core) : (setCore s c x).delays = s.delays := rfl
@[simp] theorem setCore_free (s : State) (c : Nat) (x : Core) : (setCore s c x).free = s.free := rfl
@[simp] theorem setCore_serial (s : State) (c : Nat) (x : Core) : (setCore s c x).serial = s.serial := rfl
@[simp] theorem setCore_cur (s : State) (c : Nat) (x : Core) : (setCore s c x).cur = s.cur := rfl
@[simp] theorem setCore_mem (s : State) (c : Nat) (x : Core) : (setCore s c x).mem = s.mem := rfl
@[simp] theorem setCore_waves (s : State) (c : Nat) (x : Core) : (setCore s c x).waves = s.waves := rfl
@[simp] theorem setCore_crews (s : State) (c : Nat) (x : Core) : (setCore s c x).crews = s.crews := rfl
@[simp] theorem setCore_saved (s : State) (c : Nat) (x : Core) : (setCore s c x).saved = s.saved := rfl
@[simp] theorem setCore_flights (s : State) (c : Nat) (x : Core) : (setCore s c x).flights = s.flights := rfl
@[simp] theorem setCore_districts (s : State) (c : Nat) (x : Core) : (setCore s c x).districts = s.districts := rfl
@[simp] theorem setCore_launches (s : State) (c : Nat) (x : Core) : (setCore s c x).launches = s.launches := rfl
@[simp] theorem setCore_seqs (s : State) (c : Nat) (x : Core) : (setCore s c x).seqs = s.seqs := rfl
@[simp] theorem setCore_belfry (s : State) (c : Nat) (x : Core) : (setCore s c x).belfry = s.belfry := rfl
@[simp] theorem setCore_functions (s : State) (c : Nat) (x : Core) : (setCore s c x).functions = s.functions := rfl
@[simp] theorem setCore_queues (s : State) (c : Nat) (x : Core) : (setCore s c x).queues = s.queues := rfl
@[simp] theorem setCore_hostWrites (s : State) (c : Nat) (x : Core) : (setCore s c x).hostWrites = s.hostWrites := rfl
@[simp] theorem setCore_partitions (s : State) (c : Nat) (x : Core) : (setCore s c x).partitions = s.partitions := rfl
@[simp] theorem setCore_migrate (s : State) (c : Nat) (x : Core) : (setCore s c x).migrate = s.migrate := rfl
@[simp] theorem setCore_fabric (s : State) (c : Nat) (x : Core) : (setCore s c x).fabric = s.fabric := rfl
@[simp] theorem setCore_power (s : State) (c : Nat) (x : Core) : (setCore s c x).power = s.power := rfl
@[simp] theorem setCore_secure (s : State) (c : Nat) (x : Core) : (setCore s c x).secure = s.secure := rfl
@[simp] theorem setCore_manage (s : State) (c : Nat) (x : Core) : (setCore s c x).manage = s.manage := rfl
@[simp] theorem setCore_reply (s : State) (c : Nat) (x : Core) : (setCore s c x).reply = s.reply := rfl

@[simp] theorem modCore_clock (s : State) (c : Nat) (f : Core → Core) : (modCore s c f).clock = s.clock := rfl
@[simp] theorem modCore_agenda (s : State) (c : Nat) (f : Core → Core) : (modCore s c f).agenda = s.agenda := rfl
@[simp] theorem modCore_delays (s : State) (c : Nat) (f : Core → Core) : (modCore s c f).delays = s.delays := rfl
@[simp] theorem modCore_free (s : State) (c : Nat) (f : Core → Core) : (modCore s c f).free = s.free := rfl
@[simp] theorem modCore_serial (s : State) (c : Nat) (f : Core → Core) : (modCore s c f).serial = s.serial := rfl
@[simp] theorem modCore_cur (s : State) (c : Nat) (f : Core → Core) : (modCore s c f).cur = s.cur := rfl
@[simp] theorem modCore_mem (s : State) (c : Nat) (f : Core → Core) : (modCore s c f).mem = s.mem := rfl
@[simp] theorem modCore_waves (s : State) (c : Nat) (f : Core → Core) : (modCore s c f).waves = s.waves := rfl
@[simp] theorem modCore_crews (s : State) (c : Nat) (f : Core → Core) : (modCore s c f).crews = s.crews := rfl
@[simp] theorem modCore_saved (s : State) (c : Nat) (f : Core → Core) : (modCore s c f).saved = s.saved := rfl
@[simp] theorem modCore_flights (s : State) (c : Nat) (f : Core → Core) : (modCore s c f).flights = s.flights := rfl
@[simp] theorem modCore_districts (s : State) (c : Nat) (f : Core → Core) : (modCore s c f).districts = s.districts := rfl
@[simp] theorem modCore_launches (s : State) (c : Nat) (f : Core → Core) : (modCore s c f).launches = s.launches := rfl
@[simp] theorem modCore_seqs (s : State) (c : Nat) (f : Core → Core) : (modCore s c f).seqs = s.seqs := rfl
@[simp] theorem modCore_belfry (s : State) (c : Nat) (f : Core → Core) : (modCore s c f).belfry = s.belfry := rfl
@[simp] theorem modCore_functions (s : State) (c : Nat) (f : Core → Core) : (modCore s c f).functions = s.functions := rfl
@[simp] theorem modCore_queues (s : State) (c : Nat) (f : Core → Core) : (modCore s c f).queues = s.queues := rfl
@[simp] theorem modCore_hostWrites (s : State) (c : Nat) (f : Core → Core) : (modCore s c f).hostWrites = s.hostWrites := rfl
@[simp] theorem modCore_partitions (s : State) (c : Nat) (f : Core → Core) : (modCore s c f).partitions = s.partitions := rfl
@[simp] theorem modCore_migrate (s : State) (c : Nat) (f : Core → Core) : (modCore s c f).migrate = s.migrate := rfl
@[simp] theorem modCore_fabric (s : State) (c : Nat) (f : Core → Core) : (modCore s c f).fabric = s.fabric := rfl
@[simp] theorem modCore_power (s : State) (c : Nat) (f : Core → Core) : (modCore s c f).power = s.power := rfl
@[simp] theorem modCore_secure (s : State) (c : Nat) (f : Core → Core) : (modCore s c f).secure = s.secure := rfl
@[simp] theorem modCore_manage (s : State) (c : Nat) (f : Core → Core) : (modCore s c f).manage = s.manage := rfl
@[simp] theorem modCore_reply (s : State) (c : Nat) (f : Core → Core) : (modCore s c f).reply = s.reply := rfl

@[simp] theorem modPart_clock (s : State) (p : Nat) (f : Partition → Partition) : (modPart s p f).clock = s.clock := rfl
@[simp] theorem modPart_agenda (s : State) (p : Nat) (f : Partition → Partition) : (modPart s p f).agenda = s.agenda := rfl
@[simp] theorem modPart_delays (s : State) (p : Nat) (f : Partition → Partition) : (modPart s p f).delays = s.delays := rfl
@[simp] theorem modPart_free (s : State) (p : Nat) (f : Partition → Partition) : (modPart s p f).free = s.free := rfl
@[simp] theorem modPart_serial (s : State) (p : Nat) (f : Partition → Partition) : (modPart s p f).serial = s.serial := rfl
@[simp] theorem modPart_cur (s : State) (p : Nat) (f : Partition → Partition) : (modPart s p f).cur = s.cur := rfl
@[simp] theorem modPart_mem (s : State) (p : Nat) (f : Partition → Partition) : (modPart s p f).mem = s.mem := rfl
@[simp] theorem modPart_waves (s : State) (p : Nat) (f : Partition → Partition) : (modPart s p f).waves = s.waves := rfl
@[simp] theorem modPart_crews (s : State) (p : Nat) (f : Partition → Partition) : (modPart s p f).crews = s.crews := rfl
@[simp] theorem modPart_saved (s : State) (p : Nat) (f : Partition → Partition) : (modPart s p f).saved = s.saved := rfl
@[simp] theorem modPart_cores (s : State) (p : Nat) (f : Partition → Partition) : (modPart s p f).cores = s.cores := rfl
@[simp] theorem modPart_flights (s : State) (p : Nat) (f : Partition → Partition) : (modPart s p f).flights = s.flights := rfl
@[simp] theorem modPart_districts (s : State) (p : Nat) (f : Partition → Partition) : (modPart s p f).districts = s.districts := rfl
@[simp] theorem modPart_launches (s : State) (p : Nat) (f : Partition → Partition) : (modPart s p f).launches = s.launches := rfl
@[simp] theorem modPart_seqs (s : State) (p : Nat) (f : Partition → Partition) : (modPart s p f).seqs = s.seqs := rfl
@[simp] theorem modPart_belfry (s : State) (p : Nat) (f : Partition → Partition) : (modPart s p f).belfry = s.belfry := rfl
@[simp] theorem modPart_functions (s : State) (p : Nat) (f : Partition → Partition) : (modPart s p f).functions = s.functions := rfl
@[simp] theorem modPart_queues (s : State) (p : Nat) (f : Partition → Partition) : (modPart s p f).queues = s.queues := rfl
@[simp] theorem modPart_hostWrites (s : State) (p : Nat) (f : Partition → Partition) : (modPart s p f).hostWrites = s.hostWrites := rfl
@[simp] theorem modPart_migrate (s : State) (p : Nat) (f : Partition → Partition) : (modPart s p f).migrate = s.migrate := rfl
@[simp] theorem modPart_fabric (s : State) (p : Nat) (f : Partition → Partition) : (modPart s p f).fabric = s.fabric := rfl
@[simp] theorem modPart_power (s : State) (p : Nat) (f : Partition → Partition) : (modPart s p f).power = s.power := rfl
@[simp] theorem modPart_secure (s : State) (p : Nat) (f : Partition → Partition) : (modPart s p f).secure = s.secure := rfl
@[simp] theorem modPart_manage (s : State) (p : Nat) (f : Partition → Partition) : (modPart s p f).manage = s.manage := rfl
@[simp] theorem modPart_reply (s : State) (p : Nat) (f : Partition → Partition) : (modPart s p f).reply = s.reply := rfl

@[simp] theorem modCrew_clock (s : State) (k : Nat) (f : Crew → Crew) : (modCrew s k f).clock = s.clock := rfl
@[simp] theorem modCrew_agenda (s : State) (k : Nat) (f : Crew → Crew) : (modCrew s k f).agenda = s.agenda := rfl
@[simp] theorem modCrew_delays (s : State) (k : Nat) (f : Crew → Crew) : (modCrew s k f).delays = s.delays := rfl
@[simp] theorem modCrew_free (s : State) (k : Nat) (f : Crew → Crew) : (modCrew s k f).free = s.free := rfl
@[simp] theorem modCrew_serial (s : State) (k : Nat) (f : Crew → Crew) : (modCrew s k f).serial = s.serial := rfl
@[simp] theorem modCrew_cur (s : State) (k : Nat) (f : Crew → Crew) : (modCrew s k f).cur = s.cur := rfl
@[simp] theorem modCrew_mem (s : State) (k : Nat) (f : Crew → Crew) : (modCrew s k f).mem = s.mem := rfl
@[simp] theorem modCrew_waves (s : State) (k : Nat) (f : Crew → Crew) : (modCrew s k f).waves = s.waves := rfl
@[simp] theorem modCrew_saved (s : State) (k : Nat) (f : Crew → Crew) : (modCrew s k f).saved = s.saved := rfl
@[simp] theorem modCrew_cores (s : State) (k : Nat) (f : Crew → Crew) : (modCrew s k f).cores = s.cores := rfl
@[simp] theorem modCrew_flights (s : State) (k : Nat) (f : Crew → Crew) : (modCrew s k f).flights = s.flights := rfl
@[simp] theorem modCrew_districts (s : State) (k : Nat) (f : Crew → Crew) : (modCrew s k f).districts = s.districts := rfl
@[simp] theorem modCrew_launches (s : State) (k : Nat) (f : Crew → Crew) : (modCrew s k f).launches = s.launches := rfl
@[simp] theorem modCrew_seqs (s : State) (k : Nat) (f : Crew → Crew) : (modCrew s k f).seqs = s.seqs := rfl
@[simp] theorem modCrew_belfry (s : State) (k : Nat) (f : Crew → Crew) : (modCrew s k f).belfry = s.belfry := rfl
@[simp] theorem modCrew_functions (s : State) (k : Nat) (f : Crew → Crew) : (modCrew s k f).functions = s.functions := rfl
@[simp] theorem modCrew_queues (s : State) (k : Nat) (f : Crew → Crew) : (modCrew s k f).queues = s.queues := rfl
@[simp] theorem modCrew_hostWrites (s : State) (k : Nat) (f : Crew → Crew) : (modCrew s k f).hostWrites = s.hostWrites := rfl
@[simp] theorem modCrew_partitions (s : State) (k : Nat) (f : Crew → Crew) : (modCrew s k f).partitions = s.partitions := rfl
@[simp] theorem modCrew_migrate (s : State) (k : Nat) (f : Crew → Crew) : (modCrew s k f).migrate = s.migrate := rfl
@[simp] theorem modCrew_fabric (s : State) (k : Nat) (f : Crew → Crew) : (modCrew s k f).fabric = s.fabric := rfl
@[simp] theorem modCrew_power (s : State) (k : Nat) (f : Crew → Crew) : (modCrew s k f).power = s.power := rfl
@[simp] theorem modCrew_secure (s : State) (k : Nat) (f : Crew → Crew) : (modCrew s k f).secure = s.secure := rfl
@[simp] theorem modCrew_manage (s : State) (k : Nat) (f : Crew → Crew) : (modCrew s k f).manage = s.manage := rfl
@[simp] theorem modCrew_reply (s : State) (k : Nat) (f : Crew → Crew) : (modCrew s k f).reply = s.reply := rfl

@[simp] theorem modDistrict_clock (s : State) (d : Nat) (f : District → District) : (modDistrict s d f).clock = s.clock := rfl
@[simp] theorem modDistrict_agenda (s : State) (d : Nat) (f : District → District) : (modDistrict s d f).agenda = s.agenda := rfl
@[simp] theorem modDistrict_delays (s : State) (d : Nat) (f : District → District) : (modDistrict s d f).delays = s.delays := rfl
@[simp] theorem modDistrict_free (s : State) (d : Nat) (f : District → District) : (modDistrict s d f).free = s.free := rfl
@[simp] theorem modDistrict_serial (s : State) (d : Nat) (f : District → District) : (modDistrict s d f).serial = s.serial := rfl
@[simp] theorem modDistrict_cur (s : State) (d : Nat) (f : District → District) : (modDistrict s d f).cur = s.cur := rfl
@[simp] theorem modDistrict_mem (s : State) (d : Nat) (f : District → District) : (modDistrict s d f).mem = s.mem := rfl
@[simp] theorem modDistrict_waves (s : State) (d : Nat) (f : District → District) : (modDistrict s d f).waves = s.waves := rfl
@[simp] theorem modDistrict_crews (s : State) (d : Nat) (f : District → District) : (modDistrict s d f).crews = s.crews := rfl
@[simp] theorem modDistrict_saved (s : State) (d : Nat) (f : District → District) : (modDistrict s d f).saved = s.saved := rfl
@[simp] theorem modDistrict_cores (s : State) (d : Nat) (f : District → District) : (modDistrict s d f).cores = s.cores := rfl
@[simp] theorem modDistrict_flights (s : State) (d : Nat) (f : District → District) : (modDistrict s d f).flights = s.flights := rfl
@[simp] theorem modDistrict_launches (s : State) (d : Nat) (f : District → District) : (modDistrict s d f).launches = s.launches := rfl
@[simp] theorem modDistrict_seqs (s : State) (d : Nat) (f : District → District) : (modDistrict s d f).seqs = s.seqs := rfl
@[simp] theorem modDistrict_belfry (s : State) (d : Nat) (f : District → District) : (modDistrict s d f).belfry = s.belfry := rfl
@[simp] theorem modDistrict_functions (s : State) (d : Nat) (f : District → District) : (modDistrict s d f).functions = s.functions := rfl
@[simp] theorem modDistrict_queues (s : State) (d : Nat) (f : District → District) : (modDistrict s d f).queues = s.queues := rfl
@[simp] theorem modDistrict_hostWrites (s : State) (d : Nat) (f : District → District) : (modDistrict s d f).hostWrites = s.hostWrites := rfl
@[simp] theorem modDistrict_partitions (s : State) (d : Nat) (f : District → District) : (modDistrict s d f).partitions = s.partitions := rfl
@[simp] theorem modDistrict_migrate (s : State) (d : Nat) (f : District → District) : (modDistrict s d f).migrate = s.migrate := rfl
@[simp] theorem modDistrict_fabric (s : State) (d : Nat) (f : District → District) : (modDistrict s d f).fabric = s.fabric := rfl
@[simp] theorem modDistrict_power (s : State) (d : Nat) (f : District → District) : (modDistrict s d f).power = s.power := rfl
@[simp] theorem modDistrict_secure (s : State) (d : Nat) (f : District → District) : (modDistrict s d f).secure = s.secure := rfl
@[simp] theorem modDistrict_manage (s : State) (d : Nat) (f : District → District) : (modDistrict s d f).manage = s.manage := rfl
@[simp] theorem modDistrict_reply (s : State) (d : Nat) (f : District → District) : (modDistrict s d f).reply = s.reply := rfl

@[simp] theorem modMem_clock (s : State) (f : Memory → Memory) : (modMem s f).clock = s.clock := rfl
@[simp] theorem modMem_agenda (s : State) (f : Memory → Memory) : (modMem s f).agenda = s.agenda := rfl
@[simp] theorem modMem_delays (s : State) (f : Memory → Memory) : (modMem s f).delays = s.delays := rfl
@[simp] theorem modMem_free (s : State) (f : Memory → Memory) : (modMem s f).free = s.free := rfl
@[simp] theorem modMem_serial (s : State) (f : Memory → Memory) : (modMem s f).serial = s.serial := rfl
@[simp] theorem modMem_cur (s : State) (f : Memory → Memory) : (modMem s f).cur = s.cur := rfl
@[simp] theorem modMem_waves (s : State) (f : Memory → Memory) : (modMem s f).waves = s.waves := rfl
@[simp] theorem modMem_crews (s : State) (f : Memory → Memory) : (modMem s f).crews = s.crews := rfl
@[simp] theorem modMem_saved (s : State) (f : Memory → Memory) : (modMem s f).saved = s.saved := rfl
@[simp] theorem modMem_cores (s : State) (f : Memory → Memory) : (modMem s f).cores = s.cores := rfl
@[simp] theorem modMem_flights (s : State) (f : Memory → Memory) : (modMem s f).flights = s.flights := rfl
@[simp] theorem modMem_districts (s : State) (f : Memory → Memory) : (modMem s f).districts = s.districts := rfl
@[simp] theorem modMem_launches (s : State) (f : Memory → Memory) : (modMem s f).launches = s.launches := rfl
@[simp] theorem modMem_seqs (s : State) (f : Memory → Memory) : (modMem s f).seqs = s.seqs := rfl
@[simp] theorem modMem_belfry (s : State) (f : Memory → Memory) : (modMem s f).belfry = s.belfry := rfl
@[simp] theorem modMem_functions (s : State) (f : Memory → Memory) : (modMem s f).functions = s.functions := rfl
@[simp] theorem modMem_queues (s : State) (f : Memory → Memory) : (modMem s f).queues = s.queues := rfl
@[simp] theorem modMem_hostWrites (s : State) (f : Memory → Memory) : (modMem s f).hostWrites = s.hostWrites := rfl
@[simp] theorem modMem_partitions (s : State) (f : Memory → Memory) : (modMem s f).partitions = s.partitions := rfl
@[simp] theorem modMem_migrate (s : State) (f : Memory → Memory) : (modMem s f).migrate = s.migrate := rfl
@[simp] theorem modMem_fabric (s : State) (f : Memory → Memory) : (modMem s f).fabric = s.fabric := rfl
@[simp] theorem modMem_power (s : State) (f : Memory → Memory) : (modMem s f).power = s.power := rfl
@[simp] theorem modMem_secure (s : State) (f : Memory → Memory) : (modMem s f).secure = s.secure := rfl
@[simp] theorem modMem_manage (s : State) (f : Memory → Memory) : (modMem s f).manage = s.manage := rfl
@[simp] theorem modMem_reply (s : State) (f : Memory → Memory) : (modMem s f).reply = s.reply := rfl

@[simp] theorem modFlight_clock (s : State) (n : Nat) (f : Flight → Flight) : (modFlight s n f).clock = s.clock := rfl
@[simp] theorem modFlight_agenda (s : State) (n : Nat) (f : Flight → Flight) : (modFlight s n f).agenda = s.agenda := rfl
@[simp] theorem modFlight_delays (s : State) (n : Nat) (f : Flight → Flight) : (modFlight s n f).delays = s.delays := rfl
@[simp] theorem modFlight_free (s : State) (n : Nat) (f : Flight → Flight) : (modFlight s n f).free = s.free := rfl
@[simp] theorem modFlight_serial (s : State) (n : Nat) (f : Flight → Flight) : (modFlight s n f).serial = s.serial := rfl
@[simp] theorem modFlight_cur (s : State) (n : Nat) (f : Flight → Flight) : (modFlight s n f).cur = s.cur := rfl
@[simp] theorem modFlight_mem (s : State) (n : Nat) (f : Flight → Flight) : (modFlight s n f).mem = s.mem := rfl
@[simp] theorem modFlight_waves (s : State) (n : Nat) (f : Flight → Flight) : (modFlight s n f).waves = s.waves := rfl
@[simp] theorem modFlight_crews (s : State) (n : Nat) (f : Flight → Flight) : (modFlight s n f).crews = s.crews := rfl
@[simp] theorem modFlight_saved (s : State) (n : Nat) (f : Flight → Flight) : (modFlight s n f).saved = s.saved := rfl
@[simp] theorem modFlight_cores (s : State) (n : Nat) (f : Flight → Flight) : (modFlight s n f).cores = s.cores := rfl
@[simp] theorem modFlight_districts (s : State) (n : Nat) (f : Flight → Flight) : (modFlight s n f).districts = s.districts := rfl
@[simp] theorem modFlight_launches (s : State) (n : Nat) (f : Flight → Flight) : (modFlight s n f).launches = s.launches := rfl
@[simp] theorem modFlight_seqs (s : State) (n : Nat) (f : Flight → Flight) : (modFlight s n f).seqs = s.seqs := rfl
@[simp] theorem modFlight_belfry (s : State) (n : Nat) (f : Flight → Flight) : (modFlight s n f).belfry = s.belfry := rfl
@[simp] theorem modFlight_functions (s : State) (n : Nat) (f : Flight → Flight) : (modFlight s n f).functions = s.functions := rfl
@[simp] theorem modFlight_queues (s : State) (n : Nat) (f : Flight → Flight) : (modFlight s n f).queues = s.queues := rfl
@[simp] theorem modFlight_hostWrites (s : State) (n : Nat) (f : Flight → Flight) : (modFlight s n f).hostWrites = s.hostWrites := rfl
@[simp] theorem modFlight_partitions (s : State) (n : Nat) (f : Flight → Flight) : (modFlight s n f).partitions = s.partitions := rfl
@[simp] theorem modFlight_migrate (s : State) (n : Nat) (f : Flight → Flight) : (modFlight s n f).migrate = s.migrate := rfl
@[simp] theorem modFlight_fabric (s : State) (n : Nat) (f : Flight → Flight) : (modFlight s n f).fabric = s.fabric := rfl
@[simp] theorem modFlight_power (s : State) (n : Nat) (f : Flight → Flight) : (modFlight s n f).power = s.power := rfl
@[simp] theorem modFlight_secure (s : State) (n : Nat) (f : Flight → Flight) : (modFlight s n f).secure = s.secure := rfl
@[simp] theorem modFlight_manage (s : State) (n : Nat) (f : Flight → Flight) : (modFlight s n f).manage = s.manage := rfl
@[simp] theorem modFlight_reply (s : State) (n : Nat) (f : Flight → Flight) : (modFlight s n f).reply = s.reply := rfl

@[simp] theorem modWave_clock (s : State) (c t : Nat) (f : Wave → Wave) : (modWave s c t f).clock = s.clock := by
  unfold modWave; split <;> rfl
@[simp] theorem modWave_agenda (s : State) (c t : Nat) (f : Wave → Wave) : (modWave s c t f).agenda = s.agenda := by
  unfold modWave; split <;> rfl
@[simp] theorem modWave_delays (s : State) (c t : Nat) (f : Wave → Wave) : (modWave s c t f).delays = s.delays := by
  unfold modWave; split <;> rfl
@[simp] theorem modWave_free (s : State) (c t : Nat) (f : Wave → Wave) : (modWave s c t f).free = s.free := by
  unfold modWave; split <;> rfl
@[simp] theorem modWave_serial (s : State) (c t : Nat) (f : Wave → Wave) : (modWave s c t f).serial = s.serial := by
  unfold modWave; split <;> rfl
@[simp] theorem modWave_cur (s : State) (c t : Nat) (f : Wave → Wave) : (modWave s c t f).cur = s.cur := by
  unfold modWave; split <;> rfl
@[simp] theorem modWave_mem (s : State) (c t : Nat) (f : Wave → Wave) : (modWave s c t f).mem = s.mem := by
  unfold modWave; split <;> rfl
@[simp] theorem modWave_crews (s : State) (c t : Nat) (f : Wave → Wave) : (modWave s c t f).crews = s.crews := by
  unfold modWave; split <;> rfl
@[simp] theorem modWave_saved (s : State) (c t : Nat) (f : Wave → Wave) : (modWave s c t f).saved = s.saved := by
  unfold modWave; split <;> rfl
@[simp] theorem modWave_cores (s : State) (c t : Nat) (f : Wave → Wave) : (modWave s c t f).cores = s.cores := by
  unfold modWave; split <;> rfl
@[simp] theorem modWave_flights (s : State) (c t : Nat) (f : Wave → Wave) : (modWave s c t f).flights = s.flights := by
  unfold modWave; split <;> rfl
@[simp] theorem modWave_districts (s : State) (c t : Nat) (f : Wave → Wave) : (modWave s c t f).districts = s.districts := by
  unfold modWave; split <;> rfl
@[simp] theorem modWave_launches (s : State) (c t : Nat) (f : Wave → Wave) : (modWave s c t f).launches = s.launches := by
  unfold modWave; split <;> rfl
@[simp] theorem modWave_seqs (s : State) (c t : Nat) (f : Wave → Wave) : (modWave s c t f).seqs = s.seqs := by
  unfold modWave; split <;> rfl
@[simp] theorem modWave_belfry (s : State) (c t : Nat) (f : Wave → Wave) : (modWave s c t f).belfry = s.belfry := by
  unfold modWave; split <;> rfl
@[simp] theorem modWave_functions (s : State) (c t : Nat) (f : Wave → Wave) : (modWave s c t f).functions = s.functions := by
  unfold modWave; split <;> rfl
@[simp] theorem modWave_queues (s : State) (c t : Nat) (f : Wave → Wave) : (modWave s c t f).queues = s.queues := by
  unfold modWave; split <;> rfl
@[simp] theorem modWave_hostWrites (s : State) (c t : Nat) (f : Wave → Wave) : (modWave s c t f).hostWrites = s.hostWrites := by
  unfold modWave; split <;> rfl
@[simp] theorem modWave_partitions (s : State) (c t : Nat) (f : Wave → Wave) : (modWave s c t f).partitions = s.partitions := by
  unfold modWave; split <;> rfl
@[simp] theorem modWave_migrate (s : State) (c t : Nat) (f : Wave → Wave) : (modWave s c t f).migrate = s.migrate := by
  unfold modWave; split <;> rfl
@[simp] theorem modWave_fabric (s : State) (c t : Nat) (f : Wave → Wave) : (modWave s c t f).fabric = s.fabric := by
  unfold modWave; split <;> rfl
@[simp] theorem modWave_power (s : State) (c t : Nat) (f : Wave → Wave) : (modWave s c t f).power = s.power := by
  unfold modWave; split <;> rfl
@[simp] theorem modWave_secure (s : State) (c t : Nat) (f : Wave → Wave) : (modWave s c t f).secure = s.secure := by
  unfold modWave; split <;> rfl
@[simp] theorem modWave_manage (s : State) (c t : Nat) (f : Wave → Wave) : (modWave s c t f).manage = s.manage := by
  unfold modWave; split <;> rfl
@[simp] theorem modWave_reply (s : State) (c t : Nat) (f : Wave → Wave) : (modWave s c t f).reply = s.reply := by
  unfold modWave; split <;> rfl

@[simp] theorem setLane_id (w : Wave) (l : Nat) (x : Lane) : (setLane w l x).id = w.id := rfl
@[simp] theorem setLane_regs (w : Wave) (l : Nat) (x : Lane) : (setLane w l x).regs = w.regs := rfl
@[simp] theorem setLane_spans (w : Wave) (l : Nat) (x : Lane) : (setLane w l x).spans = w.spans := rfl
@[simp] theorem setLane_sched (w : Wave) (l : Nat) (x : Lane) : (setLane w l x).sched = w.sched := rfl
@[simp] theorem setLane_fibres (w : Wave) (l : Nat) (x : Lane) : (setLane w l x).fibres = w.fibres := rfl
@[simp] theorem setLane_window (w : Wave) (l : Nat) (x : Lane) : (setLane w l x).window = w.window := rfl
@[simp] theorem setLane_puts (w : Wave) (l : Nat) (x : Lane) : (setLane w l x).puts = w.puts := rfl
@[simp] theorem setLane_ended (w : Wave) (l : Nat) (x : Lane) : (setLane w l x).ended = w.ended := rfl
@[simp] theorem setLane_away (w : Wave) (l : Nat) (x : Lane) : (setLane w l x).away = w.away := rfl

@[simp] theorem modLane_id (w : Wave) (l : Nat) (f : Lane → Lane) : (modLane w l f).id = w.id := rfl
@[simp] theorem modLane_regs (w : Wave) (l : Nat) (f : Lane → Lane) : (modLane w l f).regs = w.regs := rfl
@[simp] theorem modLane_spans (w : Wave) (l : Nat) (f : Lane → Lane) : (modLane w l f).spans = w.spans := rfl
@[simp] theorem modLane_sched (w : Wave) (l : Nat) (f : Lane → Lane) : (modLane w l f).sched = w.sched := rfl
@[simp] theorem modLane_fibres (w : Wave) (l : Nat) (f : Lane → Lane) : (modLane w l f).fibres = w.fibres := rfl
@[simp] theorem modLane_window (w : Wave) (l : Nat) (f : Lane → Lane) : (modLane w l f).window = w.window := rfl
@[simp] theorem modLane_puts (w : Wave) (l : Nat) (f : Lane → Lane) : (modLane w l f).puts = w.puts := rfl
@[simp] theorem modLane_ended (w : Wave) (l : Nat) (f : Lane → Lane) : (modLane w l f).ended = w.ended := rfl
@[simp] theorem modLane_away (w : Wave) (l : Nat) (f : Lane → Lane) : (modLane w l f).away = w.away := rfl

@[simp] theorem modFibre_id (w : Wave) (l : Nat) (f : Fibre → Fibre) : (modFibre w l f).id = w.id := rfl
@[simp] theorem modFibre_regs (w : Wave) (l : Nat) (f : Fibre → Fibre) : (modFibre w l f).regs = w.regs := rfl
@[simp] theorem modFibre_spans (w : Wave) (l : Nat) (f : Fibre → Fibre) : (modFibre w l f).spans = w.spans := rfl
@[simp] theorem modFibre_sched (w : Wave) (l : Nat) (f : Fibre → Fibre) : (modFibre w l f).sched = w.sched := rfl
@[simp] theorem modFibre_lanes (w : Wave) (l : Nat) (f : Fibre → Fibre) : (modFibre w l f).lanes = w.lanes := rfl
@[simp] theorem modFibre_window (w : Wave) (l : Nat) (f : Fibre → Fibre) : (modFibre w l f).window = w.window := rfl
@[simp] theorem modFibre_puts (w : Wave) (l : Nat) (f : Fibre → Fibre) : (modFibre w l f).puts = w.puts := rfl
@[simp] theorem modFibre_ended (w : Wave) (l : Nat) (f : Fibre → Fibre) : (modFibre w l f).ended = w.ended := rfl
@[simp] theorem modFibre_away (w : Wave) (l : Nat) (f : Fibre → Fibre) : (modFibre w l f).away = w.away := rfl

@[simp] theorem modSched_id (w : Wave) (f : Sched → Sched) : (modSched w f).id = w.id := rfl
@[simp] theorem modSched_regs (w : Wave) (f : Sched → Sched) : (modSched w f).regs = w.regs := rfl
@[simp] theorem modSched_spans (w : Wave) (f : Sched → Sched) : (modSched w f).spans = w.spans := rfl
@[simp] theorem modSched_fibres (w : Wave) (f : Sched → Sched) : (modSched w f).fibres = w.fibres := rfl
@[simp] theorem modSched_lanes (w : Wave) (f : Sched → Sched) : (modSched w f).lanes = w.lanes := rfl
@[simp] theorem modSched_window (w : Wave) (f : Sched → Sched) : (modSched w f).window = w.window := rfl
@[simp] theorem modSched_puts (w : Wave) (f : Sched → Sched) : (modSched w f).puts = w.puts := rfl
@[simp] theorem modSched_ended (w : Wave) (f : Sched → Sched) : (modSched w f).ended = w.ended := rfl
@[simp] theorem modSched_away (w : Wave) (f : Sched → Sched) : (modSched w f).away = w.away := rfl

@[simp] theorem modSched_sched (w : Wave) (f : Sched → Sched) : (modSched w f).sched = f w.sched := rfl
@[simp] theorem modFibre_fibres (w : Wave) (l : Nat) (f : Fibre → Fibre) :
    (modFibre w l f).fibres = mmod w.fibres l f := rfl
@[simp] theorem setWave_waves (s : State) (c t : Nat) (w : Wave) :
    (setWave s c t w).waves = mset s.waves (wkey c t) w := rfl
@[simp] theorem modFlight_flights (s : State) (n : Nat) (f : Flight → Flight) :
    (modFlight s n f).flights = mmod s.flights n f := rfl
@[simp] theorem modCrew_crews (s : State) (k : Nat) (f : Crew → Crew) : (modCrew s k f).crews = mmod s.crews k f := rfl
@[simp] theorem modMem_bytes (s : State) (f : Memory → Memory) : (modMem s f).mem.bytes = f s.mem.bytes := rfl
@[simp] theorem modMem_tiles (s : State) (f : Memory → Memory) : (modMem s f).mem.tiles = s.mem.tiles := rfl
@[simp] theorem modMem_ob (s : State) (f : Memory → Memory) : (modMem s f).mem.ob = s.mem.ob := rfl
@[simp] theorem modMem_code (s : State) (f : Memory → Memory) : (modMem s f).mem.code = s.mem.code := rfl
@[simp] theorem modMem_poison (s : State) (f : Memory → Memory) : (modMem s f).mem.poison = s.mem.poison := rfl
@[simp] theorem modMem_carveLost (s : State) (f : Memory → Memory) : (modMem s f).mem.carveLost = s.mem.carveLost := rfl
@[simp] theorem modMem_l1Dirty (s : State) (f : Memory → Memory) : (modMem s f).mem.l1Dirty = s.mem.l1Dirty := rfl
@[simp] theorem modMem_sliceDirty (s : State) (f : Memory → Memory) : (modMem s f).mem.sliceDirty = s.mem.sliceDirty := rfl
@[simp] theorem modMem_released (s : State) (f : Memory → Memory) : (modMem s f).mem.released = s.mem.released := rfl
@[simp] theorem modMem_frames (s : State) (f : Memory → Memory) : (modMem s f).mem.frames = s.mem.frames := rfl
@[simp] theorem modMem_flipped (s : State) (f : Memory → Memory) : (modMem s f).mem.flipped = s.mem.flipped := rfl

@[simp] theorem waveAt_setWave (s : State) (c t : Nat) (w : Wave) : waveAt (setWave s c t w) c t = some w := by
  simp [waveAt]

theorem waveAt_setWave_ne (s : State) {c t c' t' : Nat} (w : Wave) (h : wkey c t ≠ wkey c' t') :
    waveAt (setWave s c t w) c' t' = waveAt s c' t' := by
  simp [waveAt, h]

/-- Changing a wave that is there. -/
theorem modWave_of (s : State) {c t : Nat} {w : Wave} (f : Wave → Wave) (h : waveAt s c t = some w) :
    modWave s c t f = setWave s c t (f w) := by
  simp [modWave, h]

@[simp] theorem mset_mset {α : Type} (m : List (Nat × α)) (i : Nat) (x y : α) : mset (mset m i x) i y = mset m i y := by
  induction m with
  | nil => simp [mset]
  | cons e m ih =>
    obtain ⟨k, v⟩ := e
    simp only [mset]
    split
    · simp [mset]
    · split
      · simp [mset]
      · simp [mset, *]

@[simp] theorem setWave_setWave (s : State) (c t : Nat) (w w' : Wave) :
    setWave (setWave s c t w) c t w' = setWave s c t w' := by
  simp [setWave]

@[simp] theorem coreOf_modCore (s : State) (c : Nat) (f : Core → Core) : coreOf (modCore s c f) c = f (coreOf s c) := by
  simp [coreOf, modCore, setCore]

@[simp] theorem partOf_modPart (s : State) (p : Nat) (f : Partition → Partition) :
    partOf (modPart s p f) p = f (partOf s p) := by
  simp [partOf, modPart]

@[simp] theorem takeSerial_fst (s : State) : (takeSerial s).1 = s.serial := rfl
@[simp] theorem takeFree_fst (s : State) : (takeFree s).1 = s.free := rfl

end Sys2Proof.Machine
end

