-- ==== Sys2Proof/Laws/Registers.lean ====
section
/-! SUPPORT. What a register, mask or predicate reads once results have landed, and what issuing a fixed-latency
instruction does to a wave (R156, R305, R306). -/

namespace Sys2Proof.Machine

theorem bit_testBit (x i : Nat) : bit x i = x.testBit i := by
  rw [bit, Nat.testBit_eq_decide_div_mod_eq]; rfl

theorem bit_predSet (q : BitVec 8) (i j : Nat) (b : Bool) (hi : i < 7) (hj : j < 8) :
    bit (predSet q i b).toNat j = if i = j then b else bit q.toNat j := by
  have h2 : (2 : Nat) ^ i < 256 := Nat.lt_of_lt_of_le (Nat.pow_lt_pow_right (by omega) hi) (by decide)
  simp only [predSet, show ¬ i ≥ 7 by omega, if_false, bit_testBit]
  cases b
  · simp [Nat.testBit_and, Nat.mod_eq_of_lt h2, BitVec.toNat_not]
    rw [show 255 - 2 ^ i = 2 ^ 8 - (2 ^ i + 1) by omega, Nat.testBit_two_pow_sub_succ (by omega), Nat.testBit_two_pow]
    by_cases h : i = j <;> simp [h, hj]
  · simp [Nat.testBit_or, Nat.mod_eq_of_lt h2, Nat.testBit_two_pow]
    by_cases h : i = j <;> simp [h]

theorem vkey_inj {l g l' g' : Nat} (h : g < 512) (h' : g' < 512) (e : vkey l g = vkey l' g') : l = l' ∧ g = g' := by
  unfold vkey at e; omega

/-- Two waves with the same registers, masks and fibres. -/
def SameFile (w w' : Wave) : Prop :=
  w.regs.v = w'.regs.v ∧ w.regs.s = w'.regs.s ∧ w.regs.k = w'.regs.k ∧ w.fibres = w'.fibres

theorem SameFile.refl (w : Wave) : SameFile w w := ⟨rfl, rfl, rfl, rfl⟩

theorem SameFile.read {w w' : Wave} (h : SameFile w w') (t : Target) : readTarget w t = readTarget w' t := by
  obtain ⟨h1, h2, h3, h4⟩ := h
  cases t <;> simp [readTarget, *]

theorem SameFile.land {w w' : Wave} (h : SameFile w w') (t : Target) (x : W32) :
    SameFile (landWrite w t x) (landWrite w' t x) := by
  obtain ⟨h1, h2, h3, h4⟩ := h
  cases t <;> simp [SameFile, landWrite, *]

theorem SameFile.one {w w' : Wave} (h : SameFile w w') (p : Pend) : SameFile (landOne w p) (landOne w' p) := by
  unfold landOne
  rw [h.read]
  exact h.land _ _

theorem SameFile.foldl {w w' : Wave} (h : SameFile w w') (ps : List Pend) :
    SameFile (ps.foldl landOne w) (ps.foldl landOne w') := by
  induction ps generalizing w w' with
  | nil => exact h
  | cons p ps ih => exact ih (h.one p)

theorem SameFile.all {w w' : Wave} (h : SameFile w w') (ws : List (Target × W32)) :
    SameFile (landAll w ws) (landAll w' ws) := by
  induction ws generalizing w w' with
  | nil => exact h
  | cons e ws ih => exact ih (h.land _ _)

/-- Landing a result whole is landing its value. -/
theorem landOne_whole (w : Wave) (p : Pend) (h : p.keep = 0) : landOne w p = landWrite w p.target p.value := by
  simp [landOne, h]

theorem readTarget_landWrite_ne (w : Wave) {t u : Target} (x : W32) (ht : t.plain) (hu : u.plain) (h : t ≠ u) :
    readTarget (landWrite w t x) u = readTarget w u := by
  cases t with
  | v l g => cases u with
    | v l' g' =>
      have : vkey l g ≠ vkey l' g' := fun e => h (by obtain ⟨rfl, rfl⟩ := vkey_inj ht hu e; rfl)
      simp [readTarget, landWrite, rget, rset, this]
    | s i => rfl
    | k i => rfl
    | p l' i => rfl
  | s i => cases u with
    | s j =>
      have : i ≠ j := fun e => h (by rw [e])
      simp [readTarget, landWrite, rget, rset, this]
    | v l g => rfl
    | k j => rfl
    | p l j => rfl
  | k i => cases u with
    | k j =>
      have : i ≠ j := fun e => h (by rw [e])
      simp [readTarget, landWrite, rget, rset, this]
    | v l g => rfl
    | s j => rfl
    | p l j => rfl
  | p l i => cases u with
    | p m j =>
      by_cases hl : l = m
      · subst hl
        have hij : i ≠ j := fun e => h (by rw [e])
        have hi : i < 7 := ht
        have hj : j < 7 := hu
        simp only [readTarget, landWrite, modFibre_fibres, mget_mmod_self]
        cases mget w.fibres l with
        | none => rfl
        | some f =>
          simp only [Option.map_some]
          congr 1
          simp [predBit, bit_predSet _ i j _ hi (by omega), hij]
      · simp [readTarget, landWrite, hl]
    | v l g => rfl
    | s j => rfl
    | k j => rfl

/-- A landed register reads its value. -/
theorem readTarget_landWrite_self (w : Wave) (t : Target) (x : W32) (h : ∀ l i, t ≠ .p l i) :
    readTarget (landWrite w t x) t = x := by
  cases t with
  | v l g => simp [readTarget, landWrite, rget, rset]
  | s i => simp [readTarget, landWrite, rget, rset]
  | k i => simp [readTarget, landWrite, rget, rset]
  | p l i => exact absurd rfl (h l i)

/-- A landed predicate of a fibre reads its value. -/
theorem readTarget_landWrite_pred (w : Wave) (l i : Nat) (x : W32) (hi : i < 7) (h : (mget w.fibres l).isSome) :
    readTarget (landWrite w (.p l i) x) (.p l i) = if x = 0 then 0 else 1 := by
  obtain ⟨f, hf⟩ := Option.isSome_iff_exists.1 h
  simp only [readTarget, landWrite, modFibre_fibres, mget_mmod_self, hf, Option.map_some, predBit,
    bit_predSet _ i i _ hi (by omega)]
  by_cases hx : x = 0 <;> simp [hx, show ¬ i = 7 by omega]

theorem landWrite_fibre (w : Wave) (t : Target) (x : W32) (l : Nat) :
    (mget (landWrite w t x).fibres l).isSome = (mget w.fibres l).isSome := by
  cases t with
  | p m i =>
    simp only [landWrite, modFibre_fibres]
    by_cases h : m = l
    · subst h; simp
    · simp [h]
  | v l g => rfl
  | s i => rfl
  | k i => rfl

/-- Results that do not name a register leave it. -/
theorem readTarget_landAll_out (w : Wave) (ws : List (Target × W32)) {u : Target} (hu : u.plain)
    (hp : ∀ e ∈ ws, e.1.plain) (h : ∀ e ∈ ws, e.1 ≠ u) : readTarget (landAll w ws) u = readTarget w u := by
  induction ws generalizing w with
  | nil => rfl
  | cons e ws ih =>
    obtain ⟨t, x⟩ := e
    rw [landAll, ih _ (fun e he => hp e (by simp [he])) (fun e he => h e (by simp [he]))]
    exact readTarget_landWrite_ne w x (hp (t, x) (by simp)) hu (h (t, x) (by simp))

/-- A register that the results name, always with one value, holds that value. -/
theorem readTarget_landAll_in (w : Wave) (ws : List (Target × W32)) {u : Target} {x : W32} (hu : u.plain)
    (hn : ∀ l i, u ≠ .p l i) (hp : ∀ e ∈ ws, e.1.plain) (hm : (u, x) ∈ ws) (h : ∀ e ∈ ws, e.1 = u → e.2 = x) :
    readTarget (landAll w ws) u = x := by
  induction ws generalizing w with
  | nil => simp at hm
  | cons e ws ih =>
    obtain ⟨t, y⟩ := e
    rw [landAll]
    by_cases hin : ∃ e ∈ ws, e.1 = u
    · obtain ⟨e, he, rfl⟩ := hin
      refine ih _ (fun e he => hp e (by simp [he])) ?_ (fun e he => h e (by simp [he]))
      rw [← h e (by simp [he]) rfl]; exact he
    · have hout : ∀ e ∈ ws, e.1 ≠ u := fun e he hc => hin ⟨e, he, hc⟩
      rw [readTarget_landAll_out _ ws hu (fun e he => hp e (by simp [he])) hout]
      simp only [List.mem_cons, Prod.mk.injEq] at hm
      rcases hm with ⟨rfl, rfl⟩ | hm
      · exact readTarget_landWrite_self w u x hn
      · exact absurd rfl (hout (u, x) hm)

/-- A predicate that the results name, always with one value, holds that value. -/
theorem readTarget_landAll_pred (w : Wave) (ws : List (Target × W32)) {l i : Nat} {b : Bool} (hi : i < 7)
    (hf : (mget w.fibres l).isSome) (hp : ∀ e ∈ ws, e.1.plain) (hm : (.p l i, if b then 1 else 0) ∈ ws)
    (h : ∀ e ∈ ws, e.1 = .p l i → e.2 = if b then 1 else 0) :
    readTarget (landAll w ws) (.p l i) = if b then 1 else 0 := by
  induction ws generalizing w with
  | nil => simp at hm
  | cons e ws ih =>
    obtain ⟨t, y⟩ := e
    rw [landAll]
    by_cases hin : ∃ e ∈ ws, e.1 = .p l i
    · obtain ⟨e, he, h1⟩ := hin
      refine ih _ (by rw [landWrite_fibre]; exact hf) (fun e he => hp e (by simp [he])) ?_ (fun e he => h e (by simp [he]))
      rw [← h e (by simp [he]) h1, ← h1]; exact he
    · have hout : ∀ e ∈ ws, e.1 ≠ .p l i := fun e he hc => hin ⟨e, he, hc⟩
      rw [readTarget_landAll_out _ ws (show (Target.p l i).plain from hi) (fun e he => hp e (by simp [he])) hout]
      simp only [List.mem_cons, Prod.mk.injEq] at hm
      rcases hm with ⟨rfl, rfl⟩ | hm
      · rw [readTarget_landWrite_pred w l i _ hi hf]; cases b <;> decide
      · exact absurd rfl (hout _ hm)

/-! ## What pending results change -/

/-- What a pending write does when it lands, whenever that is. -/
def Pend.what (p : Pend) : Target × W32 × W32 := (p.target, p.keep, p.value)

/-- A write that is overtaken lands earlier, and does what it would have done. -/
theorem overtake_what (pend : List Pend) (t : Target) (land : Nat) : (overtake pend t land).map Pend.what = pend.map Pend.what := by
  unfold overtake; split
  · rw [List.map_map]
    refine List.map_congr_left fun p _ => ?_
    simp only [Function.comp, Pend.what]; split <;> rfl
  · rfl

theorem landOne_what {p q : Pend} (h : p.what = q.what) (w : Wave) : landOne w p = landOne w q := by
  simp only [Pend.what, Prod.mk.injEq] at h
  simp only [landOne, h.1, h.2.1, h.2.2]

theorem foldl_what {es fs : List Pend} (h : es.map Pend.what = fs.map Pend.what) (w : Wave) :
    es.foldl landOne w = fs.foldl landOne w := by
  induction es generalizing fs w with
  | nil => cases fs <;> simp_all
  | cons p es ih =>
    cases fs with
    | nil => simp at h
    | cons q fs =>
      rw [List.map_cons, List.map_cons, List.cons.injEq] at h
      rw [List.foldl_cons, List.foldl_cons, landOne_what h.1, ih h.2]

theorem pendWrite_spec (w : Wave) (clock lat slot : Nat) (t : Target) (x : W32) :
    ∃ pend run, pendWrite w clock lat slot t x = modSched w (fun q => { q with pend := pend, run := run }) ∧
      pend.map Pend.what = w.sched.pend.map Pend.what ++ [(t, 0, x)] := by
  refine ⟨_, _, rfl, ?_⟩
  rw [List.map_append, overtake_what]; rfl

/-- Results put on their way change a wave only in what is pending and on the bypass. -/
theorem pendAll_spec (w : Wave) (clock lat slot : Nat) (ws : List (Target × W32)) :
    ∃ pend run, pendAll w clock lat slot ws = modSched w (fun q => { q with pend := pend, run := run }) ∧
      pend.map Pend.what = w.sched.pend.map Pend.what ++ ws.map fun e => (e.1, 0, e.2) := by
  induction ws generalizing w with
  | nil => exact ⟨w.sched.pend, w.sched.run, by simp [pendAll, modSched], by simp⟩
  | cons e ws ih =>
    obtain ⟨t, x⟩ := e
    obtain ⟨es, run, h1, h2⟩ := ih (pendWrite w clock lat slot t x)
    obtain ⟨p, r, g1, g2⟩ := pendWrite_spec w clock lat slot t x
    refine ⟨es, run, ?_, ?_⟩
    · rw [pendAll, h1, g1]; rfl
    · rw [h2, g1]
      simp [g2]

theorem settled_eq (w : Wave) : SameFile (settled w) (w.sched.pend.foldl landOne w) := by
  unfold settled landPend
  rw [List.filter_eq_self.2 (by simp)]
  exact SameFile.foldl (w' := w) (by exact ⟨rfl, rfl, rfl, rfl⟩) _

theorem foldl_whole (w : Wave) (es : List Pend) (h : ∀ p ∈ es, p.keep = 0) :
    es.foldl landOne w = landAll w (es.map fun p => (p.target, p.value)) := by
  induction es generalizing w with
  | nil => rfl
  | cons p es ih =>
    rw [List.foldl_cons, landOne_whole w p (h p (by simp)), ih _ (fun p hp => h p (by simp [hp]))]
    rfl

/-- Once they have landed, results put on their way stand on what had landed before. -/
theorem settled_pendAll (w : Wave) (clock lat slot : Nat) (ws : List (Target × W32)) (t : Target) :
    readTarget (settled (pendAll w clock lat slot ws)) t = readTarget (landAll (settled w) ws) t := by
  obtain ⟨pend, run, h1, h2⟩ := pendAll_spec w clock lat slot ws
  have hw : pend.map Pend.what = (w.sched.pend ++ ws.map fun e => (⟨e.1, 0, e.2, 0⟩ : Pend)).map Pend.what := by
    rw [h2, List.map_append, List.map_map]; rfl
  rw [h1, (settled_eq _).read]
  simp only [modSched_sched]
  rw [foldl_what hw, List.foldl_append, foldl_whole _ (ws.map fun e => (⟨e.1, 0, e.2, 0⟩ : Pend))
      (fun p hp => by obtain ⟨e, -, rfl⟩ := List.mem_map.1 hp; rfl), List.map_map, show ws.map ((fun p : Pend => (p.target, p.value)) ∘ fun e => ⟨e.1, 0, e.2, 0⟩) = ws from List.map_id'' (fun _ => rfl) ws]
  refine SameFile.read (SameFile.all ?_ _) t
  have h := settled_eq w
  have h' : SameFile (w.sched.pend.foldl landOne (modSched w fun q => { q with pend := pend, run := run }))
      (w.sched.pend.foldl landOne w) :=
    SameFile.foldl (w' := w) (by exact ⟨rfl, rfl, rfl, rfl⟩) _
  exact ⟨h'.1.trans h.1.symm, h'.2.1.trans h.2.1.symm, h'.2.2.1.trans h.2.2.1.symm, h'.2.2.2.trans h.2.2.2.symm⟩

/-! ## Operands -/

theorem ofWords_lt (ws : List W32) : ofWords ws < 2 ^ (32 * ws.length) := by
  induction ws with
  | nil => simp [ofWords]
  | cons x ws ih =>
    have hx := x.isLt
    simp only [ofWords, List.length_cons]
    rw [show 32 * (ws.length + 1) = 32 * ws.length + 32 by omega, Nat.pow_add]
    have : 2 ^ (32 * ws.length) * 2 ^ 32 ≥ (ofWords ws + 1) * 2 ^ 32 := Nat.mul_le_mul_right _ ih
    omega

/-- An operand of `n` registers fits them. -/
theorem opd_lt (v : View) (l : Nat) (e : BitVec 8) (n : Nat) (h : 0 < n) : v.opd l e n < 2 ^ (32 * n) := by
  have hp : 2 ^ 32 ≤ 2 ^ (32 * n) := Nat.pow_le_pow_right (by decide) (by omega)
  unfold View.opd
  split
  · exact Nat.lt_of_lt_of_le (Nat.mod_lt _ (by decide)) hp
  · refine Nat.lt_of_lt_of_le (ofWords_lt _) (Nat.pow_le_pow_right (by decide) ?_)
    rw [List.length_map]
    unfold targetsOf
    split <;> simp
    omega

end Sys2Proof.Machine
end

