-- ==== Sys2Proof/Laws/Commit.lean ====
section
/-! SUPPORT. What an instruction that acts lane by lane does to its wave (R153, R156, R165): one lemma for those of fixed
latency with one register result, and one for those with predicate results. -/

namespace Sys2Proof.Machine

/-- An instruction that issues, none of its lanes going on after a wait, sees the wave as it stands. -/
theorem viewOf_first {s : State} (h : Ctl) (hf : s.cur.again = none) : viewOf h s = freshView h s := by
  unfold viewOf; dsimp only; rw [hf]

/-- A lane's result without control transfer, window change or context. -/
def LaneOut.quiet (o : LaneOut) : Prop := o.goto = none ∧ o.win = none ∧ o.xa = none

theorem applyAll_quiet (clock : Nat) (w : Wave) (os : List (Nat × LaneOut)) (h : ∀ e ∈ os, e.2.quiet) :
    applyAll clock w os = w := by
  induction os generalizing w with
  | nil => rfl
  | cons e os ih =>
    obtain ⟨l, o⟩ := e
    obtain ⟨h1, h2, h3⟩ := h (l, o) (by simp)
    rw [applyAll, show laneApply clock w l o = w by simp_all [laneApply], ih _ fun e he => h e (by simp [he])]

theorem trapsOf_done (ls : List Nat) (f : Nat → LaneOut) : trapsOf (ls.map fun l => (l, LaneRes.done (f l))) = [] := by
  induction ls with
  | nil => rfl
  | cons l ls ih => exact ih

theorem doneOf_done (ls : List Nat) (f : Nat → LaneOut) :
    doneOf (ls.map fun l => (l, LaneRes.done (f l))) = ls.map fun l => (l, f l) := by
  induction ls with
  | nil => rfl
  | cons l ls ih => exact congrArg _ ih

/-- The wave with the results of these lanes under way and their flags in FPSTAT. -/
def withResults (lat : Nat) (v : View) (w : Wave) (os : List (Nat × LaneOut)) : Wave :=
  let w := pendAll w v.clock lat v.index (allWrites v true os)
  { w with regs := { w.regs with fpstat := w.regs.fpstat ||| allFlags os } }

/-- A fixed-latency instruction that completes in every active lane, without control transfer. -/
theorem commitFixed_done (lat : Nat) (v : View) (s : State) (w : Wave) (f : Nat → LaneOut)
    (hw : waveAt s v.core v.slot = some w) (hq : ∀ l ∈ v.act, (f l).quiet) :
    commitFixed lat v (v.act.map fun l => (l, .done (f l))) s =
      setWave s v.core v.slot (withResults lat v w (v.act.map fun l => (l, f l))) := by
  have h : ∀ e ∈ v.act.map fun l => (l, f l), e.2.quiet := by
    intro e he
    obtain ⟨l, hl, rfl⟩ := List.mem_map.1 he
    exact hq l hl
  simp only [commitFixed, trapsOf_done, doneOf_done, takeFaults, modWave_of _ _ hw, applyAll_quiet _ _ _ h, withResults]

/-- The lanes that pass the window check have the results of the lane function. -/
theorem resultsOf_done (sh : Shape) (v : View) (g : View → Nat → LaneRes) (f : Nat → LaneOut)
    (hwin : ∀ l ∈ v.act, windowOk sh v.wave.id.allot (v.win l) (v.win l) = true)
    (hg : ∀ l ∈ v.act, g v l = .done (f l)) :
    resultsOf sh v g = v.act.map fun l => (l, .done (f l)) := by
  refine List.map_congr_left fun l hl => ?_
  simp [laneRes, hwin l hl, hg l hl]

theorem pendAll_same (w : Wave) (clock lat slot : Nat) (ws : List (Target × W32)) :
    SameButResults w (pendAll w clock lat slot ws) ∧ (pendAll w clock lat slot ws).lanes = w.lanes ∧
      (pendAll w clock lat slot ws).regs = w.regs := by
  obtain ⟨es, run, h, _⟩ := pendAll_spec w clock lat slot ws
  rw [h]
  exact ⟨⟨rfl, ⟨rfl, rfl, rfl, rfl⟩, rfl, rfl, rfl, ⟨rfl, rfl⟩, rfl⟩, rfl, rfl⟩

theorem withResults_same (lat : Nat) (v : View) (w : Wave) (os : List (Nat × LaneOut)) :
    SameButResults w (withResults lat v w os) ∧ (withResults lat v w os).lanes = w.lanes ∧
      (withResults lat v w os).regs.fpstat = w.regs.fpstat ||| allFlags os := by
  obtain ⟨h, h1, h2⟩ := pendAll_same w v.clock lat v.index (allWrites v true os)
  refine ⟨⟨h.id, ?_, h.spans, h.tags, h.fibres, h.window, h.ended⟩, h1, ?_⟩
  · simp [withResults, h2]
  · simp [withResults, h2]

theorem settled_withResults (lat : Nat) (v : View) (w : Wave) (os : List (Nat × LaneOut)) (x : Target) :
    readTarget (settled (withResults lat v w os)) x = readTarget (landAll (settled w) (allWrites v true os)) x := by
  rw [← settled_pendAll w v.clock lat v.index, (settled_eq _).read, (settled_eq _).read]
  exact SameFile.read (SameFile.foldl (w' := pendAll w v.clock lat v.index (allWrites v true os))
    (by exact ⟨rfl, rfl, rfl, rfl⟩) _) x

/-! ## The words of a result -/

theorem ofWords_wordsOf (n x : Nat) : ofWords (wordsOf n x) = x % 2 ^ (32 * n) := by
  induction n generalizing x with
  | zero => simp [wordsOf, ofWords, Nat.mod_one]
  | succ n ih =>
    simp only [wordsOf, ofWords, ih, BitVec.toNat_ofNat]
    rw [show 32 * (n + 1) = 32 + 32 * n by omega, Nat.pow_add, Nat.mod_mul]

theorem wordsOf_length (n x : Nat) : (wordsOf n x).length = n := by
  induction n generalizing x with
  | zero => rfl
  | succ n ih => simp [wordsOf, ih]

theorem targetsOf_length (l win : Nat) (e : BitVec 8) (regs : Nat) (h : regClass e = .mask → regs = 1)
    (hc : regClass e = .vec ∨ regClass e = .scalar ∨ regClass e = .mask) : (targetsOf l win e regs).length = regs := by
  unfold targetsOf
  rcases hc with hc | hc | hc <;> simp [hc]
  exact (h hc).symm

theorem targetsOf_plain {l win : Nat} {e : BitVec 8} {regs : Nat} (h : vecOk 512 win e regs = true) :
    ∀ x ∈ targetsOf l win e regs, x.plain ∧ ∀ m p, x ≠ .p m p := by
  intro x hx
  unfold targetsOf at hx
  split at hx
  · next hc =>
    simp only [vecOk, hc, bne_self_eq_false, Bool.false_or, decide_eq_true_eq] at h
    obtain ⟨i, hi, rfl⟩ := List.mem_map.1 hx
    rw [List.mem_range] at hi
    exact ⟨by show _ < 512; omega, by simp⟩
  · obtain ⟨i, hi, rfl⟩ := List.mem_map.1 hx
    exact ⟨trivial, by simp⟩
  · simp at hx; subst hx; exact ⟨trivial, by simp⟩
  · simp at hx

theorem targetsOf_nodup (l win : Nat) (e : BitVec 8) (regs : Nat) : (targetsOf l win e regs).Nodup := by
  unfold targetsOf
  split
  · refine List.pairwise_map.2 (List.nodup_range.imp ?_)
    intro a b hab h; simp at h; exact hab h
  · refine List.pairwise_map.2 (List.nodup_range.imp ?_)
    intro a b hab h; simp at h; exact hab h
  · simp
  · simp

/-- A vector register belongs to one lane. -/
theorem targetsOf_vec_lane {l m win win' : Nat} {e : BitVec 8} {regs : Nat} {x : Target} (hc : regClass e = .vec)
    (h : x ∈ targetsOf l win e regs) (h' : x ∈ targetsOf m win' e regs) : l = m := by
  simp only [targetsOf, hc, List.mem_map, List.mem_range] at h h'
  obtain ⟨i, _, rfl⟩ := h
  obtain ⟨j, _, h'⟩ := h'
  injection h' with h'
  exact h'.symm

/-- Reading back pairs of a list of distinct registers. -/
theorem map_read_zip (r : Target → W32) (ts : List Target) (xs : List W32) (hl : ts.length = xs.length)
    (h : ∀ e ∈ ts.zip xs, r e.1 = e.2) : ts.map r = xs := by
  induction ts generalizing xs with
  | nil => cases xs <;> simp_all
  | cons t ts ih =>
    cases xs with
    | nil => simp at hl
    | cons x xs =>
      simp only [List.map_cons, List.cons.injEq]
      exact ⟨h (t, x) (by simp), ih xs (by simpa using hl) fun e he => h e (by simp [he])⟩

theorem zip_unique {ts : List Target} {xs : List W32} (hn : ts.Nodup) {e f : Target × W32} (he : e ∈ ts.zip xs)
    (hf : f ∈ ts.zip xs) (h : e.1 = f.1) : e.2 = f.2 := by
  induction ts generalizing xs with
  | nil => simp at he
  | cons t ts ih =>
    cases xs with
    | nil => simp at he
    | cons x xs =>
      obtain ⟨h1, h2⟩ := List.nodup_cons.1 hn
      simp only [List.zip_cons_cons, List.mem_cons] at he hf
      rcases he with rfl | he <;> rcases hf with rfl | hf
      · rfl
      · exact absurd (by rw [show t = f.1 from h]; exact (List.of_mem_zip hf).1) h1
      · exact absurd (by rw [show t = e.1 from h.symm]; exact (List.of_mem_zip he).1) h1
      · exact ih h2 he hf

/-! ## What a well-formed instruction's shape says -/

theorem formed_ok6 {i : Instr} {sh : Shape} (hs : shape i = some sh) (h : i.wellFormed = true) : sh.ok6 = true := by
  unfold Instr.wellFormed at h
  split at h
  · cases h
  · simp only [hs, Bool.and_eq_true] at h
    exact h.2

theorem gShape_ok (op : Nat) (h : Ctl) (lat : Option Nat) (ends : Bool) (f : GF) (d a b c : Use) (m : GAdm)
    (ps pd : List Nat) (hk : (gShape op h lat ends f d a b c m ps pd).ok6 = true) :
    (gShape op h lat ends f d a b c m ps pd).opds.all opdOk6 = true := (Bool.and_eq_true _ _ ▸ hk).1

theorem giShape_ok (op : Nat) (h : Ctl) (lat : Option Nat) (f : GIF) (d a : Use) (o5 o6 : Bool)
    (hk : (giShape op h lat f d a o5 o6).ok6 = true) : (giShape op h lat f d a o5 o6).opds.all opdOk6 = true :=
  (Bool.and_eq_true _ _ ▸ hk).1

/-! ## One register result -/

/-- One register result with its flags. -/
def oneOut (e : BitVec 8) (regs x fl : Nat) : LaneOut := { wr := [⟨e, regs, x⟩], flags := fl }

theorem laneWrites_one (v : View) (first : Bool) (l : Nat) (e : BitVec 8) (regs x fl : Nat) :
    laneWrites v first l (oneOut e regs x fl) =
      if regClass e == .vec || first then (targetsOf l (v.win l) e regs).zip (wordsOf regs x) else [] := by
  simp [laneWrites, oneOut]

/-- The writes of lanes with one register result each: for a vector register every lane's, otherwise the first's. -/
theorem mem_allWrites_one (v : View) (e : BitVec 8) (regs : Nat) (value fl : Nat → Nat) (ls : List Nat) (first : Bool)
    (y : Target × W32) :
    y ∈ allWrites v first (ls.map fun l => (l, oneOut e regs (value l) (fl l))) ↔
      ∃ l ∈ ls, (regClass e = .vec ∨ (first = true ∧ ls.head? = some l)) ∧
        y ∈ (targetsOf l (v.win l) e regs).zip (wordsOf regs (value l)) := by
  induction ls generalizing first with
  | nil => simp [allWrites]
  | cons m ls ih =>
    simp only [List.map_cons, allWrites, laneWrites_one, List.mem_append, ih]
    constructor
    · rintro (h | ⟨l, hl, hc, hy⟩)
      · split at h
        · next hc =>
          simp only [Bool.or_eq_true, beq_iff_eq] at hc
          refine ⟨m, by simp, ?_, h⟩
          rcases hc with hc | hc
          · exact .inl hc
          · exact .inr ⟨hc, by simp⟩
        · simp at h
      · refine ⟨l, by simp [hl], ?_, hy⟩
        rcases hc with hc | ⟨hc, _⟩
        · exact .inl hc
        · simp at hc
    · rintro ⟨l, hl, hc, hy⟩
      rcases hc with hc | ⟨rfl, hc⟩
      · rcases List.mem_cons.1 hl with rfl | hl
        · left; simp [hc, hy]
        · right; exact ⟨l, hl, .inl hc, hy⟩
      · simp only [List.head?_cons, Option.some.injEq] at hc
        subst hc
        left; simp [hy]

theorem allFlags_one (e : BitVec 8) (regs : Nat) (value fl : Nat → Nat) (ls : List Nat) :
    allFlags (ls.map fun l => (l, oneOut e regs (value l) (fl l))) =
      BitVec.ofNat 32 ((ls.map fl).foldl (· ||| ·) 0) := by
  unfold allFlags
  rw [List.foldl_map, List.foldl_map]
  rfl

/-- A fixed-latency instruction with one register result gives it. -/
theorem gives_of {i : Instr} {sh : Shape} {lat : Nat} {f : View → Nat → LaneRes} {e : BitVec 8} {regs : Nat}
    {value fl : Nat → Nat} {s : State} (hsh : shape i = some sh) (hlat : sh.lat = some lat)
    (hex : exec i s = .next (perLane i f s))
    (hopd : ∃ o ∈ sh.opds, o.enc = e ∧ ∃ c, o.use = .dst regs c ∨ o.use = .upd regs c)
    (hok : sh.ok6 = true → sh.opds.all opdOk6 = true)
    (hf : ∀ l ∈ (viewOf sh.ctl s).act, f (viewOf sh.ctl s) l = .done (oneOut e regs (value l) (fl l)))
    (hv : ∀ l ∈ (viewOf sh.ctl s).act, value l < 2 ^ (32 * regs)) :
    Gives i e regs value (BitVec.ofNat 32 (((viewOf sh.ctl s).act.map fl).foldl (· ||| ·) 0)) s := by
  intro w hi
  have hmask : regClass e = .mask → regs = 1 := by
    intro hm
    have hwf : sh.ok6 = true := formed_ok6 hsh hi.formed
    obtain ⟨o, ho, rfl, c, hc⟩ := hopd
    have h := List.all_eq_true.1 (hok hwf) o ho
    have h : classOk o.enc regs c = true := by rcases hc with hc | hc <;> simpa [opdOk6, hc] using h
    simp [classOk, hm] at h
    exact h.2
  have hctl : controlOf i = sh.ctl := by simp [controlOf, hsh]
  rw [hctl]
  have hview : (viewOf sh.ctl s).core = s.cur.core ∧ (viewOf sh.ctl s).slot = s.cur.slot := by
    rw [viewOf_first _ hi.first]; exact ⟨rfl, rfl⟩
  have hwave : (viewOf sh.ctl s).wave = w := by rw [viewOf_first _ hi.first]; simp [freshView, hi.wave]
  generalize hvv : viewOf sh.ctl s = v at *
  obtain ⟨hcore, hslot⟩ := hview
  have hw : waveAt s v.core v.slot = some w := by rw [hcore, hslot]; exact hi.wave
  have hwin : ∀ l ∈ v.act, windowOk sh v.wave.id.allot (v.win l) (v.win l) = true := by
    intro l hl; rw [hwave, ← hvv]; exact hi.window sh hsh l (by rw [hvv]; exact hl)
  have hvec : ∀ l ∈ v.act, vecOk 512 (v.win l) e regs = true := by
    intro l hl
    have h := hwin l hl
    obtain ⟨o, ho, rfl, c, hc⟩ := hopd
    have h := List.all_eq_true.1 h o ho
    have h : vecOk v.wave.id.allot (v.win l) o.enc regs = true := by
      rcases hc with hc | hc <;> simpa [hc] using h
    unfold vecOk at *
    have ha := hi.allot
    rw [← hwave] at ha
    simp only [Bool.or_eq_true, decide_eq_true_eq] at *
    rcases h with h | h
    · exact .inl h
    · exact .inr (by omega)
  have hexec : exec i s = .next (setWave s s.cur.core s.cur.slot
      (withResults lat v w (v.act.map fun l => (l, oneOut e regs (value l) (fl l))))) := by
    rw [hex]
    congr 1
    simp only [perLane, hsh, hlat, hvv]
    rw [resultsOf_done sh v f _ hwin hf, commitFixed_done lat v s w _ hw (fun l _ => ⟨rfl, rfl, rfl⟩), hcore, hslot]
  obtain ⟨hs, hl, hr⟩ := withResults_same lat v w (v.act.map fun l => (l, oneOut e regs (value l) (fl l)))
  have hset := settled_withResults lat v w (v.act.map fun l => (l, oneOut e regs (value l) (fl l)))
  have hmem : ∀ y ∈ allWrites v true (v.act.map fun l => (l, oneOut e regs (value l) (fl l))),
      y.1.plain ∧ (∀ m p, y.1 ≠ .p m p) ∧ ∃ l ∈ v.act, y.1 ∈ targetsOf l (v.win l) e regs := by
    intro y hy
    obtain ⟨l, hl, _, hy⟩ := (mem_allWrites_one v e regs value fl v.act true y).1 hy
    have := targetsOf_plain (hvec l hl) y.1 (List.of_mem_zip hy).1
    exact ⟨this.1, this.2, l, hl, (List.of_mem_zip hy).1⟩
  refine ⟨_, hexec, hs, hl, ?_, ?_, ?_⟩
  · rw [hr, allFlags_one]
  · intro l hreach
    obtain ⟨hl, hc⟩ := hreach
    have hc' : regClass e = .vec ∨ regClass e = .scalar ∨ regClass e = .mask := by
      rcases hc with hc | ⟨hc | hc, _⟩ <;> simp [hc]
    have hlen := targetsOf_length l (v.win l) e regs hmask hc'
    rw [fieldValue, map_read_zip (xs := wordsOf regs (value l)), ofWords_wordsOf, Nat.mod_eq_of_lt (hv l hl)]
    · rw [hlen, wordsOf_length]
    · intro y hy
      rw [hset]
      have hin : y ∈ allWrites v true (v.act.map fun l => (l, oneOut e regs (value l) (fl l))) :=
        (mem_allWrites_one v e regs value fl v.act true y).2 ⟨l, hl, by
          rcases hc with hc | ⟨_, hc⟩
          · exact .inl hc
          · exact .inr ⟨rfl, hc⟩, hy⟩
      refine readTarget_landAll_in _ _ (hmem y hin).1 (hmem y hin).2.1 (fun z hz => (hmem z hz).1) hin ?_
      intro z hz hzy
      obtain ⟨m, hm, hmc, hz'⟩ := (mem_allWrites_one v e regs value fl v.act true z).1 hz
      have hlm : m = l := by
        rcases hc with hc | ⟨hc, hh⟩
        · refine targetsOf_vec_lane (win' := v.win l) hc (List.of_mem_zip hz').1 ?_
          rw [hzy]; exact (List.of_mem_zip hy).1
        · rcases hmc with hmc | ⟨_, hmc⟩
          · rcases hc with hc | hc <;> rw [hc] at hmc <;> cases hmc
          · rw [hh] at hmc; injection hmc with hmc; exact hmc.symm
      subst hlm
      exact zip_unique (targetsOf_nodup _ _ _ _) hz' hy hzy
  · intro x hx hn
    rw [hset]
    refine readTarget_landAll_out _ _ hx (fun y hy => (hmem y hy).1) ?_
    rintro y hy rfl
    obtain ⟨l, hl, h⟩ := (hmem y hy).2.2
    exact hn ⟨l, hl, h⟩

end Sys2Proof.Machine
end

