-- ==== Sys2Proof/Laws/Encoding.lean ====
section
/-! SUPPORT. Each field of a word that the encoder builds is read back by the decoder's field readers (R151, R157). -/

namespace Sys2Proof.Laws

theorem extract_low {n m : Nat} (x : BitVec n) (y : BitVec m) (lo len : Nat) (h : lo + len ≤ m) :
    (x ++ y).extractLsb' lo len = y.extractLsb' lo len := by
  ext i hi
  simp [BitVec.getElem_extractLsb', BitVec.getLsbD_append, show lo + i < m by omega]

theorem extract_high {n m : Nat} (x : BitVec n) (y : BitVec m) (lo len : Nat) (h : m ≤ lo) :
    (x ++ y).extractLsb' lo len = x.extractLsb' (lo - m) len := by
  ext i hi
  simp [BitVec.getElem_extractLsb', BitVec.getLsbD_append, show ¬ lo + i < m by omega,
    show lo + i - m = lo - m + i by omega]

theorem getLsbD_low {n m : Nat} (x : BitVec n) (y : BitVec m) (i : Nat) (h : i < m) :
    (x ++ y).getLsbD i = y.getLsbD i := by
  simp [BitVec.getLsbD_append, h]

theorem getLsbD_high {n m : Nat} (x : BitVec n) (y : BitVec m) (i : Nat) (h : m ≤ i) :
    (x ++ y).getLsbD i = x.getLsbD (i - m) := by
  simp [BitVec.getLsbD_append, show ¬ i < m by omega]

theorem ofBool_bit (b : Bool) : (BitVec.ofBool b).getLsbD 0 = b := by cases b <;> rfl

/-- The opcode of a built word. -/
theorem opcode_head (h : Ctl) (op : BitVec 10) (b : BitVec 50) : opcodeOf (headBits h op ++ b) = op := by
  unfold opcodeOf headBits
  all_goals (repeat (first
    | rw [extract_low _ _ _ _ (by decide)]
    | rw [extract_high _ _ _ _ (by decide)]
    | rw [getLsbD_low _ _ _ (by decide)]
    | rw [getLsbD_high _ _ _ (by decide)]))
  all_goals first | exact BitVec.extractLsb'_eq_self | exact ofBool_bit _

/-- The control part of a built word. -/
theorem ctl_head (h : Ctl) (op : BitVec 10) (b : BitVec 50) : ctlOf (headBits h op ++ b) = h := by
  unfold ctlOf headBits
  obtain ⟨⟩ := h
  congr 1
  all_goals (repeat (first
    | rw [extract_low _ _ _ _ (by decide)]
    | rw [extract_high _ _ _ _ (by decide)]
    | rw [getLsbD_low _ _ _ (by decide)]
    | rw [getLsbD_high _ _ _ (by decide)]))
  all_goals first | exact BitVec.extractLsb'_eq_self | exact ofBool_bit _

theorem g_body (h : BitVec 30) (f : GF) : gOf (h ++ gBits f) = f := by
  unfold gOf gBits
  obtain ⟨⟩ := f
  congr 1
  all_goals (repeat (first
    | rw [extract_low _ _ _ _ (by decide)]
    | rw [extract_high _ _ _ _ (by decide)]
    | rw [getLsbD_low _ _ _ (by decide)]
    | rw [getLsbD_high _ _ _ (by decide)]))
  all_goals first | exact BitVec.extractLsb'_eq_self | exact ofBool_bit _

theorem gi_body (h : BitVec 30) (f : GIF) : giOf (h ++ giBits f) = f := by
  unfold giOf giBits
  obtain ⟨⟩ := f
  congr 1
  all_goals (repeat (first
    | rw [extract_low _ _ _ _ (by decide)]
    | rw [extract_high _ _ _ _ (by decide)]
    | rw [getLsbD_low _ _ _ (by decide)]
    | rw [getLsbD_high _ _ _ (by decide)]))
  all_goals first | exact BitVec.extractLsb'_eq_self | exact ofBool_bit _

theorem p_body (h : BitVec 30) (f : PF) : pOf (h ++ pBits f) = f := by
  unfold pOf pBits
  obtain ⟨⟩ := f
  congr 1
  all_goals (repeat (first
    | rw [extract_low _ _ _ _ (by decide)]
    | rw [extract_high _ _ _ _ (by decide)]
    | rw [getLsbD_low _ _ _ (by decide)]
    | rw [getLsbD_high _ _ _ (by decide)]))
  all_goals first | exact BitVec.extractLsb'_eq_self | exact ofBool_bit _

theorem m_body (h : BitVec 30) (f : MF) : mOf (h ++ mBits f) = f := by
  unfold mOf mBits
  obtain ⟨⟩ := f
  congr 1
  all_goals (repeat (first
    | rw [extract_low _ _ _ _ (by decide)]
    | rw [extract_high _ _ _ _ (by decide)]
    | rw [getLsbD_low _ _ _ (by decide)]
    | rw [getLsbD_high _ _ _ (by decide)]))
  all_goals first | exact BitVec.extractLsb'_eq_self | exact ofBool_bit _

theorem mx_body (h : BitVec 30) (f : MXF) : mxOf (h ++ mxBits f) = f := by
  unfold mxOf mxBits
  obtain ⟨⟩ := f
  congr 1
  all_goals (repeat (first
    | rw [extract_low _ _ _ _ (by decide)]
    | rw [extract_high _ _ _ _ (by decide)]
    | rw [getLsbD_low _ _ _ (by decide)]
    | rw [getLsbD_high _ _ _ (by decide)]))
  all_goals first | exact BitVec.extractLsb'_eq_self | exact ofBool_bit _

theorem b_body (h : BitVec 30) (f : BF) : bOf (h ++ bBits f) = f := by
  unfold bOf bBits
  obtain ⟨⟩ := f
  congr 1
  all_goals (repeat (first
    | rw [extract_low _ _ _ _ (by decide)]
    | rw [extract_high _ _ _ _ (by decide)]
    | rw [getLsbD_low _ _ _ (by decide)]
    | rw [getLsbD_high _ _ _ (by decide)]))
  all_goals first | exact BitVec.extractLsb'_eq_self | exact ofBool_bit _

theorem t_body (h : BitVec 30) (f : TF) : tOf (h ++ tBits f) = f := by
  unfold tOf tBits
  obtain ⟨⟩ := f
  congr 1
  all_goals (repeat (first
    | rw [extract_low _ _ _ _ (by decide)]
    | rw [extract_high _ _ _ _ (by decide)]
    | rw [getLsbD_low _ _ _ (by decide)]
    | rw [getLsbD_high _ _ _ (by decide)]))
  all_goals first | exact BitVec.extractLsb'_eq_self | exact ofBool_bit _

theorem x_body (h : BitVec 30) (f : XF) : xOf (h ++ xBits f) = f := by
  unfold xOf xBits
  obtain ⟨⟩ := f
  congr 1
  all_goals (repeat (first
    | rw [extract_low _ _ _ _ (by decide)]
    | rw [extract_high _ _ _ _ (by decide)]
    | rw [getLsbD_low _ _ _ (by decide)]
    | rw [getLsbD_high _ _ _ (by decide)]))
  all_goals first | exact BitVec.extractLsb'_eq_self | exact ofBool_bit _

end Sys2Proof.Laws
end

