-- ==== Sys2Proof/Laws/Memory.lean ====
section
/-! SUPPORT. Every operation on a memory keeps its canonical form; a byte reads back as it was written, and every other
byte reads as before. -/

namespace Sys2Proof.Machine

theorem wf_iff (m : Memory) : Memory.wf m = true ↔ rising m = true ∧ ∀ e ∈ m, e.2 ≠ Memory.blank := by
  simp [Memory.wf]

theorem wf_rising {m : Memory} (h : Memory.wf m = true) : rising m = true := ((wf_iff m).1 h).1

theorem wf_reset : Memory.wf State.reset.mem.bytes = true := rfl

theorem wf_writeByte {m : Memory} (a : Nat) (b : Byte) (h : Memory.wf m = true) : Memory.wf (writeByte m a b) = true := by
  obtain ⟨h1, h2⟩ := (wf_iff m).1 h
  unfold writeByte cset
  split
  · exact (wf_iff _).2 ⟨rising_mdel a h1, fun e he => h2 e (mem_mdel he)⟩
  · next hb =>
    refine (wf_iff _).2 ⟨rising_mset a b h1, fun e he => ?_⟩
    rcases mem_mset he with rfl | he
    · exact hb
    · exact h2 e he

theorem wf_writeBytes {m : Memory} (a : Nat) (bs : List Byte) (h : Memory.wf m = true) :
    Memory.wf (writeBytes m a bs) = true := by
  induction bs generalizing m a with
  | nil => exact h
  | cons b bs ih => exact ih _ (wf_writeByte a b h)

theorem wf_writeNat {m : Memory} (a n x : Nat) (h : Memory.wf m = true) : Memory.wf (writeNat m a n x) = true :=
  wf_writeBytes a _ h

theorem wf_writePlaces {m : Memory} (ps : List Nat) (bs : List Byte) (h : Memory.wf m = true) :
    Memory.wf (writePlaces m ps bs) = true := by
  induction ps generalizing m bs with
  | nil => cases bs <;> exact h
  | cons p ps ih =>
    cases bs with
    | nil => exact h
    | cons b bs => exact ih _ (wf_writeByte p b h)

theorem wf_mfilter {m : Memory} (p : Nat → Bool) (h : Memory.wf m = true) : Memory.wf (mfilter p m) = true := by
  obtain ⟨h1, h2⟩ := (wf_iff m).1 h
  exact (wf_iff _).2 ⟨rising_mfilter p h1, fun e he => h2 e (List.mem_filter.1 he).1⟩

theorem wf_foldl_writeByte {m : Memory} (base : Nat) (xs : List Host.Cell) (h : Memory.wf m = true) :
    Memory.wf (xs.foldl (fun m (e : Host.Cell) => writeByte m (base + e.1) e.2) m) = true := by
  induction xs generalizing m with
  | nil => exact h
  | cons e xs ih => exact ih (wf_writeByte _ _ h)

theorem readByte_writeByte_self {m : Memory} (a : Nat) (b : Byte) (h : Memory.wf m = true) :
    readByte (writeByte m a b) a = b :=
  cget_cset_self _ a b (wf_rising h)

theorem readByte_writeByte_ne {m : Memory} {a c : Nat} (b : Byte) (h : Memory.wf m = true) (hac : a ≠ c) :
    readByte (writeByte m a b) c = readByte m c :=
  cget_cset_ne _ b (wf_rising h) hac

/-- Bytes outside the written range read as before. -/
theorem readByte_writeBytes_out {m : Memory} {a c : Nat} (bs : List Byte) (h : Memory.wf m = true)
    (hc : c < a ∨ a + bs.length ≤ c) : readByte (writeBytes m a bs) c = readByte m c := by
  induction bs generalizing m a with
  | nil => rfl
  | cons b bs ih =>
    simp only [List.length_cons] at hc
    rw [writeBytes, ih (wf_writeByte a b h) (by omega), readByte_writeByte_ne b h (by omega)]

/-- Bytes within it read as written. -/
theorem readByte_writeBytes_in {m : Memory} {a i : Nat} (bs : List Byte) (h : Memory.wf m = true)
    (hi : i < bs.length) : readByte (writeBytes m a bs) (a + i) = bs[i] := by
  induction bs generalizing m a i with
  | nil => simp at hi
  | cons b bs ih =>
    cases i with
    | zero =>
      simp only [writeBytes, Nat.add_zero, List.getElem_cons_zero]
      rw [readByte_writeBytes_out bs (wf_writeByte a b h) (by omega), readByte_writeByte_self a b h]
    | succ i =>
      simp only [List.length_cons] at hi
      have := ih (wf_writeByte a b h) (a := a + 1) (i := i) (by omega)
      rw [writeBytes, show a + (i + 1) = a + 1 + i by omega, this]
      rfl

/-- Places that are not written read as before. -/
theorem readByte_writePlaces_out {m : Memory} {c : Nat} (ps : List Nat) (bs : List Byte) (h : Memory.wf m = true)
    (hc : c ∉ ps) : readByte (writePlaces m ps bs) c = readByte m c := by
  induction ps generalizing m bs with
  | nil => cases bs <;> rfl
  | cons p ps ih =>
    cases bs with
    | nil => rfl
    | cons b bs =>
      simp only [List.mem_cons, not_or] at hc
      rw [writePlaces, ih _ (wf_writeByte p b h) hc.2, readByte_writeByte_ne b h (Ne.symm hc.1)]

/-- Distinct places read as they were written. -/
theorem readByte_writePlaces_in {m : Memory} (ps : List Nat) (bs : List Byte) (h : Memory.wf m = true)
    (hn : ps.Nodup) (hl : ps.length = bs.length) : ps.map (readByte (writePlaces m ps bs)) = bs := by
  induction ps generalizing m bs with
  | nil => cases bs <;> simp_all
  | cons p ps ih =>
    cases bs with
    | nil => simp at hl
    | cons b bs =>
      obtain ⟨hp, hn⟩ := List.nodup_cons.1 hn
      have hl : ps.length = bs.length := by simpa using hl
      simp only [writePlaces, List.map_cons, List.cons.injEq]
      exact ⟨by rw [readByte_writePlaces_out ps bs (wf_writeByte p b h) hp, readByte_writeByte_self p b h],
        ih bs (wf_writeByte p b h) hn hl⟩

theorem readBytes_length (m : Memory) (a n : Nat) : (readBytes m a n).length = n := by
  induction n generalizing a with
  | zero => rfl
  | succ n ih => simp [readBytes, ih]

theorem toBytes_length (n x : Nat) : (toBytes n x).length = n := by
  induction n generalizing x with
  | zero => rfl
  | succ n ih => simp [toBytes, ih]

theorem ofBytes_toBytes (n x : Nat) : ofBytes (toBytes n x) = x % 256 ^ n := by
  induction n generalizing x with
  | zero => simp [toBytes, ofBytes, Nat.mod_one]
  | succ n ih =>
    simp only [toBytes, ofBytes, ih, BitVec.toNat_ofNat]
    rw [show (256 : Nat) ^ (n + 1) = 256 * 256 ^ n by rw [Nat.pow_succ, Nat.mul_comm], Nat.mod_mul]

end Sys2Proof.Machine
end

