-- ==== Sys2Proof/Laws/Ops.lean ====
section
/-! SUPPORT. What each shared operation can do, said once: the parts of State that it changes, and what it puts there. -/

namespace Sys2Proof.Machine

/-! ## Waves and their lanes -/

theorem modWave_frame (s : State) (c t : Nat) (f : Wave → Wave) :
    modWave s c t f = { s with waves := (modWave s c t f).waves } := by
  unfold modWave; split <;> rfl

theorem waveAt_modWave (s : State) (c t : Nat) (f : Wave → Wave) : waveAt (modWave s c t f) c t = (waveAt s c t).map f := by
  unfold modWave; split <;> simp [*]

theorem waveAt_modWave_ne (s : State) {c t c' t' : Nat} (f : Wave → Wave) (h : wkey c t ≠ wkey c' t') :
    waveAt (modWave s c t f) c' t' = waveAt s c' t' := by
  unfold modWave; split
  · exact waveAt_setWave_ne s _ h
  · rfl

theorem laneAt_modLane (w : Wave) (l j : Nat) (f : Lane → Lane) :
    laneAt (modLane w l f) j = if l = j then f (laneAt w l) else laneAt w j := by
  simp only [laneAt, modLane, setLane, mget_mset]; split <;> simp_all

theorem fibre_modFibre (w : Wave) (l j : Nat) (f : Fibre → Fibre) :
    mget (modFibre w l f).fibres j = if l = j then (mget w.fibres l).map f else mget w.fibres j := by
  by_cases h : l = j
  · subst h; simp
  · simp [h]

/-! ## Taking a fault (R293, R360) -/

/-- A lane that parks: its trap registers and its resume PC are written, and its fibre waits at the PC. -/
theorem parkLane_spec (w : Wave) (pc : W64) (l : Nat) (f : FaultRec) (fb : Fibre) (h : mget w.fibres l = some fb) :
    mget (parkLane w pc l f).fibres l = some { fb with
      pc := pc
      wait := .parked
      fell := fb.fell && fb.pc == pc } ∧
    (laneAt (parkLane w pc l f) l).trap =
      ⟨pc, BitVec.ofNat 64 f.addr, faultCause f, fb.preds.zeroExtend 32 ||| 0x80, BitVec.ofNat 32 fb.win⟩ ∧
    (laneAt (parkLane w pc l f) l).svc.resume = pc := by
  simp only [parkLane, h]
  refine ⟨by simp [h], ?_, ?_⟩ <;> simp [laneAt, modFibre, modLane, setLane]

/-- A lane that parks touches no other lane, and no register. -/
theorem parkLane_frame (w : Wave) (pc : W64) (l : Nat) (f : FaultRec) : (parkLane w pc l f).regs = w.regs ∧
    (parkLane w pc l f).sched = w.sched ∧ ∀ j, j ≠ l → mget (parkLane w pc l f).fibres j = mget w.fibres j ∧
      laneAt (parkLane w pc l f) j = laneAt w j := by
  unfold parkLane; split
  · exact ⟨rfl, rfl, fun _ _ => ⟨rfl, rfl⟩⟩
  · refine ⟨rfl, rfl, fun j hj => ⟨?_, ?_⟩⟩
    · simp [Ne.symm hj]
    · have := laneAt_modLane w l j fun x => { x with
        trap := ⟨pc, BitVec.ofNat 64 f.addr, faultCause f, (‹Fibre›).preds.zeroExtend 32 ||| 0x80, BitVec.ofNat 32 (‹Fibre›).win⟩
        svc := { x.svc with resume := pc } }
      rw [if_neg (Ne.symm hj)] at this
      exact this

/-- Taking a fault changes waves and the notifications of the core, and nothing else. -/
theorem takeFaults_frame (s : State) (c t : Nat) (pc : W64) (fs : List (Nat × FaultRec)) :
    takeFaults s c t pc fs = { s with
      waves := (takeFaults s c t pc fs).waves
      cores := (takeFaults s c t pc fs).cores } := by
  unfold takeFaults; split
  · rfl
  · simp only [notify, modCore, setCore]
    rw [modWave_frame]

theorem takeFaults_nil (s : State) (c t : Nat) (pc : W64) : takeFaults s c t pc [] = s := rfl

/-- One notification waits at the core for all the lanes of the instruction. -/
theorem takeFaults_notice (s : State) (c t : Nat) (pc : W64) (fs : List (Nat × FaultRec)) (h : fs ≠ []) :
    (coreOf (takeFaults s c t pc fs) c).notices.waiting =
      (coreOf s c).notices.waiting ++ [noticeBytes 1 t (maskOf (fs.map Prod.fst)) pc.toNat] := by
  cases fs with
  | nil => exact absurd rfl h
  | cons e r => simp [takeFaults, notify, ringPost, coreOf, modCore, setCore]

theorem takeFaults_wave (s : State) (c t : Nat) (pc : W64) (fs : List (Nat × FaultRec)) :
    waveAt (takeFaults s c t pc fs) c t = (waveAt s c t).map fun w => fs.foldl (fun w e => parkLane w pc e.1 e.2) w := by
  cases fs with
  | nil => cases h : waveAt s c t <;> simp [takeFaults, h]
  | cons e r =>
    show waveAt (modWave s c t _) c t = _
    rw [waveAt_modWave]

/-! ## The returns (R292, R294) -/

theorem trapReturn_spec (w : Wave) (l : Nat) (fb : Fibre) (h : mget w.fibres l = some fb) :
    mget (trapReturn w l).fibres l = some { fb with
      pc := (laneAt w l).trap.pc
      preds := predWord (laneAt w l).trap.pred.toNat
      win := (laneAt w l).trap.win.toNat
      fell := false } ∧ (laneAt (trapReturn w l) l).win = (laneAt w l).trap.win.toNat := by
  refine ⟨by simp [trapReturn, h], ?_⟩
  simp [trapReturn, laneAt, modFibre, modLane, setLane]

theorem resumeTrap_spec (w : Wave) (l : Nat) (fb : Fibre) (h : mget w.fibres l = some fb) :
    mget (resumeTrap w l).fibres l = some { resumeFibre w (laneAt w l).trap.pc fb with
      preds := predWord (laneAt w l).trap.pred.toNat
      win := (laneAt w l).trap.win.toNat } := by
  simp [resumeTrap, h]

theorem resumeAt_spec (w : Wave) (l : Nat) (fb : Fibre) (h : mget w.fibres l = some fb) :
    mget (resumeAt w l).fibres l = some (resumeFibre w (laneAt w l).svc.resume fb) := by
  simp [resumeAt, h]

/-- A fibre that goes on stands at the PC named, ready once the results of its wave have landed. -/
theorem resumeFibre_spec (w : Wave) (pc : W64) (fb : Fibre) :
    (resumeFibre w pc fb).pc = pc ∧ (resumeFibre w pc fb).wait = .paced (allLanded w) ∧ (resumeFibre w pc fb).age = 0 ∧
    (resumeFibre w pc fb).preds = fb.preds ∧ (resumeFibre w pc fb).win = fb.win := by
  unfold resumeFibre fixedLanded goTo
  split <;> simp_all

/-! ## Fibres that end, abort, or wait -/

theorem freeToken_frame (s : State) (d c t l : Nat) : freeToken s d c t l = { s with districts := (freeToken s d c t l).districts } := rfl

theorem abortLane_frame (s : State) (c t l cause code : Nat) :
    abortLane s c t l cause code = { s with
      waves := (abortLane s c t l cause code).waves
      districts := (abortLane s c t l cause code).districts } := by
  simp only [abortLane]
  rw [modWave_frame, freeToken_frame]

theorem quitLane_frame (s : State) (c t l : Nat) :
    quitLane s c t l = { s with
      waves := (quitLane s c t l).waves
      districts := (quitLane s c t l).districts } := by
  simp only [quitLane]
  rw [modWave_frame, freeToken_frame]

/-- Lanes that wait change the wave and their flight, and nothing else. -/
theorem waitLanes_frame (s : State) (v : View) (n : Nat) (k : Nat → Wait) (ls : List Nat) :
    waitLanes s v n k ls = { s with
      waves := (waitLanes s v n k ls).waves
      flights := (waitLanes s v n k ls).flights } := by
  simp only [waitLanes]
  rw [modWave_frame]; rfl

theorem deferLanes_frame (i : Instr) (v : View) (n : Nat) (lead : Option Nat) (why : Wait) (ls : List Nat) (s : State) :
    deferLanes i v n lead why ls s = { s with
      waves := (deferLanes i v n lead why ls s).waves
      flights := (deferLanes i v n lead why ls s).flights } := by
  unfold deferLanes; split
  · rfl
  · rw [waitLanes_frame]; rfl

theorem wakeLane_frame (s : State) (c t l : Nat) (ws : List (Target × W32)) :
    wakeLane s c t l ws = { s with
      waves := (wakeLane s c t l ws).waves
      flights := (wakeLane s c t l ws).flights } := by
  unfold wakeLane; split
  · rfl
  · split
    · rfl
    · dsimp only
      rw [modWave_frame]; rfl

theorem wakeLanes_frame (s : State) (c t : Nat) (xs : List (Nat × List (Target × W32))) :
    wakeLanes s c t xs = { s with
      waves := (wakeLanes s c t xs).waves
      flights := (wakeLanes s c t xs).flights } := by
  induction xs generalizing s with
  | nil => rfl
  | cons x xs ih =>
    obtain ⟨l, ws⟩ := x
    rw [wakeLanes, ih, wakeLane_frame]

/-! ## Flights (R310) -/

theorem takeDelay_frame (s : State) : (takeDelay s).2 = { s with delays := s.delays.tail } := by
  unfold takeDelay; split
  · rename_i h; rw [h]; cases s; cases h; rfl
  · simp [*]

theorem startFlight_frame (s : State) (f : Flight) : (startFlight s f).1 = s.serial ∧
    (startFlight s f).2 = { s with
      serial := s.serial + 1
      flights := mset s.flights s.serial f
      waves := (startFlight s f).2.waves } := by
  refine ⟨rfl, ?_⟩
  simp only [startFlight, takeSerial]
  rw [modWave_frame]

theorem endFlight_frame (s : State) (n : Nat) :
    endFlight s n = { s with
      waves := (endFlight s n).waves
      flights := (endFlight s n).flights } := by
  unfold endFlight; split
  · rfl
  · dsimp only; rw [modWave_frame]

/-- A flight that ends is gone; the others stay. -/
theorem endFlight_flights (s : State) (n : Nat) (f : Flight) (h : mget s.flights n = some f) :
    (endFlight s n).flights = mdel s.flights n := by
  simp [endFlight, h]

/-! ## Rings (R361, R383) -/

theorem notify_frame (s : State) (c : Nat) (e : List Byte) : notify s c e = { s with cores := (notify s c e).cores } := rfl

theorem ringMove_full (r : Ring) (h : ringRoom r = false) : ringMove r = r := by
  unfold ringMove; split <;> simp [h]

theorem ringMove_room (r : Ring) (e : List Byte) (es : List (List Byte)) (h : r.waiting = e :: es) (g : ringRoom r = true) :
    ringMove r = { r with
      slots := mset r.slots (r.tail % 64) e
      tail := (r.tail + 1) % 2 ^ 64
      waiting := es } := by
  simp [ringMove, h, g]

/-! ## Memory -/

theorem bytesAt_length (s : State) (d : District) (r : Reach) (need va n : Nat) : (bytesAt s d r need va n).length = n := by
  induction n generalizing va with
  | zero => rfl
  | succ n ih => simp [bytesAt, ih]

/-- An access whose bytes all lie in memory has one place for each. -/
theorem access_places_length {s : State} {d : District} {r : Reach} {need va n : Nat} {ps : List Nat}
    (h : access s d r need va n = .places ps) : ps.length = n := by
  have hold : ∀ bs x, firstHeld bs = some x → x ≠ .places ps := by
    intro bs x hx
    induction bs with
    | nil => simp [firstHeld] at hx
    | cons b bs ih =>
      unfold firstHeld at hx; split at hx
      · simp at *
      · obtain rfl := Option.some.inj hx; nofun
      · obtain rfl := Option.some.inj hx; nofun
      · obtain rfl := Option.some.inj hx; nofun
      · simp_all
  unfold access reachAll at h
  split at h
  · cases h
  · split at h
    · exact absurd h (hold _ _ ‹_›)
    · dsimp only at h
      split at h
      · cases h
      · split at h
        · cases h
        · simp only [Reached.places.injEq] at h
          rw [← h, List.length_map, bytesAt_length]

theorem markHostWrite_wf (s : State) (a : Nat) (h : Memory.wf s.mem.bytes = true) : Memory.wf (markHostWrite s a).mem.bytes = true := by
  unfold markHostWrite
  generalize s.functions = fs
  induction fs generalizing s with
  | nil => exact h
  | cons f fs ih =>
    rw [List.foldl_cons]
    apply ih
    split
    · split
      · exact wf_writeByte _ _ h
      · exact h
    · exact h

theorem markHostPlaces_wf (s : State) (ps : List Nat) (h : Memory.wf s.mem.bytes = true) :
    Memory.wf (markHostPlaces s ps).mem.bytes = true := by
  unfold markHostPlaces
  induction ps generalizing s with
  | nil => exact h
  | cons p ps ih =>
    rw [List.foldl_cons]
    apply ih
    split
    · exact markHostWrite_wf _ _ h
    · exact h

/-- Two changes of memory alone are one. -/
theorem onlyMem_trans {s t u : State} (h : t = { s with mem := t.mem }) (g : u = { t with mem := u.mem }) :
    u = { s with mem := u.mem } := by
  cases s; cases t; cases u; simp_all

theorem markHostWrite_frame (s : State) (a : Nat) : markHostWrite s a = { s with mem := (markHostWrite s a).mem } := by
  unfold markHostWrite
  suffices h : ∀ (fs : List (Nat × Function)) (t : State), t = { s with mem := t.mem } → ∀ u, u = fs.foldl _ t → u = { s with mem := u.mem } from
    h s.functions s rfl _ rfl
  intro fs
  induction fs with
  | nil => rintro t ht u rfl; exact ht
  | cons f fs ih =>
    rintro t ht u rfl
    refine ih _ ?_ _ rfl
    rw [ht]; dsimp only
    split
    · split <;> rfl
    · rfl

theorem markHostPlaces_frame (s : State) (ps : List Nat) : markHostPlaces s ps = { s with mem := (markHostPlaces s ps).mem } := by
  induction ps generalizing s with
  | nil => rfl
  | cons p ps ih =>
    rw [show markHostPlaces s (p :: ps) = markHostPlaces (if hostPlace 0 ≤ p && p < 2 ^ 65 then markHostWrite s (p - hostPlace 0) else s) ps
      from rfl]
    split
    · exact onlyMem_trans (markHostWrite_frame s _) (ih _)
    · exact ih s

theorem rawStore_frame (s : State) (c : Nat) (wide : Bool) (ps : List Nat) (bs : List Byte) (marked : Bool) :
    rawStore s c wide ps bs marked = { s with mem := (rawStore s c wide ps bs marked).mem } := by
  unfold rawStore
  cases marked <;> dsimp only <;> split <;> first | rfl | exact onlyMem_trans (markHostPlaces_frame s ps) rfl

/-- A store writes its bytes at its places, above the marks of the host pages it writes. -/
theorem rawStore_bytes (s : State) (c : Nat) (wide : Bool) (ps : List Nat) (bs : List Byte) (marked : Bool) :
    (rawStore s c wide ps bs marked).mem.bytes = writePlaces (if marked then s else markHostPlaces s ps).mem.bytes ps bs := by
  unfold rawStore; dsimp only; split <;> rfl

theorem rawStore_wf (s : State) (c : Nat) (wide : Bool) (ps : List Nat) (bs : List Byte) (marked : Bool)
    (h : Memory.wf s.mem.bytes = true) : Memory.wf (rawStore s c wide ps bs marked).mem.bytes = true := by
  rw [rawStore_bytes]; refine wf_writePlaces ps bs ?_; split
  · exact h
  · exact markHostPlaces_wf s ps h

theorem markLeaf_frame (s : State) (ctx ia : Nat) (write : Bool) :
    markLeaf s ctx ia write = { s with mem := (markLeaf s ctx ia write).mem } := by
  unfold markLeaf; dsimp only; split
  · split
    · split <;> split <;> rfl
    · rfl
  · rfl

theorem markLeaf_wf (s : State) (ctx ia : Nat) (write : Bool) (h : Memory.wf s.mem.bytes = true) :
    Memory.wf (markLeaf s ctx ia write).mem.bytes = true := by
  unfold markLeaf; dsimp only; split
  · split
    · split <;> split <;> first | exact h | exact wf_writeNat _ _ _ h
    · exact h
  · exact h

theorem markAccess_wf (s : State) (d : District) (write : Bool) (va n : Nat) (h : Memory.wf s.mem.bytes = true) :
    Memory.wf (markAccess s d write va n).mem.bytes = true := by
  have one : ∀ (s : State) a, Memory.wf s.mem.bytes = true → Memory.wf (match rangeOf d a with
      | some g => if g.node = s.fabric.node || g.node = 0x1FFF then markLeaf s d.ctx ((a + g.offset.toNat) % 2 ^ 52) write else s
      | none => s).mem.bytes = true := by
    intro s a hs
    split
    · split
      · exact markLeaf_wf _ _ _ _ hs
      · exact hs
    · exact hs
  unfold markAccess; dsimp only; split
  · exact one s va h
  · exact one _ _ (one s va h)

/-! ## Accesses that wait (R54, R64, R383) -/

theorem holdReq_frame (s : State) (r : MemReq) (why : HoldWhy) :
    holdReq s r why = { s with
      serial := s.serial + 1
      cores := (holdReq s r why).cores } := rfl

theorem holdReq_held (s : State) (r : MemReq) (why : HoldWhy) :
    (coreOf (holdReq s r why) r.core).held = (coreOf s r.core).held ++ [⟨r, why, s.serial, false⟩] := by
  simp [holdReq, takeSerial, coreOf, modCore, setCore]

theorem logReq_frame (s : State) (r : MemReq) :
    logReq s r = { s with
      serial := s.serial + 1
      cores := (logReq s r).cores } := rfl

theorem logReq_log (s : State) (r : MemReq) :
    (coreOf (logReq s r) r.core).log = (coreOf s r.core).log ++ [⟨r, .page, s.serial, false⟩] := by
  simp [logReq, takeSerial, coreOf, modCore, setCore]

theorem reportMiss_frame (s : State) (p ctx ia flags : Nat) :
    reportMiss s p ctx ia flags = { s with partitions := (reportMiss s p ctx ia flags).partitions } := rfl

end Sys2Proof.Machine
end

