-- ==== Sys2Proof/Laws/PerInstr.lean ====
section
/-! SUPPORT. What holds of every instruction as syntax, one lemma per constructor: a well-formed instruction is what the
decoder reads from its word (R151, R157); an event has no word. -/

namespace Sys2Proof.Laws.RoundTrip

set_option Elab.async false

/-- The word of a well-formed instruction stands for that instruction. -/
def Statement (i : Instr) : Prop := ∀ w, i.wellFormed = true → encode i = some w → parse w = i

theorem nop (h : Ctl) (f : GF) : Statement (.nop h f) := by
  intro w _ e; cases e; unfold parse; rw [opcode_head]
  exact congr (congrArg Instr.nop (ctl_head _ _ _)) (g_body _ _)

theorem mov (h : Ctl) (f : GF) : Statement (.mov h f) := by
  intro w _ e; cases e; unfold parse; rw [opcode_head]
  exact congr (congrArg Instr.mov (ctl_head _ _ _)) (g_body _ _)

theorem movImm (h : Ctl) (f : GIF) : Statement (.movImm h f) := by
  intro w _ e; cases e; unfold parse; rw [opcode_head]
  exact congr (congrArg Instr.movImm (ctl_head _ _ _)) (gi_body _ _)

theorem sel (h : Ctl) (f : GF) : Statement (.sel h f) := by
  intro w _ e; cases e; unfold parse; rw [opcode_head]
  exact congr (congrArg Instr.sel (ctl_head _ _ _)) (g_body _ _)

theorem add (h : Ctl) (f : GF) : Statement (.add h f) := by
  intro w _ e; cases e; unfold parse; rw [opcode_head]
  exact congr (congrArg Instr.add (ctl_head _ _ _)) (g_body _ _)

theorem addImm (h : Ctl) (f : GIF) : Statement (.addImm h f) := by
  intro w _ e; cases e; unfold parse; rw [opcode_head]
  exact congr (congrArg Instr.addImm (ctl_head _ _ _)) (gi_body _ _)

theorem sub (h : Ctl) (f : GF) : Statement (.sub h f) := by
  intro w _ e; cases e; unfold parse; rw [opcode_head]
  exact congr (congrArg Instr.sub (ctl_head _ _ _)) (g_body _ _)

theorem mul (h : Ctl) (f : GF) : Statement (.mul h f) := by
  intro w _ e; cases e; unfold parse; rw [opcode_head]
  exact congr (congrArg Instr.mul (ctl_head _ _ _)) (g_body _ _)

theorem mulImm (h : Ctl) (f : GIF) : Statement (.mulImm h f) := by
  intro w _ e; cases e; unfold parse; rw [opcode_head]
  exact congr (congrArg Instr.mulImm (ctl_head _ _ _)) (gi_body _ _)

theorem mulhi (h : Ctl) (f : GF) : Statement (.mulhi h f) := by
  intro w _ e; cases e; unfold parse; rw [opcode_head]
  exact congr (congrArg Instr.mulhi (ctl_head _ _ _)) (g_body _ _)

theorem mad (h : Ctl) (f : GF) : Statement (.mad h f) := by
  intro w _ e; cases e; unfold parse; rw [opcode_head]
  exact congr (congrArg Instr.mad (ctl_head _ _ _)) (g_body _ _)

theorem fma (h : Ctl) (f : GF) : Statement (.fma h f) := by
  intro w _ e; cases e; unfold parse; rw [opcode_head]
  exact congr (congrArg Instr.fma (ctl_head _ _ _)) (g_body _ _)

theorem min (h : Ctl) (f : GF) : Statement (.min h f) := by
  intro w _ e; cases e; unfold parse; rw [opcode_head]
  exact congr (congrArg Instr.min (ctl_head _ _ _)) (g_body _ _)

theorem max (h : Ctl) (f : GF) : Statement (.max h f) := by
  intro w _ e; cases e; unfold parse; rw [opcode_head]
  exact congr (congrArg Instr.max (ctl_head _ _ _)) (g_body _ _)

theorem abs (h : Ctl) (f : GF) : Statement (.abs h f) := by
  intro w _ e; cases e; unfold parse; rw [opcode_head]
  exact congr (congrArg Instr.abs (ctl_head _ _ _)) (g_body _ _)

theorem neg (h : Ctl) (f : GF) : Statement (.neg h f) := by
  intro w _ e; cases e; unfold parse; rw [opcode_head]
  exact congr (congrArg Instr.neg (ctl_head _ _ _)) (g_body _ _)

theorem and (h : Ctl) (f : GF) : Statement (.and h f) := by
  intro w _ e; cases e; unfold parse; rw [opcode_head]
  exact congr (congrArg Instr.and (ctl_head _ _ _)) (g_body _ _)

theorem andImm (h : Ctl) (f : GIF) : Statement (.andImm h f) := by
  intro w _ e; cases e; unfold parse; rw [opcode_head]
  exact congr (congrArg Instr.andImm (ctl_head _ _ _)) (gi_body _ _)

theorem or (h : Ctl) (f : GF) : Statement (.or h f) := by
  intro w _ e; cases e; unfold parse; rw [opcode_head]
  exact congr (congrArg Instr.or (ctl_head _ _ _)) (g_body _ _)

theorem orImm (h : Ctl) (f : GIF) : Statement (.orImm h f) := by
  intro w _ e; cases e; unfold parse; rw [opcode_head]
  exact congr (congrArg Instr.orImm (ctl_head _ _ _)) (gi_body _ _)

theorem xor (h : Ctl) (f : GF) : Statement (.xor h f) := by
  intro w _ e; cases e; unfold parse; rw [opcode_head]
  exact congr (congrArg Instr.xor (ctl_head _ _ _)) (g_body _ _)

theorem xorImm (h : Ctl) (f : GIF) : Statement (.xorImm h f) := by
  intro w _ e; cases e; unfold parse; rw [opcode_head]
  exact congr (congrArg Instr.xorImm (ctl_head _ _ _)) (gi_body _ _)

theorem not (h : Ctl) (f : GF) : Statement (.not h f) := by
  intro w _ e; cases e; unfold parse; rw [opcode_head]
  exact congr (congrArg Instr.not (ctl_head _ _ _)) (g_body _ _)

theorem shl (h : Ctl) (f : GF) : Statement (.shl h f) := by
  intro w _ e; cases e; unfold parse; rw [opcode_head]
  exact congr (congrArg Instr.shl (ctl_head _ _ _)) (g_body _ _)

theorem shlImm (h : Ctl) (f : GIF) : Statement (.shlImm h f) := by
  intro w _ e; cases e; unfold parse; rw [opcode_head]
  exact congr (congrArg Instr.shlImm (ctl_head _ _ _)) (gi_body _ _)

theorem shr (h : Ctl) (f : GF) : Statement (.shr h f) := by
  intro w _ e; cases e; unfold parse; rw [opcode_head]
  exact congr (congrArg Instr.shr (ctl_head _ _ _)) (g_body _ _)

theorem shrImm (h : Ctl) (f : GIF) : Statement (.shrImm h f) := by
  intro w _ e; cases e; unfold parse; rw [opcode_head]
  exact congr (congrArg Instr.shrImm (ctl_head _ _ _)) (gi_body _ _)

theorem sra (h : Ctl) (f : GF) : Statement (.sra h f) := by
  intro w _ e; cases e; unfold parse; rw [opcode_head]
  exact congr (congrArg Instr.sra (ctl_head _ _ _)) (g_body _ _)

theorem sraImm (h : Ctl) (f : GIF) : Statement (.sraImm h f) := by
  intro w _ e; cases e; unfold parse; rw [opcode_head]
  exact congr (congrArg Instr.sraImm (ctl_head _ _ _)) (gi_body _ _)

theorem rot (h : Ctl) (f : GF) : Statement (.rot h f) := by
  intro w _ e; cases e; unfold parse; rw [opcode_head]
  exact congr (congrArg Instr.rot (ctl_head _ _ _)) (g_body _ _)

theorem popc (h : Ctl) (f : GF) : Statement (.popc h f) := by
  intro w _ e; cases e; unfold parse; rw [opcode_head]
  exact congr (congrArg Instr.popc (ctl_head _ _ _)) (g_body _ _)

theorem clz (h : Ctl) (f : GF) : Statement (.clz h f) := by
  intro w _ e; cases e; unfold parse; rw [opcode_head]
  exact congr (congrArg Instr.clz (ctl_head _ _ _)) (g_body _ _)

theorem ctz (h : Ctl) (f : GF) : Statement (.ctz h f) := by
  intro w _ e; cases e; unfold parse; rw [opcode_head]
  exact congr (congrArg Instr.ctz (ctl_head _ _ _)) (g_body _ _)

theorem brev (h : Ctl) (f : GF) : Statement (.brev h f) := by
  intro w _ e; cases e; unfold parse; rw [opcode_head]
  exact congr (congrArg Instr.brev (ctl_head _ _ _)) (g_body _ _)

theorem bfe (h : Ctl) (f : GF) : Statement (.bfe h f) := by
  intro w _ e; cases e; unfold parse; rw [opcode_head]
  exact congr (congrArg Instr.bfe (ctl_head _ _ _)) (g_body _ _)

theorem bfi (h : Ctl) (f : GF) : Statement (.bfi h f) := by
  intro w _ e; cases e; unfold parse; rw [opcode_head]
  exact congr (congrArg Instr.bfi (ctl_head _ _ _)) (g_body _ _)

theorem lea (h : Ctl) (f : GF) : Statement (.lea h f) := by
  intro w _ e; cases e; unfold parse; rw [opcode_head]
  exact congr (congrArg Instr.lea (ctl_head _ _ _)) (g_body _ _)

theorem div (h : Ctl) (f : GF) : Statement (.div h f) := by
  intro w _ e; cases e; unfold parse; rw [opcode_head]
  exact congr (congrArg Instr.div (ctl_head _ _ _)) (g_body _ _)

theorem rem (h : Ctl) (f : GF) : Statement (.rem h f) := by
  intro w _ e; cases e; unfold parse; rw [opcode_head]
  exact congr (congrArg Instr.rem (ctl_head _ _ _)) (g_body _ _)

theorem cmp (h : Ctl) (f : PF) : Statement (.cmp h f) := by
  intro w _ e; cases e; unfold parse; rw [opcode_head]
  exact congr (congrArg Instr.cmp (ctl_head _ _ _)) (p_body _ _)

theorem plop (h : Ctl) (f : PF) : Statement (.plop h f) := by
  intro w _ e; cases e; unfold parse; rw [opcode_head]
  exact congr (congrArg Instr.plop (ctl_head _ _ _)) (p_body _ _)

theorem pmov (h : Ctl) (f : GF) : Statement (.pmov h f) := by
  intro w _ e; cases e; unfold parse; rw [opcode_head]
  exact congr (congrArg Instr.pmov (ctl_head _ _ _)) (g_body _ _)

theorem cpsgn (h : Ctl) (f : GF) : Statement (.cpsgn h f) := by
  intro w _ e; cases e; unfold parse; rw [opcode_head]
  exact congr (congrArg Instr.cpsgn (ctl_head _ _ _)) (g_body _ _)

theorem classify (h : Ctl) (f : PF) : Statement (.classify h f) := by
  intro w _ e; cases e; unfold parse; rw [opcode_head]
  exact congr (congrArg Instr.classify (ctl_head _ _ _)) (p_body _ _)

theorem scale (h : Ctl) (f : GF) : Statement (.scale h f) := by
  intro w _ e; cases e; unfold parse; rw [opcode_head]
  exact congr (congrArg Instr.scale (ctl_head _ _ _)) (g_body _ _)

theorem frnd (h : Ctl) (f : GF) : Statement (.frnd h f) := by
  intro w _ e; cases e; unfold parse; rw [opcode_head]
  exact congr (congrArg Instr.frnd (ctl_head _ _ _)) (g_body _ _)

theorem cvt (h : Ctl) (f : GF) : Statement (.cvt h f) := by
  intro w _ e; cases e; unfold parse; rw [opcode_head]
  exact congr (congrArg Instr.cvt (ctl_head _ _ _)) (g_body _ _)

theorem rcp (h : Ctl) (f : GF) : Statement (.rcp h f) := by
  intro w _ e; cases e; unfold parse; rw [opcode_head]
  exact congr (congrArg Instr.rcp (ctl_head _ _ _)) (g_body _ _)

theorem rsq (h : Ctl) (f : GF) : Statement (.rsq h f) := by
  intro w _ e; cases e; unfold parse; rw [opcode_head]
  exact congr (congrArg Instr.rsq (ctl_head _ _ _)) (g_body _ _)

theorem sqrt (h : Ctl) (f : GF) : Statement (.sqrt h f) := by
  intro w _ e; cases e; unfold parse; rw [opcode_head]
  exact congr (congrArg Instr.sqrt (ctl_head _ _ _)) (g_body _ _)

theorem ex2 (h : Ctl) (f : GF) : Statement (.ex2 h f) := by
  intro w _ e; cases e; unfold parse; rw [opcode_head]
  exact congr (congrArg Instr.ex2 (ctl_head _ _ _)) (g_body _ _)

theorem lg2 (h : Ctl) (f : GF) : Statement (.lg2 h f) := by
  intro w _ e; cases e; unfold parse; rw [opcode_head]
  exact congr (congrArg Instr.lg2 (ctl_head _ _ _)) (g_body _ _)

theorem sin (h : Ctl) (f : GF) : Statement (.sin h f) := by
  intro w _ e; cases e; unfold parse; rw [opcode_head]
  exact congr (congrArg Instr.sin (ctl_head _ _ _)) (g_body _ _)

theorem cos (h : Ctl) (f : GF) : Statement (.cos h f) := by
  intro w _ e; cases e; unfold parse; rw [opcode_head]
  exact congr (congrArg Instr.cos (ctl_head _ _ _)) (g_body _ _)

theorem tanh (h : Ctl) (f : GF) : Statement (.tanh h f) := by
  intro w _ e; cases e; unfold parse; rw [opcode_head]
  exact congr (congrArg Instr.tanh (ctl_head _ _ _)) (g_body _ _)

theorem dot2 (h : Ctl) (f : GF) : Statement (.dot2 h f) := by
  intro w _ e; cases e; unfold parse; rw [opcode_head]
  exact congr (congrArg Instr.dot2 (ctl_head _ _ _)) (g_body _ _)

theorem qblk (h : Ctl) (f : GF) : Statement (.qblk h f) := by
  intro w _ e; cases e; unfold parse; rw [opcode_head]
  exact congr (congrArg Instr.qblk (ctl_head _ _ _)) (g_body _ _)

theorem dqn4 (h : Ctl) (f : GF) : Statement (.dqn4 h f) := by
  intro w _ e; cases e; unfold parse; rw [opcode_head]
  exact congr (congrArg Instr.dqn4 (ctl_head _ _ _)) (g_body _ _)

theorem shfl (h : Ctl) (f : GF) : Statement (.shfl h f) := by
  intro w _ e; cases e; unfold parse; rw [opcode_head]
  exact congr (congrArg Instr.shfl (ctl_head _ _ _)) (g_body _ _)

theorem shflImm (h : Ctl) (f : GIF) : Statement (.shflImm h f) := by
  intro w _ e; cases e; unfold parse; rw [opcode_head]
  exact congr (congrArg Instr.shflImm (ctl_head _ _ _)) (gi_body _ _)

theorem bcast (h : Ctl) (f : GF) : Statement (.bcast h f) := by
  intro w _ e; cases e; unfold parse; rw [opcode_head]
  exact congr (congrArg Instr.bcast (ctl_head _ _ _)) (g_body _ _)

theorem vote (h : Ctl) (f : PF) : Statement (.vote h f) := by
  intro w _ e; cases e; unfold parse; rw [opcode_head]
  exact congr (congrArg Instr.vote (ctl_head _ _ _)) (p_body _ _)

theorem ballot (h : Ctl) (f : GF) : Statement (.ballot h f) := by
  intro w _ e; cases e; unfold parse; rw [opcode_head]
  exact congr (congrArg Instr.ballot (ctl_head _ _ _)) (g_body _ _)

theorem wred (h : Ctl) (f : GF) : Statement (.wred h f) := by
  intro w _ e; cases e; unfold parse; rw [opcode_head]
  exact congr (congrArg Instr.wred (ctl_head _ _ _)) (g_body _ _)

theorem wscan (h : Ctl) (f : GF) : Statement (.wscan h f) := by
  intro w _ e; cases e; unfold parse; rw [opcode_head]
  exact congr (congrArg Instr.wscan (ctl_head _ _ _)) (g_body _ _)

theorem kmov (h : Ctl) (f : GF) : Statement (.kmov h f) := by
  intro w _ e; cases e; unfold parse; rw [opcode_head]
  exact congr (congrArg Instr.kmov (ctl_head _ _ _)) (g_body _ _)

theorem kmovImm (h : Ctl) (f : GIF) : Statement (.kmovImm h f) := by
  intro w _ e; cases e; unfold parse; rw [opcode_head]
  exact congr (congrArg Instr.kmovImm (ctl_head _ _ _)) (gi_body _ _)

theorem kand (h : Ctl) (f : GF) : Statement (.kand h f) := by
  intro w _ e; cases e; unfold parse; rw [opcode_head]
  exact congr (congrArg Instr.kand (ctl_head _ _ _)) (g_body _ _)

theorem kor (h : Ctl) (f : GF) : Statement (.kor h f) := by
  intro w _ e; cases e; unfold parse; rw [opcode_head]
  exact congr (congrArg Instr.kor (ctl_head _ _ _)) (g_body _ _)

theorem kxor (h : Ctl) (f : GF) : Statement (.kxor h f) := by
  intro w _ e; cases e; unfold parse; rw [opcode_head]
  exact congr (congrArg Instr.kxor (ctl_head _ _ _)) (g_body _ _)

theorem knot (h : Ctl) (f : GF) : Statement (.knot h f) := by
  intro w _ e; cases e; unfold parse; rw [opcode_head]
  exact congr (congrArg Instr.knot (ctl_head _ _ _)) (g_body _ _)

theorem kact (h : Ctl) (f : GF) : Statement (.kact h f) := by
  intro w _ e; cases e; unfold parse; rw [opcode_head]
  exact congr (congrArg Instr.kact (ctl_head _ _ _)) (g_body _ _)

theorem kpop (h : Ctl) (f : GF) : Statement (.kpop h f) := by
  intro w _ e; cases e; unfold parse; rw [opcode_head]
  exact congr (congrArg Instr.kpop (ctl_head _ _ _)) (g_body _ _)

theorem ktest (h : Ctl) (f : PF) : Statement (.ktest h f) := by
  intro w _ e; cases e; unfold parse; rw [opcode_head]
  exact congr (congrArg Instr.ktest (ctl_head _ _ _)) (p_body _ _)

theorem kfirst (h : Ctl) (f : GF) : Statement (.kfirst h f) := by
  intro w _ e; cases e; unfold parse; rw [opcode_head]
  exact congr (congrArg Instr.kfirst (ctl_head _ _ _)) (g_body _ _)

theorem xainit (h : Ctl) (f : XF) : Statement (.xainit h f) := by
  intro w _ e; cases e; unfold parse; rw [opcode_head]
  exact congr (congrArg Instr.xainit (ctl_head _ _ _)) (x_body _ _)

theorem xapush (h : Ctl) (f : XF) : Statement (.xapush h f) := by
  intro w _ e; cases e; unfold parse; rw [opcode_head]
  exact congr (congrArg Instr.xapush (ctl_head _ _ _)) (x_body _ _)

theorem xalim (h : Ctl) (f : XF) : Statement (.xalim h f) := by
  intro w _ e; cases e; unfold parse; rw [opcode_head]
  exact congr (congrArg Instr.xalim (ctl_head _ _ _)) (x_body _ _)

theorem xastat (h : Ctl) (f : XF) : Statement (.xastat h f) := by
  intro w _ e; cases e; unfold parse; rw [opcode_head]
  exact congr (congrArg Instr.xastat (ctl_head _ _ _)) (x_body _ _)

theorem xaclr (h : Ctl) (f : XF) : Statement (.xaclr h f) := by
  intro w _ e; cases e; unfold parse; rw [opcode_head]
  exact congr (congrArg Instr.xaclr (ctl_head _ _ _)) (x_body _ _)

theorem ld (h : Ctl) (f : MF) : Statement (.ld h f) := by
  intro w _ e; cases e; unfold parse; rw [opcode_head]
  exact congr (congrArg Instr.ld (ctl_head _ _ _)) (m_body _ _)

theorem st (h : Ctl) (f : MF) : Statement (.st h f) := by
  intro w _ e; cases e; unfold parse; rw [opcode_head]
  exact congr (congrArg Instr.st (ctl_head _ _ _)) (m_body _ _)

theorem lds (h : Ctl) (f : MF) : Statement (.lds h f) := by
  intro w _ e; cases e; unfold parse; rw [opcode_head]
  exact congr (congrArg Instr.lds (ctl_head _ _ _)) (m_body _ _)

theorem sts (h : Ctl) (f : MF) : Statement (.sts h f) := by
  intro w _ e; cases e; unfold parse; rw [opcode_head]
  exact congr (congrArg Instr.sts (ctl_head _ _ _)) (m_body _ _)

theorem stp (h : Ctl) (f : MF) : Statement (.stp h f) := by
  intro w _ e; cases e; unfold parse; rw [opcode_head]
  exact congr (congrArg Instr.stp (ctl_head _ _ _)) (m_body _ _)

theorem ldl (h : Ctl) (f : GIF) : Statement (.ldl h f) := by
  intro w _ e; cases e; unfold parse; rw [opcode_head]
  exact congr (congrArg Instr.ldl (ctl_head _ _ _)) (gi_body _ _)

theorem stm (h : Ctl) (f : MF) : Statement (.stm h f) := by
  intro w _ e; cases e; unfold parse; rw [opcode_head]
  exact congr (congrArg Instr.stm (ctl_head _ _ _)) (m_body _ _)

theorem replsync (h : Ctl) (f : MF) : Statement (.replsync h f) := by
  intro w _ e; cases e; unfold parse; rw [opcode_head]
  exact congr (congrArg Instr.replsync (ctl_head _ _ _)) (m_body _ _)

theorem fence (h : Ctl) (f : MF) : Statement (.fence h f) := by
  intro w _ e; cases e; unfold parse; rw [opcode_head]
  exact congr (congrArg Instr.fence (ctl_head _ _ _)) (m_body _ _)

theorem stpScalarRank (h : Ctl) (f : MXF) : Statement (.stpScalarRank h f) := by
  intro w _ e; cases e; unfold parse; rw [opcode_head]
  exact congr (congrArg Instr.stpScalarRank (ctl_head _ _ _)) (mx_body _ _)

theorem atom (h : Ctl) (f : MXF) : Statement (.atom h f) := by
  intro w _ e; cases e; unfold parse; rw [opcode_head]
  exact congr (congrArg Instr.atom (ctl_head _ _ _)) (mx_body _ _)

theorem atoms (h : Ctl) (f : MXF) : Statement (.atoms h f) := by
  intro w _ e; cases e; unfold parse; rw [opcode_head]
  exact congr (congrArg Instr.atoms (ctl_head _ _ _)) (mx_body _ _)

theorem red (h : Ctl) (f : MXF) : Statement (.red h f) := by
  intro w _ e; cases e; unfold parse; rw [opcode_head]
  exact congr (congrArg Instr.red (ctl_head _ _ _)) (mx_body _ _)

theorem reds (h : Ctl) (f : MXF) : Statement (.reds h f) := by
  intro w _ e; cases e; unfold parse; rw [opcode_head]
  exact congr (congrArg Instr.reds (ctl_head _ _ _)) (mx_body _ _)

theorem cas (h : Ctl) (f : MXF) : Statement (.cas h f) := by
  intro w _ e; cases e; unfold parse; rw [opcode_head]
  exact congr (congrArg Instr.cas (ctl_head _ _ _)) (mx_body _ _)

theorem casgt (h : Ctl) (f : MXF) : Statement (.casgt h f) := by
  intro w _ e; cases e; unfold parse; rw [opcode_head]
  exact congr (congrArg Instr.casgt (ctl_head _ _ _)) (mx_body _ _)

theorem casver (h : Ctl) (f : MXF) : Statement (.casver h f) := by
  intro w _ e; cases e; unfold parse; rw [opcode_head]
  exact congr (congrArg Instr.casver (ctl_head _ _ _)) (mx_body _ _)

theorem casptr (h : Ctl) (f : MXF) : Statement (.casptr h f) := by
  intro w _ e; cases e; unfold parse; rw [opcode_head]
  exact congr (congrArg Instr.casptr (ctl_head _ _ _)) (mx_body _ _)

theorem pcall (h : Ctl) (f : MXF) : Statement (.pcall h f) := by
  intro w _ e; cases e; unfold parse; rw [opcode_head]
  exact congr (congrArg Instr.pcall (ctl_head _ _ _)) (mx_body _ _)

theorem txbegin (h : Ctl) (f : BF) : Statement (.txbegin h f) := by
  intro w _ e; cases e; unfold parse; rw [opcode_head]
  exact congr (congrArg Instr.txbegin (ctl_head _ _ _)) (b_body _ _)

theorem txend (h : Ctl) (f : GF) : Statement (.txend h f) := by
  intro w _ e; cases e; unfold parse; rw [opcode_head]
  exact congr (congrArg Instr.txend (ctl_head _ _ _)) (g_body _ _)

theorem txabort (h : Ctl) (f : GF) : Statement (.txabort h f) := by
  intro w _ e; cases e; unfold parse; rw [opcode_head]
  exact congr (congrArg Instr.txabort (ctl_head _ _ _)) (g_body _ _)

theorem obres (h : Ctl) (f : GF) : Statement (.obres h f) := by
  intro w _ e; cases e; unfold parse; rw [opcode_head]
  exact congr (congrArg Instr.obres (ctl_head _ _ _)) (g_body _ _)

theorem obrel (h : Ctl) (f : GF) : Statement (.obrel h f) := by
  intro w _ e; cases e; unfold parse; rw [opcode_head]
  exact congr (congrArg Instr.obrel (ctl_head _ _ _)) (g_body _ _)

theorem mma (h : Ctl) (f : TF) : Statement (.mma h f) := by
  intro w _ e; cases e; unfold parse; rw [opcode_head]
  exact congr (congrArg Instr.mma (ctl_head _ _ _)) (t_body _ _)

theorem mmam (h : Ctl) (f : TF) : Statement (.mmam h f) := by
  intro w _ e; cases e; unfold parse; rw [opcode_head]
  exact congr (congrArg Instr.mmam (ctl_head _ _ _)) (t_body _ _)

theorem mzero (h : Ctl) (f : TF) : Statement (.mzero h f) := by
  intro w _ e; cases e; unfold parse; rw [opcode_head]
  exact congr (congrArg Instr.mzero (ctl_head _ _ _)) (t_body _ _)

theorem mmov (h : Ctl) (f : TF) : Statement (.mmov h f) := by
  intro w _ e; cases e; unfold parse; rw [opcode_head]
  exact congr (congrArg Instr.mmov (ctl_head _ _ _)) (t_body _ _)

theorem mld (h : Ctl) (f : TF) : Statement (.mld h f) := by
  intro w _ e; cases e; unfold parse; rw [opcode_head]
  exact congr (congrArg Instr.mld (ctl_head _ _ _)) (t_body _ _)

theorem mflush (h : Ctl) (f : TF) : Statement (.mflush h f) := by
  intro w _ e; cases e; unfold parse; rw [opcode_head]
  exact congr (congrArg Instr.mflush (ctl_head _ _ _)) (t_body _ _)

theorem mstest (h : Ctl) (f : TF) : Statement (.mstest h f) := by
  intro w _ e; cases e; unfold parse; rw [opcode_head]
  exact congr (congrArg Instr.mstest (ctl_head _ _ _)) (t_body _ _)

theorem cpy (h : Ctl) (f : GF) : Statement (.cpy h f) := by
  intro w _ e; cases e; unfold parse; rw [opcode_head]
  exact congr (congrArg Instr.cpy (ctl_head _ _ _)) (g_body _ _)

theorem cpyt (h : Ctl) (f : GF) : Statement (.cpyt h f) := by
  intro w _ e; cases e; unfold parse; rw [opcode_head]
  exact congr (congrArg Instr.cpyt (ctl_head _ _ _)) (g_body _ _)

theorem rcfence (h : Ctl) (f : GF) : Statement (.rcfence h f) := by
  intro w _ e; cases e; unfold parse; rw [opcode_head]
  exact congr (congrArg Instr.rcfence (ctl_head _ _ _)) (g_body _ _)

theorem bra (h : Ctl) (f : BF) : Statement (.bra h f) := by
  intro w _ e; cases e; unfold parse; rw [opcode_head]
  exact congr (congrArg Instr.bra (ctl_head _ _ _)) (b_body _ _)

theorem jmp (h : Ctl) (f : GF) : Statement (.jmp h f) := by
  intro w _ e; cases e; unfold parse; rw [opcode_head]
  exact congr (congrArg Instr.jmp (ctl_head _ _ _)) (g_body _ _)

theorem call (h : Ctl) (f : BF) : Statement (.call h f) := by
  intro w _ e; cases e; unfold parse; rw [opcode_head]
  exact congr (congrArg Instr.call (ctl_head _ _ _)) (b_body _ _)

theorem callr (h : Ctl) (f : GF) : Statement (.callr h f) := by
  intro w _ e; cases e; unfold parse; rw [opcode_head]
  exact congr (congrArg Instr.callr (ctl_head _ _ _)) (g_body _ _)

theorem ret (h : Ctl) (f : GF) : Statement (.ret h f) := by
  intro w _ e; cases e; unfold parse; rw [opcode_head]
  exact congr (congrArg Instr.ret (ctl_head _ _ _)) (g_body _ _)

theorem loop (h : Ctl) (f : BF) : Statement (.loop h f) := by
  intro w _ e; cases e; unfold parse; rw [opcode_head]
  exact congr (congrArg Instr.loop (ctl_head _ _ _)) (b_body _ _)

theorem fork (h : Ctl) (f : BF) : Statement (.fork h f) := by
  intro w _ e; cases e; unfold parse; rw [opcode_head]
  exact congr (congrArg Instr.fork (ctl_head _ _ _)) (b_body _ _)

theorem quit (h : Ctl) (f : GF) : Statement (.quit h f) := by
  intro w _ e; cases e; unfold parse; rw [opcode_head]
  exact congr (congrArg Instr.quit (ctl_head _ _ _)) (g_body _ _)

theorem join (h : Ctl) (f : GF) : Statement (.join h f) := by
  intro w _ e; cases e; unfold parse; rw [opcode_head]
  exact congr (congrArg Instr.join (ctl_head _ _ _)) (g_body _ _)

theorem leave (h : Ctl) (f : GF) : Statement (.leave h f) := by
  intro w _ e; cases e; unfold parse; rw [opcode_head]
  exact congr (congrArg Instr.leave (ctl_head _ _ _)) (g_body _ _)

theorem waitm (h : Ctl) (f : GF) : Statement (.waitm h f) := by
  intro w _ e; cases e; unfold parse; rw [opcode_head]
  exact congr (congrArg Instr.waitm (ctl_head _ _ _)) (g_body _ _)

theorem binit (h : Ctl) (f : GF) : Statement (.binit h f) := by
  intro w _ e; cases e; unfold parse; rw [opcode_head]
  exact congr (congrArg Instr.binit (ctl_head _ _ _)) (g_body _ _)

theorem barr (h : Ctl) (f : GF) : Statement (.barr h f) := by
  intro w _ e; cases e; unfold parse; rw [opcode_head]
  exact congr (congrArg Instr.barr (ctl_head _ _ _)) (g_body _ _)

theorem bwait (h : Ctl) (f : GF) : Statement (.bwait h f) := by
  intro w _ e; cases e; unfold parse; rw [opcode_head]
  exact congr (congrArg Instr.bwait (ctl_head _ _ _)) (g_body _ _)

theorem bfarr (h : Ctl) (f : GF) : Statement (.bfarr h f) := by
  intro w _ e; cases e; unfold parse; rw [opcode_head]
  exact congr (congrArg Instr.bfarr (ctl_head _ _ _)) (g_body _ _)

theorem bfwait (h : Ctl) (f : GF) : Statement (.bfwait h f) := by
  intro w _ e; cases e; unfold parse; rw [opcode_head]
  exact congr (congrArg Instr.bfwait (ctl_head _ _ _)) (g_body _ _)

theorem qput (h : Ctl) (f : GF) : Statement (.qput h f) := by
  intro w _ e; cases e; unfold parse; rw [opcode_head]
  exact congr (congrArg Instr.qput (ctl_head _ _ _)) (g_body _ _)

theorem qget (h : Ctl) (f : GF) : Statement (.qget h f) := by
  intro w _ e; cases e; unfold parse; rw [opcode_head]
  exact congr (congrArg Instr.qget (ctl_head _ _ _)) (g_body _ _)

theorem svc (h : Ctl) (f : GF) : Statement (.svc h f) := by
  intro w _ e; cases e; unfold parse; rw [opcode_head]
  exact congr (congrArg Instr.svc (ctl_head _ _ _)) (g_body _ _)

theorem mfsr (h : Ctl) (f : GIF) : Statement (.mfsr h f) := by
  intro w _ e; cases e; unfold parse; rw [opcode_head]
  exact congr (congrArg Instr.mfsr (ctl_head _ _ _)) (gi_body _ _)

theorem mtsr (h : Ctl) (f : GIF) : Statement (.mtsr h f) := by
  intro w _ e; cases e; unfold parse; rw [opcode_head]
  exact congr (congrArg Instr.mtsr (ctl_head _ _ _)) (gi_body _ _)

theorem spawn (h : Ctl) (f : GF) : Statement (.spawn h f) := by
  intro w _ e; cases e; unfold parse; rw [opcode_head]
  exact congr (congrArg Instr.spawn (ctl_head _ _ _)) (g_body _ _)

theorem yieldpt (h : Ctl) (f : GF) : Statement (.yieldpt h f) := by
  intro w _ e; cases e; unfold parse; rw [opcode_head]
  exact congr (congrArg Instr.yieldpt (ctl_head _ _ _)) (g_body _ _)

theorem ppt (h : Ctl) (f : GF) : Statement (.ppt h f) := by
  intro w _ e; cases e; unfold parse; rw [opcode_head]
  exact congr (congrArg Instr.ppt (ctl_head _ _ _)) (g_body _ _)

theorem spanin (h : Ctl) (f : GIF) : Statement (.spanin h f) := by
  intro w _ e; cases e; unfold parse; rw [opcode_head]
  exact congr (congrArg Instr.spanin (ctl_head _ _ _)) (gi_body _ _)

theorem spanout (h : Ctl) (f : GIF) : Statement (.spanout h f) := by
  intro w _ e; cases e; unfold parse; rw [opcode_head]
  exact congr (congrArg Instr.spanout (ctl_head _ _ _)) (gi_body _ _)

theorem brk (h : Ctl) (f : GF) : Statement (.brk h f) := by
  intro w _ e; cases e; unfold parse; rw [opcode_head]
  exact congr (congrArg Instr.brk (ctl_head _ _ _)) (g_body _ _)

theorem trap (h : Ctl) (f : GIF) : Statement (.trap h f) := by
  intro w _ e; cases e; unfold parse; rw [opcode_head]
  exact congr (congrArg Instr.trap (ctl_head _ _ _)) (gi_body _ _)

theorem sret (h : Ctl) (f : GF) : Statement (.sret h f) := by
  intro w _ e; cases e; unfold parse; rw [opcode_head]
  exact congr (congrArg Instr.sret (ctl_head _ _ _)) (g_body _ _)

theorem rdcyc (h : Ctl) (f : GF) : Statement (.rdcyc h f) := by
  intro w _ e; cases e; unfold parse; rw [opcode_head]
  exact congr (congrArg Instr.rdcyc (ctl_head _ _ _)) (g_body _ _)

theorem tbload (h : Ctl) (f : GF) : Statement (.tbload h f) := by
  intro w _ e; cases e; unfold parse; rw [opcode_head]
  exact congr (congrArg Instr.tbload (ctl_head _ _ _)) (g_body _ _)

theorem odeinit (h : Ctl) (f : GF) : Statement (.odeinit h f) := by
  intro w _ e; cases e; unfold parse; rw [opcode_head]
  exact congr (congrArg Instr.odeinit (ctl_head _ _ _)) (g_body _ _)

theorem oderun (h : Ctl) (f : GF) : Statement (.oderun h f) := by
  intro w _ e; cases e; unfold parse; rw [opcode_head]
  exact congr (congrArg Instr.oderun (ctl_head _ _ _)) (g_body _ _)

theorem odestep (h : Ctl) (f : GF) : Statement (.odestep h f) := by
  intro w _ e; cases e; unfold parse; rw [opcode_head]
  exact congr (congrArg Instr.odestep (ctl_head _ _ _)) (g_body _ _)

theorem odeq (h : Ctl) (f : GF) : Statement (.odeq h f) := by
  intro w _ e; cases e; unfold parse; rw [opcode_head]
  exact congr (congrArg Instr.odeq (ctl_head _ _ _)) (g_body _ _)

theorem odestat (h : Ctl) (f : GF) : Statement (.odestat h f) := by
  intro w _ e; cases e; unfold parse; rw [opcode_head]
  exact congr (congrArg Instr.odestat (ctl_head _ _ _)) (g_body _ _)

theorem stgget (h : Ctl) (f : GF) : Statement (.stgget h f) := by
  intro w _ e; cases e; unfold parse; rw [opcode_head]
  exact congr (congrArg Instr.stgget (ctl_head _ _ _)) (g_body _ _)

theorem stgput (h : Ctl) (f : GF) : Statement (.stgput h f) := by
  intro w _ e; cases e; unfold parse; rw [opcode_head]
  exact congr (congrArg Instr.stgput (ctl_head _ _ _)) (g_body _ _)

theorem evarm (h : Ctl) (f : GF) : Statement (.evarm h f) := by
  intro w _ e; cases e; unfold parse; rw [opcode_head]
  exact congr (congrArg Instr.evarm (ctl_head _ _ _)) (g_body _ _)

theorem unassignedOpcode (w : BitVec 80) : Statement (.unassignedOpcode w) := fun _ h _ => nomatch h

theorem waveSelection (core slot : Nat) : Statement (.waveSelection core slot) := fun _ _ h => nomatch h

theorem variableLatencyCompletion (flight : Nat) : Statement (.variableLatencyCompletion flight) :=
  fun _ _ h => nomatch h

theorem maskWriteArrival (core slot : Nat) : Statement (.maskWriteArrival core slot) := fun _ _ h => nomatch h

theorem joinRelease (core slot : Nat) : Statement (.joinRelease core slot) := fun _ _ h => nomatch h

theorem waitmRelease (core slot : Nat) : Statement (.waitmRelease core slot) := fun _ _ h => nomatch h

theorem bwaitRelease (core slot : Nat) : Statement (.bwaitRelease core slot) := fun _ _ h => nomatch h

theorem belfryPhaseVisible (tag die : Nat) : Statement (.belfryPhaseVisible tag die) := fun _ _ h => nomatch h

theorem queueWindowWaitEnd (core slot : Nat) : Statement (.queueWindowWaitEnd core slot) := fun _ _ h => nomatch h

theorem serialTokenGrant (district : Nat) : Statement (.serialTokenGrant district) := fun _ _ h => nomatch h

theorem remoteReply (flight : Nat) : Statement (.remoteReply flight) := fun _ _ h => nomatch h

theorem remoteWriteAck (write : Nat) : Statement (.remoteWriteAck write) := fun _ _ h => nomatch h

theorem routeDownTimeout (node : Nat) : Statement (.routeDownTimeout node) := fun _ _ h => nomatch h

theorem directoryRecall (flight : Nat) : Statement (.directoryRecall flight) := fun _ _ h => nomatch h

theorem nearCachePartial (part : Nat) : Statement (.nearCachePartial part) := fun _ _ h => nomatch h

theorem engineOperationComplete (op : Nat) : Statement (.engineOperationComplete op) := fun _ _ h => nomatch h

theorem mmaConsumedSignal (op : Nat) : Statement (.mmaConsumedSignal op) := fun _ _ h => nomatch h

theorem crewEnd (crew : Nat) : Statement (.crewEnd crew) := fun _ _ h => nomatch h

theorem completionRecordPost (district : Nat) : Statement (.completionRecordPost district) := fun _ _ h => nomatch h

theorem notificationPost (core : Nat) : Statement (.notificationPost core) := fun _ _ h => nomatch h

theorem dependantRelease (core : Nat) : Statement (.dependantRelease core) := fun _ _ h => nomatch h

theorem notificationRingHeadWrite (core : Nat) (value : W64) : Statement (.notificationRingHeadWrite core value) :=
  fun _ _ h => nomatch h

theorem resumeAtTrappc (core : Nat) (cmd : W64) : Statement (.resumeAtTrappc core cmd) := fun _ _ h => nomatch h

theorem resumeAtResumePc (core : Nat) (cmd : W64) : Statement (.resumeAtResumePc core cmd) := fun _ _ h => nomatch h

theorem endFibre (core : Nat) (cmd : W64) : Statement (.endFibre core cmd) := fun _ _ h => nomatch h

theorem passToFaultDomain (core : Nat) (cmd : W64) : Statement (.passToFaultDomain core cmd) := fun _ _ h => nomatch h

theorem postServiceReply (core : Nat) (cmd : W64) : Statement (.postServiceReply core cmd) := fun _ _ h => nomatch h

theorem faultDomainEndCrew (crew : Nat) : Statement (.faultDomainEndCrew crew) := fun _ _ h => nomatch h

theorem svcEcho (core slot lane : Nat) : Statement (.svcEcho core slot lane) := fun _ _ h => nomatch h

theorem allocateBelfryTag (core slot lane : Nat) : Statement (.allocateBelfryTag core slot lane) :=
  fun _ _ h => nomatch h

theorem freeBelfryTag (core slot lane : Nat) : Statement (.freeBelfryTag core slot lane) := fun _ _ h => nomatch h

theorem pluginService (core slot lane : Nat) (reply : W64) : Statement (.pluginService core slot lane reply) :=
  fun _ _ h => nomatch h

theorem reservedService (core slot lane : Nat) : Statement (.reservedService core slot lane) := fun _ _ h => nomatch h

theorem placementPass (part : Nat) (ins : List PassInput) : Statement (.placementPass part ins) :=
  fun _ _ h => nomatch h

theorem crewEviction (crew : Nat) : Statement (.crewEviction crew) := fun _ _ h => nomatch h

theorem waveEviction (core slot : Nat) : Statement (.waveEviction core slot) := fun _ _ h => nomatch h

theorem crewRestore (crew : Nat) : Statement (.crewRestore crew) := fun _ _ h => nomatch h

theorem thermalMigration (crew : Nat) : Statement (.thermalMigration crew) := fun _ _ h => nomatch h

theorem partitionSwap (part : Nat) : Statement (.partitionSwap part) := fun _ _ h => nomatch h

theorem clusterGate (cluster : Nat) : Statement (.clusterGate cluster) := fun _ _ h => nomatch h

theorem clusterUngate (cluster : Nat) : Statement (.clusterUngate cluster) := fun _ _ h => nomatch h

theorem stageTaskAppend (ctx : Nat) : Statement (.stageTaskAppend ctx) := fun _ _ h => nomatch h

theorem evaluationComplete (ctx : Nat) : Statement (.evaluationComplete ctx) := fun _ _ h => nomatch h

theorem frameChunkRelease (ctx : Nat) : Statement (.frameChunkRelease ctx) := fun _ _ h => nomatch h

theorem pcSample (core district : Nat) : Statement (.pcSample core district) := fun _ _ h => nomatch h

theorem replayLogStallRelease (district : Nat) : Statement (.replayLogStallRelease district) := fun _ _ h => nomatch h

theorem replayEventResolve (district : Nat) : Statement (.replayEventResolve district) := fun _ _ h => nomatch h

theorem pageFaultRecord (part : Nat) : Statement (.pageFaultRecord part) := fun _ _ h => nomatch h

theorem pageFaultRingHeadWrite (core : Nat) (value : W64) : Statement (.pageFaultRingHeadWrite core value) :=
  fun _ _ h => nomatch h

theorem firmwarePageFaultService (part : Nat) (frame : Nat) : Statement (.firmwarePageFaultService part frame) :=
  fun _ _ h => nomatch h

theorem map (handler : Option Nat) (part : Nat) (cmd : PageCmd) : Statement (.map handler part cmd) :=
  fun _ _ h => nomatch h

theorem unmap (handler : Option Nat) (part : Nat) (cmd : PageCmd) : Statement (.unmap handler part cmd) :=
  fun _ _ h => nomatch h

theorem inval (handler : Option Nat) (part : Nat) (cmd : PageCmd) : Statement (.inval handler part cmd) :=
  fun _ _ h => nomatch h

theorem retry (handler : Option Nat) (part : Nat) (cmd : PageCmd) : Statement (.retry handler part cmd) :=
  fun _ _ h => nomatch h

theorem noframe (handler : Option Nat) (part : Nat) (cmd : PageCmd) : Statement (.noframe handler part cmd) :=
  fun _ _ h => nomatch h

theorem qtaildbWrite (fn q : Nat) (offset size : Nat) (value : W64) : Statement (.qtaildbWrite fn q offset size value) :=
  fun _ _ h => nomatch h

theorem qstatRead (fn q : Nat) : Statement (.qstatRead fn q) := fun _ _ h => nomatch h

theorem queueEnable (fn q : Nat) : Statement (.queueEnable fn q) := fun _ _ h => nomatch h

theorem queueDisable (fn q : Nat) : Statement (.queueDisable fn q) := fun _ _ h => nomatch h

theorem queueStop (fn q : Nat) : Statement (.queueStop fn q) := fun _ _ h => nomatch h

theorem queueResume (fn q : Nat) : Statement (.queueResume fn q) := fun _ _ h => nomatch h

theorem queueStopped (fn q : Nat) : Statement (.queueStopped fn q) := fun _ _ h => nomatch h

theorem entryNop (fn q : Nat) : Statement (.entryNop fn q) := fun _ _ h => nomatch h

theorem launch (fn q : Nat) : Statement (.launch fn q) := fun _ _ h => nomatch h

theorem launchAppendOnRoom (fn q : Nat) : Statement (.launchAppendOnRoom fn q) := fun _ _ h => nomatch h

theorem signal (fn q : Nat) : Statement (.signal fn q) := fun _ _ h => nomatch h

theorem reload (fn q : Nat) : Statement (.reload fn q) := fun _ _ h => nomatch h

theorem flip (fn q : Nat) : Statement (.flip fn q) := fun _ _ h => nomatch h

theorem createDistrict (fn q : Nat) : Statement (.createDistrict fn q) := fun _ _ h => nomatch h

theorem destroyDistrict (fn q : Nat) : Statement (.destroyDistrict fn q) := fun _ _ h => nomatch h

theorem completionEntryWrite (fn q : Nat) : Statement (.completionEntryWrite fn q) := fun _ _ h => nomatch h

theorem firmwareRestartBegin (part : Nat) (image : Option Image) : Statement (.firmwareRestartBegin part image) :=
  fun _ _ h => nomatch h

theorem firmwareRestartEnd (part : Nat) : Statement (.firmwareRestartEnd part) := fun _ _ h => nomatch h

theorem queueStateExport (value : W32) : Statement (.queueStateExport value) := fun _ _ h => nomatch h

theorem queueStateImport (value : W32) : Statement (.queueStateImport value) := fun _ _ h => nomatch h

theorem dirtyTrackingEnable (fn : Nat) (value : W32) : Statement (.dirtyTrackingEnable fn value) :=
  fun _ _ h => nomatch h

theorem dirtyTrackingDisable (fn : Nat) (value : W32) : Statement (.dirtyTrackingDisable fn value) :=
  fun _ _ h => nomatch h

theorem dirtyBitmapSwap (fn : Nat) (addr : W64) : Statement (.dirtyBitmapSwap fn addr) := fun _ _ h => nomatch h

theorem dirtySwapDone (fn : Nat) : Statement (.dirtySwapDone fn) := fun _ _ h => nomatch h

theorem apertureRead (fn : Nat) (offset size : Nat) : Statement (.apertureRead fn offset size) :=
  fun _ _ h => nomatch h

theorem apertureWrite (fn : Nat) (offset : Nat) (data : List Byte) : Statement (.apertureWrite fn offset data) :=
  fun _ _ h => nomatch h

theorem pwrlimitWrite (value : W32) : Statement (.pwrlimitWrite value) := fun _ _ h => nomatch h

theorem limiterStep (milliwatts : Nat) : Statement (.limiterStep milliwatts) := fun _ _ h => nomatch h

theorem clusterThermalLimit (cluster : Nat) (eighths : Int) : Statement (.clusterThermalLimit cluster eighths) :=
  fun _ _ h => nomatch h

theorem packageTrip (cluster : Nat) (eighths : Int) : Statement (.packageTrip cluster eighths) :=
  fun _ _ h => nomatch h

theorem packageReset (boot : List Image) : Statement (.packageReset boot) := fun _ _ h => nomatch h

theorem functionReady (bit : Nat) : Statement (.functionReady bit) := fun _ _ h => nomatch h

theorem pluginLoad (fn : Nat) (core : Nat) (image : Image) : Statement (.pluginLoad fn core image) :=
  fun _ _ h => nomatch h

theorem correctableError (part : Nat) : Statement (.correctableError part) := fun _ _ h => nomatch h

theorem uncorrectableError (part : Nat) (site : ErrorSite) : Statement (.uncorrectableError part site) :=
  fun _ _ h => nomatch h

theorem partitionReset (part : Nat) : Statement (.partitionReset part) := fun _ _ h => nomatch h

theorem telemetryRefresh : Statement (.telemetryRefresh) := fun _ _ h => nomatch h

theorem flitRetry (port : Nat) : Statement (.flitRetry port) := fun _ _ h => nomatch h

theorem portLinkChange (port : Nat) (up : Bool) (peer : Nat) : Statement (.portLinkChange port up peer) :=
  fun _ _ h => nomatch h

theorem setEndpointId (eid : Byte) : Statement (.setEndpointId eid) := fun _ _ h => nomatch h

theorem getEndpointId : Statement (.getEndpointId) := fun _ _ h => nomatch h

theorem getMctpVersionSupport (type : Byte) : Statement (.getMctpVersionSupport type) := fun _ _ h => nomatch h

theorem getMessageTypeSupport : Statement (.getMessageTypeSupport) := fun _ _ h => nomatch h

theorem mctpUnsupportedMessage (type : Byte) : Statement (.mctpUnsupportedMessage type) := fun _ _ h => nomatch h

theorem pldmSensorRead (sensor : Sensor) : Statement (.pldmSensorRead sensor) := fun _ _ h => nomatch h

theorem pldmTransferComplete (component : Nat) : Statement (.pldmTransferComplete component) := fun _ _ h => nomatch h

theorem pldmActivateFirmware (part : Nat) : Statement (.pldmActivateFirmware part) := fun _ _ h => nomatch h

theorem readTelemetry (offset : BitVec 16) (len : Byte) : Statement (.readTelemetry offset len) :=
  fun _ _ h => nomatch h

theorem readReadiness : Statement (.readReadiness) := fun _ _ h => nomatch h

theorem writePowerLimit (value : W32) : Statement (.writePowerLimit value) := fun _ _ h => nomatch h

theorem setMigrationThreshold (celsius : Byte) : Statement (.setMigrationThreshold celsius) := fun _ _ h => nomatch h

theorem setNodeNumber (node : BitVec 16) : Statement (.setNodeNumber node) := fun _ _ h => nomatch h

theorem writeRoute (node : BitVec 16) (mask : W32) : Statement (.writeRoute node mask) := fun _ _ h => nomatch h

theorem resetPartition (part : Byte) : Statement (.resetPartition part) := fun _ _ h => nomatch h

theorem clearTrip : Statement (.clearTrip) := fun _ _ h => nomatch h

theorem commitImage (kind : Byte) : Statement (.commitImage kind) := fun _ _ h => nomatch h

theorem getVersion (path : SpdmPath) : Statement (.getVersion path) := fun _ _ h => nomatch h

theorem getCapabilities (path : SpdmPath) : Statement (.getCapabilities path) := fun _ _ h => nomatch h

theorem negotiateAlgorithms (path : SpdmPath) (algs : SpdmAlgs) : Statement (.negotiateAlgorithms path algs) :=
  fun _ _ h => nomatch h

theorem getDigests (path : SpdmPath) : Statement (.getDigests path) := fun _ _ h => nomatch h

theorem getCertificate (path : SpdmPath) (slot : Byte) : Statement (.getCertificate path slot) :=
  fun _ _ h => nomatch h

theorem challenge (path : SpdmPath) (nonce : List Byte) : Statement (.challenge path nonce) := fun _ _ h => nomatch h

theorem getMeasurements (path : SpdmPath) (index : Byte) (nonce : List Byte) : Statement (.getMeasurements path index nonce) :=
  fun _ _ h => nomatch h

theorem spdmUnsupportedRequest (path : SpdmPath) (code : Byte) : Statement (.spdmUnsupportedRequest path code) :=
  fun _ _ h => nomatch h

theorem loadDescriptor (fn : Nat) : Statement (.loadDescriptor fn) := fun _ _ h => nomatch h

theorem readCounters (fn : Nat) : Statement (.readCounters fn) := fun _ _ h => nomatch h

theorem startCapture (fn : Nat) : Statement (.startCapture fn) := fun _ _ h => nomatch h

theorem stopCapture (fn : Nat) : Statement (.stopCapture fn) := fun _ _ h => nomatch h

theorem unfreeze (fn : Nat) : Statement (.unfreeze fn) := fun _ _ h => nomatch h

theorem registerWrite (target : RegTarget) (size : Nat) (value : W64) : Statement (.registerWrite target size value) :=
  fun _ _ h => nomatch h

theorem arrivingRemoteAccess (access : OutsideAccess) : Statement (.arrivingRemoteAccess access) :=
  fun _ _ h => nomatch h

theorem chipServiceReply (core slot lane : Nat) (reply : W64) : Statement (.chipServiceReply core slot lane reply) :=
  fun _ _ h => nomatch h

theorem processorChipletAccess (app : Nat) (access : OutsideAccess) : Statement (.processorChipletAccess app access) :=
  fun _ _ h => nomatch h

theorem tenantEnable (fn : Nat) (block : List Byte) : Statement (.tenantEnable fn block) := fun _ _ h => nomatch h

theorem codeObjectLoad (object : CodeObject) : Statement (.codeObjectLoad object) := fun _ _ h => nomatch h

theorem pldmBaseCommand (command : Byte) : Statement (.pldmBaseCommand command) := fun _ _ h => nomatch h

theorem pldmFirmwareUpdateTransfer (component : Nat) (offset : Nat) (data : List Byte) : Statement (.pldmFirmwareUpdateTransfer component offset data) :=
  fun _ _ h => nomatch h

theorem hostLinkChange (up : Bool) : Statement (.hostLinkChange up) := fun _ _ h => nomatch h

end Sys2Proof.Laws.RoundTrip
end

