-- ==== Sys2Proof/Tests/Slice0.lean ====
section
/-! SUPPORT. The tests: words written out from the encodings of the spec, ill-formed instructions that the checks refuse, one step of
instructions with results from the spec's rules and worked examples, and for each statement a state that meets its hypotheses. -/

namespace Sys2Proof.Tests
open Sys2Proof.Machine Sys2Proof.Claims

/-! ## A small machine -/

/-- An unguarded control part without tags, and one with tag `t` to allocate. -/
def c0 : Ctl := plainCtl 0
def ct (t : BitVec 3) : Ctl := plainCtl t

/-- One range: addresses below 1 MiB lie in partition 0's carve-out, with every permission and the plain attribute (R333). -/
def rigDistrict : District := { districtInit with
  ranges := [⟨0, 0x100000, 0x8000000000000, 0x1FFF, 0x9F, true⟩]
  queues := [(0, ⟨0x8000, 16, [], 0, 0, 0, false, [], 0, none⟩)] }

def rigCrew : Crew := { crewInit with scratch := 4096, ob := 4096 }

/-- Registers 0 to 7 of lane `l`: pairs (0,1), (2,3), (4,5) and (6,7). -/
def rigLane (l : Nat) (xs : List Nat) : List (Nat × W32) := xs.mapIdx fun i x => (vkey l i, BitVec.ofNat 32 x)

def rigFibre : Fibre := { fibreInit with pc := 0x100, next := 0x101 }

/-- A wave with fibres in lanes `ls` at one PC, and the same eight register values in each of them. -/
def rigWave (ls : List Nat) (xs : List Nat) : Wave := { waveInit with
  id := ⟨0, 0, false, none, 64⟩
  regs := ⟨ls.flatMap fun l => rigLane l xs, [(0, 7), (1, 9)], [(0, 0x2B), (1, 1)], 0, 0⟩
  fibres := ls.map fun l => (l, rigFibre)
  sched := { waveInit.sched with run := some ⟨BitVec.ofNat 32 (maskOf ls), 0x100, 0, []⟩ } }

/-- The wave of slot 0 of core 0 issues an instruction in lanes `ls`. -/
def rig (ls : List Nat) (xs : List Nat) : State := { State.reset with
  clock := 100
  delays := [3, 4, 5]
  cur := ⟨0, 0, BitVec.ofNat 32 (maskOf ls), 0x100, 0, 0x101, none⟩
  waves := [(wkey 0 0, rigWave ls xs)]
  crews := [(0, rigCrew)]
  districts := [(0, rigDistrict)]
  partitions := [(0, { partInit with carve := 2 ^ 24 })]
  secure := { State.reset.secure with readiness := 0x3FFFFFFFFF } }

/-- What `Issues` asks, as a test. -/
def issuesB (i : Instr) (s : State) (w : Wave) : Bool :=
  i.wellFormed && s.cur.again == none && waveAt s s.cur.core s.cur.slot == some w && w.id.allot ≤ 512 && match shape i with
  | none => false
  | some sh => (viewOf sh.ctl s).act.all fun l => windowOk sh w.id.allot ((viewOf sh.ctl s).win l) ((viewOf sh.ctl s).win l)

theorem issues_of {i : Instr} {s : State} {w : Wave} (h : issuesB i s w = true) : Issues i s w := by
  unfold issuesB at h
  cases hs : shape i with
  | none => simp [hs] at h
  | some sh =>
    simp only [hs, Bool.and_eq_true, beq_iff_eq, decide_eq_true_eq, List.all_eq_true] at h
    exact ⟨h.1.1.1.1, by simp [hs], h.1.1.2, h.1.1.1.2, h.1.2, fun sh' e l hl => by rw [hs] at e; cases e; exact h.2 l hl⟩

set_option maxRecDepth 100000

/-! ## Decoding: one word for each encoded instruction, laid out by R151 and R157 -/

/-- Control parts: stall 5, pd 3, tags 1, 3 and 6 waited for, guard !p3 or none, tag 2 allocated or none. -/
def kG : Ctl := ⟨5, 3, 0, 0x25, true, 3⟩
def kGT : Ctl := ⟨5, 3, 2, 0x25, true, 3⟩

def decodes (ws : List (Nat × Instr)) : Bool := ws.all fun e => decodeTableWord 80 e.1 == some e.2

/-- Opcodes 0x000 to 0x01F. -/
def words000 : List (Nat × Instr) := [
  (0x5625002FFFFFFFFC0000, .nop kG ⟨0xFF, 0xFF, 0xFF, 0xFF, 0, false, false, 0, 0, 0⟩),
  (0x5625006C0813FFFC1C00, .mov kG ⟨2, 4, 0xFF, 0xFF, 0, false, false, 7, 0, 0⟩),
  (0x562500AC0BFE26AF379D, .movImm kG ⟨2, 0xFF, 0x89ABCDE7, 1⟩),
  (0x562500EC08101BFC1C01, .sel kG ⟨2, 4, 6, 0xFF, 0, false, false, 7, 0, 1⟩),
  (0x5625012C08101BFC0800, .add kG ⟨2, 4, 6, 0xFF, 0, false, false, 2, 0, 0⟩),
  (0x5625016C081226AF379D, .addImm kG ⟨2, 4, 0x89ABCDE7, 1⟩),
  (0x562501AC08101BFC0800, .sub kG ⟨2, 4, 6, 0xFF, 0, false, false, 2, 0, 0⟩),
  (0x562501EC08101BFC0800, .mul kG ⟨2, 4, 6, 0xFF, 0, false, false, 2, 0, 0⟩),
  (0x5625022C081226AF379D, .mulImm kG ⟨2, 4, 0x89ABCDE7, 1⟩),
  (0x5625026C08101BFC0800, .mulhi kG ⟨2, 4, 6, 0xFF, 0, false, false, 2, 0, 0⟩),
  (0x562502AC081018500800, .mad kG ⟨2, 4, 6, 0x14, 0, false, false, 2, 0, 0⟩),
  (0x562502EC08101851A800, .fma kG ⟨2, 4, 6, 0x14, 1, true, false, 0xA, 0, 0⟩),
  (0x5625032C08101BFC0800, .min kG ⟨2, 4, 6, 0xFF, 0, false, false, 2, 0, 0⟩),
  (0x5625036C08101BFC0800, .max kG ⟨2, 4, 6, 0xFF, 0, false, false, 2, 0, 0⟩),
  (0x562503AC0813FFFC0800, .abs kG ⟨2, 4, 0xFF, 0xFF, 0, false, false, 2, 0, 0⟩),
  (0x562503EC0813FFFC0800, .neg kG ⟨2, 4, 0xFF, 0xFF, 0, false, false, 2, 0, 0⟩),
  (0x5625042C08101BFC1C00, .and kG ⟨2, 4, 6, 0xFF, 0, false, false, 7, 0, 0⟩),
  (0x5625046C081226AF379D, .andImm kG ⟨2, 4, 0x89ABCDE7, 1⟩),
  (0x562504AC08101BFC1C00, .or kG ⟨2, 4, 6, 0xFF, 0, false, false, 7, 0, 0⟩),
  (0x562504EC081226AF379D, .orImm kG ⟨2, 4, 0x89ABCDE7, 1⟩),
  (0x5625052C08101BFC1C00, .xor kG ⟨2, 4, 6, 0xFF, 0, false, false, 7, 0, 0⟩),
  (0x5625056C081226AF379D, .xorImm kG ⟨2, 4, 0x89ABCDE7, 1⟩),
  (0x562505AC0813FFFC1C00, .not kG ⟨2, 4, 0xFF, 0xFF, 0, false, false, 7, 0, 0⟩),
  (0x562505EC08101BFC1C00, .shl kG ⟨2, 4, 6, 0xFF, 0, false, false, 7, 0, 0⟩),
  (0x5625062C081226AF379D, .shlImm kG ⟨2, 4, 0x89ABCDE7, 1⟩),
  (0x5625066C08101BFC1C00, .shr kG ⟨2, 4, 6, 0xFF, 0, false, false, 7, 0, 0⟩),
  (0x562506AC081226AF379D, .shrImm kG ⟨2, 4, 0x89ABCDE7, 1⟩),
  (0x562506EC08101BFC1C00, .sra kG ⟨2, 4, 6, 0xFF, 0, false, false, 7, 0, 0⟩),
  (0x5625072C081226AF379D, .sraImm kG ⟨2, 4, 0x89ABCDE7, 1⟩),
  (0x5625076C08101BFC1C00, .rot kG ⟨2, 4, 6, 0xFF, 0, false, false, 7, 0, 0⟩),
  (0x562507AC0813FFFC1C00, .popc kG ⟨2, 4, 0xFF, 0xFF, 0, false, false, 7, 0, 0⟩),
  (0x562507EC0813FFFC1C00, .clz kG ⟨2, 4, 0xFF, 0xFF, 0, false, false, 7, 0, 0⟩)]
theorem test_decode_000 : decodes words000 = true := by decide

/-- Opcodes 0x020 to 0x03A. -/
def words020 : List (Nat × Instr) := [
  (0x5625082C0813FFFC1C00, .ctz kG ⟨2, 4, 0xFF, 0xFF, 0, false, false, 7, 0, 0⟩),
  (0x5625086C0813FFFC1C00, .brev kG ⟨2, 4, 0xFF, 0xFF, 0, false, false, 7, 0, 0⟩),
  (0x562508AC08101BFC0800, .bfe kG ⟨2, 4, 6, 0xFF, 0, false, false, 2, 0, 0⟩),
  (0x562508EC081018501C00, .bfi kG ⟨2, 4, 6, 0x14, 0, false, false, 7, 0, 0⟩),
  (0x5625092C08101BFC1CC1, .lea kG ⟨2, 4, 6, 0xFF, 0, false, false, 7, 3, 1⟩),
  (0x56A5096C08101BFC0800, .div kGT ⟨2, 4, 6, 0xFF, 0, false, false, 2, 0, 0⟩),
  (0x56A509AC08101BFC0800, .rem kGT ⟨2, 4, 6, 0xFF, 0, false, false, 2, 0, 0⟩),
  (0x562509ECC8101BFEC8C0, .cmp kG ⟨1, 4, 2, 4, 6, 0xFF, 5, true, 2, 3, 0⟩),
  (0x56250A2CC8082C16FA00, .plop kG ⟨1, 4, 2, 2, 0xB, 5, 5, true, 0xE, 8, 0⟩),
  (0x56250A6FFC101BFC0000, .pmov kG ⟨0xFF, 4, 6, 0xFF, 0, false, false, 0, 0, 0⟩),
  (0x56250AAC08101BFC2801, .cpsgn kG ⟨2, 4, 6, 0xFF, 0, false, false, 0xA, 0, 1⟩),
  (0x56250AECC813FFFEE8C1, .classify kG ⟨1, 4, 2, 4, 0xFF, 0xFF, 5, true, 0xA, 3, 1⟩),
  (0x56250B2C08101BFDA800, .scale kG ⟨2, 4, 6, 0xFF, 1, true, false, 0xA, 0, 0⟩),
  (0x56250B6C0813FFFE2801, .frnd kG ⟨2, 4, 0xFF, 0xFF, 2, false, false, 0xA, 0, 1⟩),
  (0x56250BAC0813FFFC08C0, .cvt kG ⟨2, 4, 0xFF, 0xFF, 0, false, false, 2, 3, 0⟩),
  (0x56A50C2C0813FFFDA800, .rcp kGT ⟨2, 4, 0xFF, 0xFF, 1, true, false, 0xA, 0, 0⟩),
  (0x56A50C6C0813FFFCA800, .rsq kGT ⟨2, 4, 0xFF, 0xFF, 0, true, false, 0xA, 0, 0⟩),
  (0x56A50CAC0813FFFDA800, .sqrt kGT ⟨2, 4, 0xFF, 0xFF, 1, true, false, 0xA, 0, 0⟩),
  (0x56A50CEC0813FFFCA800, .ex2 kGT ⟨2, 4, 0xFF, 0xFF, 0, true, false, 0xA, 0, 0⟩),
  (0x56A50D2C0813FFFCA800, .lg2 kGT ⟨2, 4, 0xFF, 0xFF, 0, true, false, 0xA, 0, 0⟩),
  (0x56A50D6C0813FFFCA800, .sin kGT ⟨2, 4, 0xFF, 0xFF, 0, true, false, 0xA, 0, 0⟩),
  (0x56A50DAC0813FFFCA800, .cos kGT ⟨2, 4, 0xFF, 0xFF, 0, true, false, 0xA, 0, 0⟩),
  (0x56A50DEC0813FFFCA800, .tanh kGT ⟨2, 4, 0xFF, 0xFF, 0, true, false, 0xA, 0, 0⟩),
  (0x56250E2C08101852AB80, .dot2 kG ⟨2, 4, 6, 0x14, 2, true, false, 0xA, 0xE, 0⟩),
  (0x56A50E6C081323302800, .qblk kGT ⟨2, 4, 0xC8, 0xCC, 0, false, false, 0xA, 0, 0⟩),
  (0x56250EAC081018522801, .dqn4 kG ⟨2, 4, 6, 0x14, 2, false, false, 0xA, 0, 1⟩)]
theorem test_decode_020 : decodes words020 = true := by decide

/-- Opcodes 0x040 to 0x059. -/
def words040 : List (Nat × Instr) := [
  (0x5625102C08101BFC1C01, .shfl kG ⟨2, 4, 6, 0xFF, 0, false, false, 7, 0, 1⟩),
  (0x5625106C081000000049, .shflImm kG ⟨2, 4, 0x12, 1⟩),
  (0x562510AC0813FFFC1C01, .bcast kG ⟨2, 4, 0xFF, 0xFF, 0, false, false, 7, 0, 1⟩),
  (0x562510ECC813FFFEC001, .vote kG ⟨1, 4, 2, 4, 0xFF, 0xFF, 5, true, 0, 0, 1⟩),
  (0x5625112C0813FFFC0000, .ballot kG ⟨2, 4, 0xFF, 0xFF, 0, false, false, 0, 0, 0⟩),
  (0x5625116C0813FFFC0801, .wred kG ⟨2, 4, 0xFF, 0xFF, 0, false, false, 2, 0, 1⟩),
  (0x562511AC0813FFFC0801, .wscan kG ⟨2, 4, 0xFF, 0xFF, 0, false, false, 2, 0, 1⟩),
  (0x5625142F8C13FFFC0000, .kmov kG ⟨0xE3, 4, 0xFF, 0xFF, 0, false, false, 0, 0, 0⟩),
  (0x5625146F8FFE26AF379C, .kmovImm kG ⟨0xE3, 0xFF, 0x89ABCDE7, 0⟩),
  (0x562514AF8F1323FC0000, .kand kG ⟨0xE3, 0xC4, 0xC8, 0xFF, 0, false, false, 0, 0, 0⟩),
  (0x562514EF8F1323FC0000, .kor kG ⟨0xE3, 0xC4, 0xC8, 0xFF, 0, false, false, 0, 0, 0⟩),
  (0x5625152F8F1323FC0000, .kxor kG ⟨0xE3, 0xC4, 0xC8, 0xFF, 0, false, false, 0, 0, 0⟩),
  (0x5625156F8F13FFFC0000, .knot kG ⟨0xE3, 0xC4, 0xFF, 0xFF, 0, false, false, 0, 0, 0⟩),
  (0x562515AF8FFFFFFC0001, .kact kG ⟨0xE3, 0xFF, 0xFF, 0xFF, 0, false, false, 0, 0, 1⟩),
  (0x562515EC0B13FFFC0000, .kpop kG ⟨2, 0xC4, 0xFF, 0xFF, 0, false, false, 0, 0, 0⟩),
  (0x5625162CCB1323FEC0C0, .ktest kG ⟨1, 4, 2, 0xC4, 0xC8, 0xFF, 5, true, 0, 3, 0⟩),
  (0x5625166C0B13FFFC0001, .kfirst kG ⟨2, 0xC4, 0xFF, 0xFF, 0, false, false, 0, 0, 1⟩)]
theorem test_decode_040 : decodes words040 = true := by decide

/-- Opcodes 0x060 to 0x064. -/
def words060 : List (Nat × Instr) := [
  (0x5625182FFC141022FF81, .xainit kG ⟨0xFF, 5, 4, 8, 2, 7, 7, 7, 0, 1⟩),
  (0x5625186FFC13FFFEFFD8, .xapush kG ⟨0xFF, 4, 0xFF, 0xFF, 2, 7, 7, 7, 0xB, 0⟩),
  (0x56A518AC0BFFFFFE32D8, .xalim kGT ⟨2, 0xFF, 0xFF, 0xFF, 2, 1, 4, 5, 0xB, 0⟩),
  (0x562518EC0873FFFEFF83, .xastat kG ⟨2, 0x1C, 0xFF, 0xFF, 2, 7, 7, 7, 0, 3⟩),
  (0x5625192FFFFFFFFEFF80, .xaclr kG ⟨0xFF, 0xFF, 0xFF, 0xFF, 2, 7, 7, 7, 0, 0⟩)]
theorem test_decode_060 : decodes words060 = true := by decide

/-- Opcodes 0x080 to 0x098. -/
def words080 : List (Nat × Instr) := [
  (0x56A5202C0813FFFFE1B4, .ld kGT ⟨2, 4, 0xFF, 0xFFF8, 3, 3, 1, 0⟩),
  (0x56A5206FFC101BFFE1C8, .st kGT ⟨0xFF, 4, 6, 0xFFF8, 3, 4, 2, 0⟩),
  (0x56A520AC0813FFFFE1B4, .lds kGT ⟨2, 4, 0xFF, 0xFFF8, 3, 3, 1, 0⟩),
  (0x56A520EFFC101BFFE1C8, .sts kGT ⟨0xFF, 4, 6, 0xFFF8, 3, 4, 2, 0⟩),
  (0x56A5212FFC101BFFE181, .stp kGT ⟨0xFF, 4, 6, 0xFFF8, 3, 0, 0, 1⟩),
  (0x56A5216C0BFC48D159E1, .ldl kGT ⟨2, 0xFF, 0x12345678, 1⟩),
  (0x56A521AFFC101BFFE1C8, .stm kGT ⟨0xFF, 4, 6, 0xFFF8, 3, 4, 2, 0⟩),
  (0x56A521EFFC101BFFE000, .replsync kGT ⟨0xFF, 4, 6, 0xFFF8, 0, 0, 0, 0⟩),
  (0x56A5222FFFFFFC000048, .fence kGT ⟨0xFF, 0xFF, 0xFF, 0, 0, 4, 2, 0⟩),
  (0x56A5226FFC101B300180, .stpScalarRank kGT ⟨0xFF, 4, 6, 0xCC, 0, 0, 3, 0, 0, 0⟩),
  (0x56A5242C08101BFC51C8, .atom kGT ⟨2, 4, 6, 0xFF, 5, 0, 3, 4, 2, 0⟩),
  (0x56A5246C08101BFC51C8, .atoms kGT ⟨2, 4, 6, 0xFF, 5, 0, 3, 4, 2, 0⟩),
  (0x56A524AFFC101BFC51C8, .red kGT ⟨0xFF, 4, 6, 0xFF, 5, 0, 3, 4, 2, 0⟩),
  (0x56A524EFFC101BFC51C8, .reds kGT ⟨0xFF, 4, 6, 0xFF, 5, 0, 3, 4, 2, 0⟩),
  (0x56A5252C0810185001C8, .cas kGT ⟨2, 4, 6, 0x14, 0, 0, 3, 4, 2, 0⟩),
  (0x56A5256C08101BFC01C9, .casgt kGT ⟨2, 4, 6, 0xFF, 0, 0, 3, 4, 2, 1⟩),
  (0x56A525AC0810185001C8, .casver kGT ⟨2, 4, 6, 0x14, 0, 0, 3, 4, 2, 0⟩),
  (0x56A525EC0810185001C8, .casptr kGT ⟨2, 4, 6, 0x14, 0, 0, 3, 4, 2, 0⟩),
  (0x56A5262C0810185059C8, .pcall kGT ⟨2, 4, 6, 0x14, 5, 2, 3, 4, 2, 0⟩)]
theorem test_decode_080 : decodes words080 = true := by decide

/-- Opcodes 0x0A0 to 0x0A2. -/
def words0A0 : List (Nat × Instr) := [
  (0x56A5282FFFFFFFFFFFE9, .txbegin kGT ⟨0xFF, 0xFF, 0xFF, 0xFFFFFA, 1⟩),
  (0x56A5286F8FFFFFFC0000, .txend kGT ⟨0xE3, 0xFF, 0xFF, 0xFF, 0, false, false, 0, 0, 0⟩),
  (0x56A528AFFC13FFFC0000, .txabort kGT ⟨0xFF, 4, 0xFF, 0xFF, 0, false, false, 0, 0, 0⟩)]
theorem test_decode_0A0 : decodes words0A0 = true := by decide

/-- Opcodes 0x100 to 0x112. -/
def words100 : List (Nat × Instr) := [
  (0x56A5402C081018500001, .obres kGT ⟨2, 4, 6, 0x14, 0, false, false, 0, 0, 1⟩),
  (0x56A5406C0BFFFFFC0001, .obrel kGT ⟨2, 0xFF, 0xFF, 0xFF, 0, false, false, 0, 0, 1⟩),
  (0x56A540AE40101852A441, .mma kGT ⟨9, 0, 4, 6, 0x14, 5, 2, 4, 4, 1⟩),
  (0x56A540EE401018500441, .mmam kGT ⟨9, 0, 4, 6, 0x14, 0, 0, 4, 4, 1⟩),
  (0x56A5412E43FFFFFC0000, .mzero kGT ⟨9, 0, 0xFF, 0xFF, 0xFF, 0, 0, 0, 0, 0⟩),
  (0x56A5416E5BFFFFFC0001, .mmov kGT ⟨9, 6, 0xFF, 0xFF, 0xFF, 0, 0, 0, 0, 1⟩),
  (0x56A541AE401018500001, .mld kGT ⟨9, 0, 4, 6, 0x14, 0, 0, 0, 0, 1⟩),
  (0x56A541EC181018500001, .mflush kGT ⟨0, 6, 4, 6, 0x14, 0, 0, 0, 0, 1⟩),
  (0x56A5422E43FFFC500001, .mstest kGT ⟨9, 0, 0xFF, 0xFF, 0x14, 0, 0, 0, 0, 1⟩),
  (0x56A5442FFC1018500802, .cpy kGT ⟨0xFF, 4, 6, 0x14, 0, false, false, 2, 0, 2⟩),
  (0x56A5446FFC1018500801, .cpyt kGT ⟨0xFF, 4, 6, 0x14, 0, false, false, 2, 0, 1⟩),
  (0x56A544AFFFFFFFFC0000, .rcfence kGT ⟨0xFF, 0xFF, 0xFF, 0xFF, 0, false, false, 0, 0, 0⟩)]
theorem test_decode_100 : decodes words100 = true := by decide

/-- Opcodes 0x180 to 0x197. -/
def words180 : List (Nat × Instr) := [
  (0x5625602FFFFFFFFFFFE8, .bra kG ⟨0xFF, 0xFF, 0xFF, 0xFFFFFA, 0⟩),
  (0x5625606FFC13FFFC0000, .jmp kG ⟨0xFF, 4, 0xFF, 0xFF, 0, false, false, 0, 0, 0⟩),
  (0x562560AC0813FFFFFFE8, .call kG ⟨2, 4, 0xFF, 0xFFFFFA, 0⟩),
  (0x562560EC0813FFFC0001, .callr kG ⟨2, 4, 0xFF, 0xFF, 0, false, false, 0, 0, 1⟩),
  (0x5625612FFC13FFFC0001, .ret kG ⟨0xFF, 4, 0xFF, 0xFF, 0, false, false, 0, 0, 1⟩),
  (0x5625616C0BFFFFFFFFE8, .loop kG ⟨2, 0xFF, 0xFF, 0xFFFFFA, 0⟩),
  (0x56A561AC08101BFFFFE8, .fork kGT ⟨2, 4, 6, 0xFFFFFA, 0⟩),
  (0x562561EFFFFFFFFC0000, .quit kG ⟨0xFF, 0xFF, 0xFF, 0xFF, 0, false, false, 0, 0, 0⟩),
  (0x56A5622FFF97FFFC0000, .join kGT ⟨0xFF, 0xE5, 0xFF, 0xFF, 0, false, false, 0, 0, 0⟩),
  (0x5625626FFF97FFFC0000, .leave kG ⟨0xFF, 0xE5, 0xFF, 0xFF, 0, false, false, 0, 0, 0⟩),
  (0x56A562AFFF97FFFC0000, .waitm kGT ⟨0xFF, 0xE5, 0xFF, 0xFF, 0, false, false, 0, 0, 0⟩),
  (0x56A5642FFC101BFC0000, .binit kGT ⟨0xFF, 4, 6, 0xFF, 0, false, false, 0, 0, 0⟩),
  (0x56A5646C0813FFFC0001, .barr kGT ⟨2, 4, 0xFF, 0xFF, 0, false, false, 0, 0, 1⟩),
  (0x56A564AC08101BFC0000, .bwait kGT ⟨2, 4, 6, 0xFF, 0, false, false, 0, 0, 0⟩),
  (0x56A564EC0BFFFFFC0001, .bfarr kGT ⟨2, 0xFF, 0xFF, 0xFF, 0, false, false, 0, 0, 1⟩),
  (0x56A5652C0813FFFC0001, .bfwait kGT ⟨2, 4, 0xFF, 0xFF, 0, false, false, 0, 0, 1⟩),
  (0x56A5656FFC13FFFC0000, .qput kGT ⟨0xFF, 4, 0xFF, 0xFF, 0, false, false, 0, 0, 0⟩),
  (0x56A565AC0BFFFFFC0001, .qget kGT ⟨2, 0xFF, 0xFF, 0xFF, 0, false, false, 0, 0, 1⟩),
  (0x56A565EC08101BFC0001, .svc kGT ⟨2, 4, 6, 0xFF, 0, false, false, 0, 0, 1⟩)]
theorem test_decode_180 : decodes words180 = true := by decide

/-- Opcodes 0x200 to 0x218. -/
def words200 : List (Nat × Instr) := [
  (0x56A5802C0BFC00000048, .mfsr kGT ⟨2, 0xFF, 0x12, 0⟩),
  (0x56A5806FFC1000000048, .mtsr kGT ⟨0xFF, 4, 0x12, 0⟩),
  (0x56A580AC0813FFFC0000, .spawn kGT ⟨2, 4, 0xFF, 0xFF, 0, false, false, 0, 0, 0⟩),
  (0x56A580EFFFFFFFFC0000, .yieldpt kGT ⟨0xFF, 0xFF, 0xFF, 0xFF, 0, false, false, 0, 0, 0⟩),
  (0x56A5812FFFFFFFFC0001, .ppt kGT ⟨0xFF, 0xFF, 0xFF, 0xFF, 0, false, false, 0, 0, 1⟩),
  (0x5625816FFFFC00000048, .spanin kG ⟨0xFF, 0xFF, 0x12, 0⟩),
  (0x562581AFFFFC00000048, .spanout kG ⟨0xFF, 0xFF, 0x12, 0⟩),
  (0x56A581EFFFFFFFFC0001, .brk kGT ⟨0xFF, 0xFF, 0xFF, 0xFF, 0, false, false, 0, 0, 1⟩),
  (0x56A5822FFFFC00000048, .trap kGT ⟨0xFF, 0xFF, 0x12, 0⟩),
  (0x5625826FFFFFFFFC0000, .sret kG ⟨0xFF, 0xFF, 0xFF, 0xFF, 0, false, false, 0, 0, 0⟩),
  (0x56A582AC0BFFFFFC0000, .rdcyc kGT ⟨2, 0xFF, 0xFF, 0xFF, 0, false, false, 0, 0, 0⟩),
  (0x56A5842C0813FFFC0000, .tbload kGT ⟨2, 4, 0xFF, 0xFF, 0, false, false, 0, 0, 0⟩),
  (0x56A5846C0813FFFC0000, .odeinit kGT ⟨2, 4, 0xFF, 0xFF, 0, false, false, 0, 0, 0⟩),
  (0x56A584AC0BFFFFFC0000, .oderun kGT ⟨2, 0xFF, 0xFF, 0xFF, 0, false, false, 0, 0, 0⟩),
  (0x56A584EFFFFFFFFC0001, .odestep kGT ⟨0xFF, 0xFF, 0xFF, 0xFF, 0, false, false, 0, 0, 1⟩),
  (0x56A5852C08101BFC0000, .odeq kGT ⟨2, 4, 6, 0xFF, 0, false, false, 0, 0, 0⟩),
  (0x56A5856C0BFFFFFC0001, .odestat kGT ⟨2, 0xFF, 0xFF, 0xFF, 0, false, false, 0, 0, 1⟩),
  (0x56A585AC0BFFFFFC0001, .stgget kGT ⟨2, 0xFF, 0xFF, 0xFF, 0, false, false, 0, 0, 1⟩),
  (0x56A585EFFC101BFC2800, .stgput kGT ⟨0xFF, 4, 6, 0xFF, 0, false, false, 0xA, 0, 0⟩),
  (0x56A5862FFC13FFFC0001, .evarm kGT ⟨0xFF, 4, 0xFF, 0xFF, 0, false, false, 0, 0, 1⟩)]
theorem test_decode_200 : decodes words200 = true := by decide

/-- The worked words of spec/07 to spec/18 (R151, R157): the bytes that each chapter prints. -/
theorem test_decode_worked_words :
    decodeTableWord 80 0x0040201C0B13FC010100 = some (.ld (ct 1) ⟨2, 0xC4, 0xFF, 0x40, 2, 0, 0, 0⟩) ∧
    decodeTableWord 80 0x400102DC0C08140C2800 = some (.fma ⟨4, 0, 0, 1, false, 7⟩ ⟨3, 2, 5, 3, 0, false, false, 10, 0, 0⟩) ∧
    decodeTableWord 80 0x0040189C1BFFFFFC4E58 = some (.xalim (ct 1) ⟨6, 0xFF, 0xFF, 0xFF, 0, 2, 3, 4, 11, 0⟩) ∧
    decodeTableWord 80 0x0040801C0FFC00000048 = some (.mfsr (ct 1) ⟨3, 0xFF, 0x12, 0⟩) ∧
    decodeTableWord 80 0x00C0409C801017181440 = some (.mma (ct 3) ⟨2, 0, 4, 5, 0xC6, 0, 1, 4, 4, 0⟩) ∧
    decode 3 true 0x30 0x0000609C000BFC00000C#80 = .ok (.call c0 ⟨0, 2, 0xFF, 3, 0⟩) := by decide

/-- R164, R168: each refusal by its reason. -/
theorem test_refused_by_reason :
    decode 0 true 0 0x0000FFFC0000FFFC0000#80 = .illegal 3 ∧ decode 1 true 0 0x5625012C08101BFC0800#80 = .illegal 3 ∧
    decode 3 false 0 0x0000609C000BFC00000C#80 = .illegal 7 ∧ decode 0 true 0 0x0040012C08101BFC0800#80 = .illegal 4 ∧
    decode 0 true 0 0x0000011C08101BFC0809#80 = .illegal 5 ∧ decode 0 true 0 0x0000011C08101BFC1C00#80 = .illegal 6 := by decide

/-! ## Ill-formed instructions: one for each check -/

/-- R152: alloc 7 anywhere, and an alloc on a fixed-latency instruction. -/
theorem test_ill_formed_control :
    (Instr.ld (ct 7) ⟨2, 4, 0xFF, 0, 2, 0, 0, 0⟩).wellFormed = false ∧
    (Instr.add (ct 1) ⟨2, 4, 6, 0xFF, 0, false, false, 2, 0, 0⟩).wellFormed = false ∧
    (Instr.ld (ct 6) ⟨2, 4, 0xFF, 0, 2, 0, 0, 0⟩).wellFormed = true := by decide

/-- R156, R158, R161: an unused field that does not hold 0xFF or 0, an unlisted sub value. -/
theorem test_ill_formed_reserved :
    (Instr.mov c0 ⟨2, 4, 0, 0xFF, 0, false, false, 7, 0, 0⟩).wellFormed = false ∧
    (Instr.add c0 ⟨2, 4, 6, 0xFF, 0, false, false, 2, 0, 9⟩).wellFormed = false ∧
    (Instr.nop c0 ⟨0xFF, 0xFF, 0xFF, 0xFF, 0, false, false, 1, 0, 0⟩).wellFormed = false ∧
    (Instr.fence c0 ⟨0xFF, 0xFF, 0xFF, 1, 0, 4, 2, 0⟩).wellFormed = false ∧
    (Instr.mld c0 ⟨9, 3, 4, 6, 0x14, 0, 0, 0, 0, 0⟩).wellFormed = false ∧
    (Instr.plop c0 ⟨1, 7, 0, 0x10, 2, 3, 7, false, 0, 0, 0⟩).wellFormed = false := by decide

/-- R156, R227, R232: an operand, type, order or scope that the entry does not admit. -/
theorem test_ill_formed_operand :
    (Instr.add c0 ⟨2, 4, 6, 0xFF, 0, false, false, 7, 0, 0⟩).wellFormed = false ∧
    (Instr.add c0 ⟨0xE3, 4, 6, 0xFF, 0, false, false, 2, 0, 0⟩).wellFormed = false ∧
    (Instr.ld c0 ⟨2, 4, 0xFF, 0, 2, 4, 0, 0⟩).wellFormed = false ∧ (Instr.ld c0 ⟨2, 4, 0xFF, 0, 2, 4, 2, 0⟩).wellFormed = false ∧
    (Instr.ld c0 ⟨2, 0xE0, 0xFF, 0, 2, 0, 0, 0⟩).wellFormed = false ∧
    (Instr.atom c0 ⟨2, 4, 6, 0xFF, 9, 0, 1, 4, 0, 0⟩).wellFormed = false ∧
    (Instr.red c0 ⟨0xFF, 4, 6, 0xFF, 0, 0, 2, 4, 1, 0⟩).wellFormed = false := by decide

theorem test_ill_formed_opcode : (Instr.unassignedOpcode 0).wellFormed = false := by decide
theorem test_event_well_formed : (Instr.telemetryRefresh).wellFormed = true := by decide

/-! ## Witnesses: the statements about the machine -/

theorem test_meets_DecodeOfEncode :
    let i : Instr := .ldl (ct 1) ⟨4, 0xFF, 0x80000000, 2⟩
    i.wellFormed = true ∧ (shape i).isSome = true ∧ literalOk 0x80000000 i = true := by decide

theorem test_meets_EncodeOfDecode :
    decode 1 true 0 0x0040201C0B13FC010100#80 = .ok (.ld (ct 1) ⟨2, 0xC4, 0xFF, 0x40, 2, 0, 0, 0⟩) ∧
    parse 0x0000FFFC0000FFFC0000#80 = .unassignedOpcode 0x0000FFFC0000FFFC0000#80 := by decide

/-- A state whose next step runs a word. -/
def runs (w : Nat) : State := State.reset.withFetchWord 80 w

/-- What a step that issues at `pc` asks. -/
def picks (s : State) (pc : Nat) : Bool :=
  dueInput s == none && (startAgain s).isNone && nextEvent s == none &&
    match pickWave s s.waves with
    | some (k, .issue p ls, _) => p == pc && ls == [0] && (match waveAt s (wkCore k) (wkSlot k) with
      | none => false
      | some w => match waveDistrict s w with
        | none => false
        | some d => match fetchWord s d p with | .word _ _ => true | _ => false)
    | _ => false

theorem test_meets_StepRunsInstruction :
    picks (runs 0x0000011C08101BFC0800) 0 = true ∧
    decode 0 true 0 0x0000011C08101BFC0800#80 = .ok (.add c0 ⟨2, 4, 6, 0xFF, 0, false, false, 2, 0, 0⟩) ∧
    picks (runs 0x0000011C08101BFC0809) 0 = true ∧ decode 0 true 0 0x0000011C08101BFC0809#80 = .illegal 5 := by decide

/-- A flight of the rig's wave that is due. -/
def landed : Flight := ⟨0, 0, 1, 0, 100, [(.v 0 2, 5)], 0, none, 0, [], none⟩

/-- The rig whose wave has no convoy: it selects one. -/
def rigSelect : State := { rig [0] [] with waves := [(wkey 0 0, { rigWave [0] [] with
  sched := { waveInit.sched with nextIssue := 100, nextClause := 100 } })] }

/-- Lane 3 goes on with an `add` that waited. -/
def rigAgain : State := { rig [0] [] with
  waves := [(wkey 0 0, { rigWave [0] [] with fibres := [(0, rigFibre), (3, { rigFibre with wait := .again, flight := 7 })] })]
  flights := [(7, { landed with waits := 8, again := some ⟨.add c0 ⟨2, 4, 6, 0xFF, 0, false, false, 2, 0, 0⟩, 0x100, 0, 0x101,
    [], [], [], [(3, 0)], 8, 9, 0, 0, 0, none, 0, none⟩ })] }

theorem test_meets_StepOrder_again : dueInput rigAgain = none ∧
    (match startAgain rigAgain with
      | some (i, b) => match exec i b with
        | .next _ => true
        | _ => false
      | none => false) = true := by decide

theorem test_meets_OperandForms : (rig [0, 31] []).cur.again = none ∧ (waveAt (rig [0, 31] []) 0 0).isSome = true := by decide

theorem test_meets_StepOrder :
    dueInput { State.reset with agenda := [(0, .telemetryRefresh)] } = some (0, .telemetryRefresh) ∧
    isEvent .telemetryRefresh = true ∧
    dueInput { rig [0] [] with flights := [(7, landed)] } = none ∧
    nextEvent { rig [0] [] with flights := [(7, landed)] } = some (.variableLatencyCompletion 7) ∧
    (startAgain { rig [0] [] with flights := [(7, landed)] }).isNone = true ∧
    dueInput rigSelect = none ∧ (startAgain rigSelect).isNone = true ∧ nextEvent rigSelect = none ∧
    (match pickWave rigSelect rigSelect.waves with | some (0, .select, _) => true | _ => false) = true ∧
    ((waveAt rigSelect 0 0).bind (waveDistrict rigSelect)).isSome = true ∧
    dueInput State.reset = none ∧ (startAgain State.reset).isNone = true ∧ nextEvent State.reset = none ∧ (pickWave State.reset State.reset.waves).isNone = true ∧
    sampleEvent State.reset = none := by decide

theorem test_meets_CanonicalKept : State.reset.canonical ∧ ∃ t, step State.reset = .next t := ⟨by unfold State.canonical; decide, _, rfl⟩

/-- A view of the rig whose bypass holds v2 of lane 0 as slot 0 left it. -/
def rigBypass (p : Option Nat) (ready : Nat) : View :=
  let v := viewOf c0 (rig [0] [1, 2, 3])
  { v with producer := p, wave := { v.wave with sched := { v.wave.sched with run := some ⟨1, 0x100, 1, [⟨0, .v 0 2, 9, ready⟩]⟩ } } }

theorem test_meets_OperandForms_bypass :
    (rigBypass none 0).producer = none ∧
    (∀ b ∈ [(⟨0, .v 0 2, 9, 101⟩ : Bypass)], b.slot = 0 → b.target = .v 0 2 → (rigBypass (some 0) 101).clock < b.ready) ∧
    (rigBypass (some 0) 100).reg (.v 0 2) = 9 ∧ (rigBypass (some 0) 101).reg (.v 0 2) = 3 ∧ (rigBypass (some 0) 97).reg (.v 0 2) = 3 ∧
    (rigBypass (some 0) 98).reg (.v 0 2) = 9 ∧
    (rigBypass (some 0) 0).reg (.v 0 1) = 2 := by decide

theorem test_meets_InstructionFaults_park :
    (waveAt (rig [0, 31] []) 0 0).isSome = true ∧ [(0, faultWindow), (31, faultWindow)] ≠ [] ∧
    ([(0, faultWindow), (31, faultWindow)].map Prod.fst).Nodup := by decide

theorem test_meets_InstructionFaults :
    waveAt (rig [0, 3] []) 0 0 = some (rigWave [0, 3] []) ∧
    ((lanesOf (rig [0, 3] []).cur.lanes.toNat).filter fun l => (mget (rigWave [0, 3] []).fibres l).isSome) = [0, 3] ∧
    issuesB (.jmp c0 ⟨0xFF, 0, 0xFF, 0xFF, 0, false, false, 0, 0, 0⟩) (rig [0, 3] [0x108, 0]) (rigWave [0, 3] [0x108, 0]) = true ∧
    (∀ l ∈ (viewOf c0 (rig [0, 3] [0x108, 0])).act, (viewOf c0 (rig [0, 3] [0x108, 0])).opd l 0 2 % 16 ≠ 0) ∧
    issuesB (.ret c0 ⟨0xFF, 0, 0xFF, 0xFF, 0, false, false, 0, 0, 1⟩) (rig [0, 3] [0x100, 0]) (rigWave [0, 3] [0x100, 0]) = true ∧
    (∀ l ∈ (viewOf c0 (rig [0, 3] [])).act, (viewOf c0 (rig [0, 3] [])).win l < 8 * 1) ∧
    (viewOf c0 (rig [0, 3] [])).act ≠ [] ∧
    (Instr.mov c0 ⟨64, 0, 0xFF, 0xFF, 0, false, false, 6, 0, 0⟩).wellFormed = true ∧
    (∀ sh, shape (.mov c0 ⟨64, 0, 0xFF, 0xFF, 0, false, false, 6, 0, 0⟩) = some sh →
      ∀ l ∈ (viewOf c0 (rig [0, 3] [])).act, windowOk sh 64 ((viewOf c0 (rig [0, 3] [])).win l)
        ((viewOf c0 (rig [0, 3] [])).win l) = false) := by
  refine ⟨by decide, by decide, by decide, by decide, by decide, by decide, by decide, by decide, ?_⟩
  rintro sh h
  simp only [shape, Option.some.injEq] at h
  subst h; decide

/-- Lanes whose TRAPWIN is no window base. -/
def rigTrap : State := { rig [0] [] with waves := [(wkey 0 0, { rigWave [0] [] with
  lanes := [(0, { laneInit with trap := { laneInit.trap with win := 12 } })] })] }

theorem test_meets_InstructionFaults_sret :
    ∀ l ∈ (viewOf c0 rigTrap).act, (laneAt (viewOf c0 rigTrap).wave l).trap.win.toNat % 8 ≠ 0 := by decide

/-! ## Instructions of fixed latency: where each issues, and results by the rules -/

def after (i : Instr) (s : State) : State := match exec i s with | .next t => t | _ => s

/-- Field `e` of lane `l` once everything that the wave of slot 0 has in flight has landed. -/
def fieldOf (t : State) (l : Nat) (e : BitVec 8) (n : Nat) : Nat := match waveAt t 0 0 with
  | none => 0
  | some w => fieldValue (landAll (settled w) (t.flights.flatMap fun f => f.2.writes)) 0 l e n

/-- Predicates p0 to p6 of lane `l`, as a word. -/
def predsOf (t : State) (l : Nat) : Nat := match waveAt t 0 0 with
  | none => 0
  | some w => (List.range 7).foldl (fun x p => x + 2 ^ p * (readTarget (settled w) (.p l p)).toNat) 0

/-- Each instruction gives the field value in lane 0 from these registers. -/
def results (cs : List (Instr × List Nat × Nat)) (e : BitVec 8) (n : Nat) : Bool :=
  cs.all fun c => issuesB c.1 (rig [0, 31] c.2.1) (rigWave [0, 31] c.2.1) && fieldOf (after c.1 (rig [0, 31] c.2.1)) 0 e n == c.2.2

/-- Format G of one, two and three sources at v0, v2, v4 into v6; type, sub and saturation. -/
def g1 (t : BitVec 4) (sub : BitVec 6 := 0) (sat : Bool := false) : GF := ⟨6, 0, 0xFF, 0xFF, 0, false, sat, t, 0, sub⟩
def g2 (t : BitVec 4) (sub : BitVec 6 := 0) (sat : Bool := false) : GF := ⟨6, 0, 2, 0xFF, 0, false, sat, t, 0, sub⟩
def g3 (t : BitVec 4) (sat : Bool := false) : GF := ⟨6, 0, 2, 4, 0, false, sat, t, 0, 0⟩

/-- R174, R176, R177: wraps, saturation and the corners of `abs`. -/
theorem test_integer_32 : results [
    (.mov c0 (g1 6), [5, 0], 5), (.movImm c0 ⟨6, 0xFF, 0x89ABCDEF, 0⟩, [], 0x89ABCDEF), (.movImm c0 ⟨6, 0xFF, 0x40200000, 2⟩, [], 0x40200000),
    (.sel c0 (g2 6), [5, 0, 7, 0], 7), (.sel c0 (g2 6 8), [5, 0, 7, 0], 5),
    (.add c0 (g2 2), [0x7FFFFFFF, 0, 1, 0], 0x80000000), (.add c0 (g2 2 0 true), [0x7FFFFFFF, 0, 1, 0], 0x7FFFFFFF),
    (.sub c0 (g2 3), [1, 0, 2, 0], 0xFFFFFFFF), (.sub c0 (g2 3 0 true), [1, 0, 2, 0], 0),
    (.mul c0 (g2 2), [0x10000, 0, 0x10001, 0], 0x10000), (.mul c0 (g2 2 0 true), [0x10000, 0, 0xFFFF0000, 0], 0x80000000),
    (.mulhi c0 (g2 2), [0xFFFFFFFF, 0, 0xFFFFFFFF, 0], 0), (.mulhi c0 (g2 3), [0xFFFFFFFF, 0, 0xFFFFFFFF, 0], 0xFFFFFFFE),
    (.mad c0 (g3 2), [3, 0, 5, 0, 7], 22), (.mad c0 (g3 3 true), [0xFFFFFFFF, 0, 2, 0, 7], 0xFFFFFFFF),
    (.min c0 (g2 2), [0xFFFFFFFF, 0, 1, 0], 0xFFFFFFFF), (.min c0 (g2 3), [0xFFFFFFFF, 0, 1, 0], 1),
    (.max c0 (g2 2), [0xFFFFFFFF, 0, 1, 0], 1), (.max c0 (g2 3), [0xFFFFFFFF, 0, 1, 0], 0xFFFFFFFF),
    (.abs c0 (g1 2), [0x80000000], 0x80000000), (.abs c0 (g1 2 0 true), [0x80000000], 0x7FFFFFFF),
    (.neg c0 (g1 2), [5], 0xFFFFFFFB), (.neg c0 (g1 3 0 true), [5], 0),
    (.addImm c0 ⟨6, 0, 0xFFFFFFFF, 0⟩, [5], 4), (.mulImm c0 ⟨6, 0, 0xFFFFFFFD, 0⟩, [5], 0xFFFFFFF1)] 6 1 = true := by decide

/-- R174, R176, R177 at 64 bits, and `lea` (R178). -/
theorem test_integer_64 : results [
    (.mov c0 (g1 7), [5, 6], 0x600000005), (.movImm c0 ⟨6, 0xFF, 0x89ABCDEF, 1⟩, [], 0xFFFFFFFF89ABCDEF),
    (.movImm c0 ⟨6, 0xFF, 0x3F800000, 3⟩, [], 0x3FF0000000000000),
    (.add c0 (g2 5), [0xFFFFFFFF, 0xFFFFFFFF, 2, 0], 1), (.mulhi c0 (g2 5), [0, 1, 0, 3], 3),
    (.addImm c0 ⟨6, 0, 0xFFFFFFF8, 1⟩, [0, 1], 0xFFFFFFF8), (.mulImm c0 ⟨6, 0, 0xFFFFFFFF, 1⟩, [1, 0], 0xFFFFFFFFFFFFFFFF),
    (.lea c0 ⟨6, 0, 2, 0xFF, 0, false, false, 7, 2, 4⟩, [0x100, 0, 0xFFFFFFFF], 0xF0),
    (.lea c0 ⟨6, 0, 2, 0xFF, 0, false, false, 7, 3, 1⟩, [0x100, 0, 0xFFFFFFFF], 0x2000000FE)] 6 2 = true := by decide

/-- R177: division by zero, and of the most negative number. -/
theorem test_division : results [
    (.div (ct 1) (g2 2), [7, 0, 0, 0], 0xFFFFFFFF), (.div (ct 1) (g2 2 0 true), [0x80000000, 0, 0xFFFFFFFF, 0], 0x7FFFFFFF),
    (.rem (ct 1) (g2 2), [0xFFFFFFF9, 0, 2, 0], 0xFFFFFFFF), (.rem (ct 1) (g2 3), [7, 0, 0, 0], 7)] 6 1 = true := by decide

/-- R179, R180: shifts of the full width and more, counts of zero, fields that run past the top. -/
theorem test_logic_and_shifts : results [
    (.and c0 (g2 6), [0xF0F0, 0, 0xFF00, 0], 0xF000), (.or c0 (g2 6), [0xF0F0, 0, 0xFF00, 0], 0xFFF0),
    (.xor c0 (g2 6), [0xF0F0, 0, 0xFF00, 0], 0x0FF0), (.not c0 (g1 6), [0xF0F0], 0xFFFF0F0F),
    (.shl c0 (g2 6), [1, 0, 32], 0), (.shl c0 (g2 6), [3, 0, 31], 0x80000000), (.shr c0 (g2 6), [0x80000000, 0, 33], 0),
    (.sra c0 (g2 6), [0x80000000, 0, 40], 0xFFFFFFFF), (.sra c0 (g2 6), [0x80000000, 0, 4], 0xF8000000), (.rot c0 (g2 6), [0x80000001, 0, 33], 3),
    (.andImm c0 ⟨6, 0, 0xFF00, 0⟩, [0xF0F0], 0xF000), (.orImm c0 ⟨6, 0, 0xFF00, 0⟩, [0xF0F0], 0xFFF0),
    (.xorImm c0 ⟨6, 0, 0xFF00, 0⟩, [0xF0F0], 0x0FF0), (.shlImm c0 ⟨6, 0, 4, 0⟩, [0xF000000F], 0xF0),
    (.shrImm c0 ⟨6, 0, 4, 0⟩, [0xF000000F], 0x0F000000), (.sraImm c0 ⟨6, 0, 4, 0⟩, [0xF000000F], 0xFF000000),
    (.popc c0 (g1 7), [0xFFFFFFFF, 0xFFFFFFFF], 64), (.clz c0 (g1 6), [0], 32), (.clz c0 (g1 7), [1, 0], 63),
    (.ctz c0 (g1 7), [0, 0x100], 40), (.ctz c0 (g1 6), [0], 32), (.brev c0 (g1 6), [1], 0x80000000),
    (.bfe c0 (g2 2), [0xF0, 0, 0x404], 0xFFFFFFFF), (.bfe c0 (g2 3), [0xF0000000, 0, 0x81C], 0xF),
    (.bfi c0 (g3 6), [0x5, 0, 0xFFFFFFFF, 0, 0x404], 0xFFFFFF5F), (.bfi c0 (g3 6), [0x1, 0, 0, 0, 0x21F], 0x80000000)] 6 1 = true := by decide

/-- R159, R179 at 64 bits: the immediate is sign-extended. -/
theorem test_logic_64 : results [
    (.andImm c0 ⟨6, 0, 0xFFFFFF00, 1⟩, [0xFFFF, 5], 0x50000FF00), (.shlImm c0 ⟨6, 0, 36, 1⟩, [1, 0], 0x1000000000),
    (.rot c0 (g2 7), [0, 0x80000000, 1], 1), (.brev c0 (g1 7), [1, 0], 0x8000000000000000)] 6 2 = true := by decide

/-- Each instruction gives the predicates of lane 0. -/
def predResults (cs : List (Instr × List Nat × Nat)) : Bool :=
  cs.all fun c => issuesB c.1 (rig [0, 31] c.2.1) (rigWave [0, 31] c.2.1) && predsOf (after c.1 (rig [0, 31] c.2.1)) 0 == c.2.2

/-- R160, R181, R182, R183, R190: both predicates, the combination, the truth table of the example of R182. -/
theorem test_predicates : predResults [
    (.cmp c0 ⟨1, 4, 0, 0, 2, 0xFF, 0, false, 2, 2, 0⟩, [0xFFFFFFFF, 0, 1, 0], 2), (.cmp c0 ⟨1, 4, 0, 0, 2, 0xFF, 0, false, 3, 2, 0⟩, [0xFFFFFFFF, 0, 1, 0], 16),
    (.cmp c0 ⟨1, 7, 1, 0, 2, 0xFF, 3, false, 2, 0, 0⟩, [5, 0, 5, 0], 0), (.cmp c0 ⟨1, 7, 3, 0, 2, 0xFF, 3, true, 5, 0, 0⟩, [5, 1, 5, 2], 2),
    (.plop c0 ⟨1, 7, 0, 10, 11, 7, 0, false, 0x8, 0, 0⟩, [], 2), (.plop c0 ⟨1, 7, 0, 10, 11, 7, 0, false, 0x2, 0, 0⟩, [], 0),
    (.pmov c0 ⟨0xFF, 0, 2, 0xFF, 0, false, false, 0, 0, 0⟩, [0x7F, 0, 0x55], 0x55), (.pmov c0 ⟨0xFF, 0, 0xFF, 0xFF, 0, false, false, 0, 0, 0⟩, [0x7F], 0x7F),
    (.vote c0 ⟨1, 4, 0, 8, 0xFF, 0xFF, 0, false, 0, 0, 0⟩, [], 2), (.vote c0 ⟨1, 4, 0, 0, 0xFF, 0xFF, 0, false, 0, 0, 1⟩, [], 16),
    (.ktest c0 ⟨1, 4, 0, 0xE0, 0xE1, 0xFF, 0, false, 0, 2, 0⟩, [], 2), (.ktest c0 ⟨1, 4, 0, 0xE0, 0xFF, 0xFF, 0, false, 0, 5, 0⟩, [], 2),
    (.classify c0 ⟨1, 7, 0, 0, 0xFF, 0xFF, 0, false, 10, 0, 1⟩, [0x7FC00000], 0)] = true := by decide

/-- R185, R187, R188, R189: lane 31 holds the same registers; scans in lane 0. -/
theorem test_lanes_and_masks : results [
    (.shfl c0 (g2 6), [5, 0, 31], 5), (.shfl c0 (g2 6 1), [5, 0, 1], 5), (.shflImm c0 ⟨6, 0, 0x1F, 0⟩, [5], 5), (.bcast c0 (g1 6 1), [9], 9),
    (.ballot c0 ⟨6, 8, 0xFF, 0xFF, 0, false, false, 0, 0, 0⟩, [], 0x80000001), (.ballot c0 ⟨6, 0, 0xFF, 0xFF, 0, false, false, 0, 0, 0⟩, [], 0),
    (.wred c0 (g1 2), [0x7FFFFFFF], 0xFFFFFFFE), (.wred c0 (g1 2 1), [0x80000000], 0x80000000), (.wscan c0 (g1 3 1), [7], 7), (.wscan c0 (g1 3 9), [7], 0xFFFFFFFF),
    (.kpop c0 ⟨6, 0xE0, 0xFF, 0xFF, 0, false, false, 0, 0, 0⟩, [], 4), (.kfirst c0 ⟨6, 0xE0, 0xFF, 0xFF, 0, false, false, 0, 0, 1⟩, [], 5),
    (.kfirst c0 ⟨6, 0xE2, 0xFF, 0xFF, 0, false, false, 0, 0, 0⟩, [], 32)] 6 1 = true := by decide

theorem test_mask_writes : results [
    (.kmov c0 ⟨0xE3, 0, 0xFF, 0xFF, 0, false, false, 0, 0, 0⟩, [0x12], 0x12), (.kmovImm c0 ⟨0xE3, 0xFF, 0x89ABCDEF, 0⟩, [], 0x89ABCDEF),
    (.kand c0 ⟨0xE3, 0xE0, 0xE1, 0xFF, 0, false, false, 0, 0, 0⟩, [], 1), (.kor c0 ⟨0xE3, 0xE0, 0xE1, 0xFF, 0, false, false, 0, 0, 0⟩, [], 0x2B),
    (.kxor c0 ⟨0xE3, 0xE0, 0xE1, 0xFF, 0, false, false, 0, 0, 0⟩, [], 0x2A), (.knot c0 ⟨0xE3, 0xE1, 0xFF, 0xFF, 0, false, false, 0, 0, 0⟩, [], 0xFFFFFFFE),
    (.kact c0 ⟨0xE3, 0xFF, 0xFF, 0xFF, 0, false, false, 0, 0, 0⟩, [], 0x80000001)] 0xE3 1 = true := by decide

/-- Every encoded instruction of the word lists of fixed latency issues in the rig: what each statement about one asks. -/
def issuable (is : List Instr) (xs : List Nat) : Bool := is.all fun i => issuesB i (rig [0, 31] xs) (rigWave [0, 31] xs)

/-- R199 to R210 at f32 and f64: exact results, and the signs, NaNs and zeros of R84 and R201. -/
theorem test_float : results [
    (.add c0 (g2 10), [0x3F800000, 0, 0x40000000], 0x40400000), (.add c0 ⟨6, 0, 2, 0xFF, 3, false, false, 10, 0, 0⟩, [0x3F800000, 0, 0xBF800000], 0x80000000),
    (.sub c0 (g2 10), [0x3F800000, 0, 0x3F800000], 0), (.mul c0 (g2 10), [0x40400000, 0, 0xC0000000], 0xC0C00000),
    (.fma c0 (g3 10), [0x3F800001, 0, 0x3F800001, 0, 0xBF800002], 0x28800000), (.fma c0 (g3 10), [0x7F800000, 0, 0, 0, 0x3F800000], 0x7FC00000),
    (.min c0 (g2 10), [0x7FC00001, 0, 0x3F800000], 0x3F800000), (.max c0 (g2 10), [0x80000000, 0, 0], 0),
    (.abs c0 (g1 10), [0xFFC00123], 0x7FC00123), (.neg c0 (g1 10), [0], 0x80000000),
    (.cpsgn c0 (g2 10 0), [0x3F800000, 0, 0x80000000], 0xBF800000), (.cpsgn c0 (g2 10 2), [0xBF800000, 0, 0x80000000], 0x3F800000),
    (.scale c0 (g2 10), [0x3F800000, 0, 3], 0x41000000), (.frnd c0 (g1 10), [0x40200000], 0x40000000),
    (.cvt c0 ⟨6, 0, 0xFF, 0xFF, 1, false, false, 2, 10, 0⟩, [0xC0200000], 0xFFFFFFFE),
    (.cvt c0 ⟨6, 0, 0xFF, 0xFF, 0, false, false, 10, 2, 0⟩, [0xFFFFFFFD], 0xC0400000),
    (.dot2 c0 ⟨6, 0, 2, 4, 0, false, false, 10, 14, 0⟩, [0x40003C00, 0, 0x44004200, 0, 0x3F000000], 0x41380000),
    (.addImm c0 ⟨6, 0, 0x3F800000, 2⟩, [0x3F800000], 0x40000000), (.mulImm c0 ⟨6, 0, 0x40000000, 2⟩, [0x40400000], 0x40C00000)] 6 1 = true := by decide

theorem test_float_64 : results [
    (.add c0 (g2 11), [0, 0x3FF00000, 0, 0x40000000], 0x4008000000000000), (.cvt c0 ⟨6, 0, 0xFF, 0xFF, 0, false, false, 11, 10, 0⟩, [0x3FC00000], 0x3FF8000000000000),
    (.addImm c0 ⟨6, 0, 0x3F800000, 3⟩, [0, 0x3FF00000], 0x4000000000000000)] 6 2 = true := by decide

/-- R203: exact values of the variable-latency instructions. -/
theorem test_approximations : results [
    (.rcp (ct 1) (g1 10), [0x40000000], 0x3F000000), (.rsq (ct 1) (g1 10), [0x40800000], 0x3F000000), (.sqrt (ct 1) (g1 10), [0x40800000], 0x40000000),
    (.ex2 (ct 1) (g1 10), [0x40400000], 0x41000000), (.lg2 (ct 1) (g1 10), [0x41000000], 0x40400000), (.sin (ct 1) (g1 10), [0x80000000], 0x80000000),
    (.cos (ct 1) (g1 10), [0], 0x3F800000), (.tanh (ct 1) (g1 10), [0x7F800000], 0x3F800000), (.div (ct 1) (g2 10), [0x40C00000, 0, 0x40000000], 0x40400000)] 6 1 = true := by
  decide

/-! ## Witnesses: the statements about instructions of fixed latency, and what each asks of types, fields and operands -/

theorem test_meets_MovesAndSelect : issuable [.mov c0 (g1 7), .movImm c0 ⟨6, 0xFF, 1, 0⟩, .movImm c0 ⟨6, 0xFF, 1, 2⟩, .movImm c0 ⟨6, 0xFF, 1, 1⟩,
    .movImm c0 ⟨6, 0xFF, 1, 3⟩, .sel c0 (g2 7 14)] [] = true := by decide

theorem test_meets_IntegerArithmetic : issuable [.add c0 (g2 2), .sub c0 (g2 3), .mul c0 (g2 4), .mad c0 (g3 5), .mulhi c0 (g2 4), .min c0 (g2 2),
    .max c0 (g2 5), .abs c0 (g1 2), .neg c0 (g1 4)] [] = true ∧ (∀ t ∈ [2, 3, 4, 5], tyInt (tyOf (t : BitVec 4)) = true) := by decide

theorem test_meets_IntegerArithmetic_saturation : issuable [.add c0 (g2 2 0 true), .sub c0 (g2 3 0 true), .mul c0 (g2 4 0 true), .mad c0 (g3 5 true),
    .abs c0 (g1 2 0 true), .neg c0 (g1 4 0 true)] [] = true := by decide

theorem test_meets_IntegerArithmetic_immediate : issuable [.addImm c0 ⟨6, 0, 1, 0⟩, .mulImm c0 ⟨6, 0, 1, 0⟩, .addImm c0 ⟨6, 0, 1, 1⟩, .mulImm c0 ⟨6, 0, 1, 1⟩] [] =
    true := by decide

theorem test_meets_IntegerArithmetic_division : issuable [.div (ct 1) (g2 2), .div (ct 6) (g2 5 0 true), .rem c0 (g2 4)] [] = true := by decide

theorem test_meets_LogicAndShifts : issuable [.and c0 (g2 6), .or c0 (g2 7), .xor c0 (g2 6), .not c0 (g1 7), .shl c0 (g2 6), .shr c0 (g2 7), .sra c0 (g2 6),
    .rot c0 (g2 7), .andImm c0 ⟨6, 0, 1, 0⟩, .orImm c0 ⟨6, 0, 1, 1⟩, .xorImm c0 ⟨6, 0, 1, 0⟩, .shlImm c0 ⟨6, 0, 31, 0⟩, .shrImm c0 ⟨6, 0, 63, 1⟩,
    .sraImm c0 ⟨6, 0, 31, 0⟩] [] = true := by decide

theorem test_meets_BitFields_counts : issuable [.popc c0 (g1 7), .clz c0 (g1 6), .ctz c0 (g1 7), .brev c0 (g1 6), .bfe c0 (g2 4), .bfi c0 (g3 7),
    .lea c0 ⟨6, 0, 2, 0xFF, 0, false, false, 7, 2, 4⟩] [] = true := by decide

theorem test_meets_ComparesAndPredicates : issuable [.cmp c0 ⟨1, 4, 0, 0, 2, 0xFF, 0, false, 5, 5, 0⟩, .plop c0 ⟨6, 7, 3, 15, 0, 7, 6, true, 15, 15, 0⟩,
    .pmov c0 ⟨0xFF, 0, 2, 0xFF, 0, false, false, 0, 0, 0⟩] [] = true ∧ tyFp (tyOf 5) = false := by decide

theorem test_meets_LaneExchange : issuable [.shfl c0 (g2 6 3), .shflImm c0 ⟨6, 0, 0x3F, 3⟩, .bcast c0 (g1 7 1), .bcast c0 ⟨6, 0, 0xC0, 0xFF, 0, false, false, 6, 0, 0⟩,
    .vote c0 ⟨1, 4, 0, 15, 0xFF, 0xFF, 0, false, 0, 0, 2⟩, .ballot c0 ⟨6, 15, 0xFF, 0xFF, 0, false, false, 0, 0, 0⟩, .wred c0 (g1 4 2), .wscan c0 (g1 3 9)] [] =
    true := by decide

theorem test_meets_Masks : issuable [.kmov c0 ⟨0xEB, 0xE0, 0xFF, 0xFF, 0, false, false, 0, 0, 0⟩, .kand c0 ⟨0xE3, 0xE0, 0xE1, 0xFF, 0, false, false, 0, 0, 0⟩,
    .kor c0 ⟨0xE3, 0xE0, 0xC1, 0xFF, 0, false, false, 0, 0, 0⟩, .kxor c0 ⟨0xE3, 0xE0, 0xE1, 0xFF, 0, false, false, 0, 0, 0⟩,
    .knot c0 ⟨0xE3, 0xE0, 0xFF, 0xFF, 0, false, false, 0, 0, 0⟩, .kpop c0 ⟨6, 0xE0, 0xFF, 0xFF, 0, false, false, 0, 0, 0⟩,
    .kfirst c0 ⟨6, 0xE0, 0xFF, 0xFF, 0, false, false, 0, 0, 1⟩, .kmovImm c0 ⟨0xE0, 0xFF, 1, 0⟩, .kact c0 ⟨0xE3, 0xFF, 0xFF, 0xFF, 0, false, false, 0, 0, 2⟩,
    .ktest c0 ⟨1, 4, 0, 0xE0, 0xFF, 0xFF, 0, false, 0, 5, 0⟩] [] = true := by decide

theorem test_meets_FloatConversions_signs : issuable [.neg c0 (g1 8), .abs c0 (g1 15), .cpsgn c0 (g2 11 2)] [] = true ∧
    (∀ t ∈ [8, 9, 10, 11, 14, 15], tyFp6 (tyOf (t : BitVec 4)) = true) := by decide

theorem test_meets_FloatArithmetic : issuable [.add c0 (g2 9), .sub c0 (g2 10), .mul c0 (g2 11), .fma c0 (g3 8)] [] = true ∧
    scalarFp (tyOf 10) ∧ isNaNBits .f32 0x7F800001 ∧ isNaNBits .f64 0xFFF0000000000001 ∧ isNaNBits .f16 0x7C01 ∧ isNaNBits .bf16 0xFF81 := by
  refine ⟨by decide, Or.inr (Or.inl rfl), ?_⟩; unfold isNaNBits topExp; decide

/-- The operands of lane 0 in the rig, as R84 asks: a number and its negation, and two zeros of one sign. -/
theorem test_meets_FloatArithmetic_zeros : issuable [.add c0 (g2 10), .add c0 (g2 11)] [] = true ∧
    ¬ topExp .f32 0x7F7FFFFF ∧ (gW c0 (g2 10) (rig [0] [0x7F7FFFFF, 0, 0xFF7FFFFF]) 0).2.1 =
      (gW c0 (g2 10) (rig [0] [0x7F7FFFFF, 0, 0xFF7FFFFF]) 0).1 ^^^ BitVec.ofNat (32 * gN (g2 10)) (signBits .f32) ∧
    (gW c0 (g2 10) (rig [0] [0x80000000, 0, 0x80000000]) 0).1 = (gW c0 (g2 10) (rig [0] [0x80000000, 0, 0x80000000]) 0).2.1 ∧
    (gW c0 (g2 10) (rig [0] [0x80000000, 0, 0x80000000]) 0).1 = BitVec.ofNat (32 * gN (g2 10)) (signBits .f32) := by
  refine ⟨by decide, by unfold topExp; decide, by decide, by decide, by decide⟩

theorem test_meets_FloatConversions_minmax : issuable [.min c0 (g2 10), .max c0 (g2 11), .scale c0 (g2 10), .frnd c0 (g1 11),
    .cvt c0 ⟨6, 0, 0xFF, 0xFF, 0, false, false, 11, 10, 0⟩, .dot2 c0 ⟨6, 0, 2, 4, 0, false, false, 10, 15, 0⟩,
    .dqn4 c0 ⟨6, 0, 2, 4, 0, false, false, 10, 0, 7⟩, .addImm c0 ⟨6, 0, 1, 2⟩, .mulImm c0 ⟨6, 0, 1, 3⟩,
    .cmp c0 ⟨1, 4, 0, 0, 2, 0xFF, 0, false, 10, 7, 0⟩, .classify c0 ⟨1, 7, 0, 0, 0xFF, 0xFF, 0, false, 11, 15, 63⟩] [] = true ∧
    (∀ l ∈ (viewOf c0 (rig [0] [])).act, superOk (opdW c0 (rig [0] []) l 4 1).toNat = true) ∧
    (∀ l ∈ (viewOf c0 (rig [0] [0, 0, 0, 0, 0x7F7FFFFF])).act, superOk (opdW c0 (rig [0] [0, 0, 0, 0, 0x7F7FFFFF]) l 4 1).toNat = true) ∧
    tyFp (tyOf 10) = true := by decide

theorem test_meets_Approximations :
    (∀ mk ∈ [Instr.rcp, .rsq, .sqrt, .ex2, .lg2, .sin, .cos, .tanh], issuable [mk (ct 1) (g1 10)] [] = true) ∧ issuable [.div (ct 1) (g2 10)] [] = true ∧
    (∀ e ∈ specials, issuable [e.1 (ct 1) (g1 10)] [e.2.1.toNat] = true ∧ (viewOf (ct 1) (rig [0, 31] [e.2.1.toNat])).act ≠ [] ∧
      ∀ l ∈ (viewOf (ct 1) (rig [0, 31] [e.2.1.toNat])).act, opdW (ct 1) (rig [0, 31] [e.2.1.toNat]) l 0 1 = e.2.1) := by decide

/-! ## Witnesses: control flow and fibres -/

/-- The rig with its wave changed. -/
def rigW (ls : List Nat) (xs : List Nat) (g : Wave → Wave) : State :=
  { rig ls xs with waves := [(wkey 0 0, g (rigWave ls xs))] }

/-- Instruction `i` issues in the rig with the wave changed by `g`. -/
def issuesIn (i : Instr) (ls xs : List Nat) (g : Wave → Wave := id) : Bool := issuesB i (rigW ls xs g) (g (rigWave ls xs))

/-- Every lane of `act` meets `p`, and there is one. -/
def allAct (s : State) (p : View → Nat → Bool) : Bool := !(viewOf c0 s).act.isEmpty && (viewOf c0 s).act.all (p (viewOf c0 s))

theorem test_meets_BranchesAndCalls_branches : issuesIn (.nop c0 ⟨0xFF, 0xFF, 0xFF, 0xFF, 0, false, false, 0, 0, 0⟩) [0, 31] [] = true ∧
    issuesIn (.bra c0 ⟨0xFF, 0xFF, 0xFF, 0x800000, 0⟩) [0, 31] [] = true ∧
    issuesIn (.jmp c0 ⟨0xFF, 0, 0xFF, 0xFF, 0, false, false, 0, 0, 0⟩) [0, 31] [0xFFFFFFF0, 0xFFFFFFFF] = true ∧
    allAct (rig [0, 31] [0xFFFFFFF0, 0xFFFFFFFF]) (fun v l => v.opd l 0 2 % 16 == 0) = true := by decide

/-- What `Calls` asks: an increment of 3 windows takes the base from 0 to 24 of 64, and one of 7 to 56. -/
def callsB (i : Instr) (s : State) (w : Wave) (inc : Nat) (target : View → Nat → Nat) : Bool :=
  waveAt s 0 0 == some w && i.wellFormed && w.id.allot ≤ 512 && (match shape i with
    | none => false
    | some sh => allAct s fun v l => v.win l + 8 * inc < w.id.allot && windowOk sh w.id.allot (v.win l) (v.win l + 8 * inc) &&
      target v l % 16 == 0)

theorem test_meets_BranchesAndCalls_calls :
    callsB (.call c0 ⟨2, 3, 0xFF, 3, 0⟩) (rig [0, 31] []) (rigWave [0, 31] []) 3 (fun _ _ => (targetOf ⟨2, 3, 0xFF, 3, 0⟩ (rig [0, 31] [])).toNat) = true ∧
    callsB (.callr c0 ⟨2, 0, 0xFF, 0xFF, 0, false, false, 0, 0, 7⟩) (rig [0, 31] [0x200]) (rigWave [0, 31] [0x200]) 7 (fun v l => v.opd l 0 2) = true ∧
    issuesIn (.ret c0 ⟨0xFF, 0, 0xFF, 0xFF, 0, false, false, 0, 0, 0⟩) [0, 31] [0x200] = true ∧
    allAct (rig [0, 31] [0x200]) (fun v l => 8 * 0 ≤ v.win l && v.opd l 0 2 % 16 == 0) = true ∧
    issuesIn (.ret c0 ⟨0xFF, 0, 0xFF, 0xFF, 0, false, false, 0, 0, 1⟩) [0] [] (fun w => { w with fibres := [(0, { rigFibre with win := 8 })] }) = true ∧
    allAct (rigW [0] [] fun w => { w with fibres := [(0, { rigFibre with win := 8 })] }) (fun v l => 8 * 1 ≤ v.win l && v.opd l 0 2 % 16 == 0) = true := by
  decide

theorem test_meets_Loops : issuesIn (.loop c0 ⟨6, 0xFF, 0xFF, 0xFFFFFF, 0⟩) [0, 31] [] = true ∧
    issuesIn (.loop c0 ⟨0xC0, 0xFF, 0xFF, 1, 0⟩) [0, 31] [] = true := by decide

/-- A lane has no empty slot: 32 fibres. -/
theorem test_meets_Forks : issuesIn (.fork (ct 1) ⟨6, 0, 0xFF, 1, 0⟩) [0, 31] [9] = true ∧
    allAct (rig [0, 31] [9]) (fun v l => v.opd l 0xFF 1 % 8 == 0 && v.opd l 0xFF 1 < 64 && !owesRelease (rig [0, 31] [9]) 0 0 l) = true ∧
    issuesIn (.fork (ct 1) ⟨6, 0, 2, 1, 0⟩) (List.range 32) [9, 0, 56] = true ∧
    allAct (rig (List.range 32) [9, 0, 56]) (fun v l => v.opd l 2 1 % 8 == 0 && v.opd l 2 1 < 64 &&
      !owesRelease (rig (List.range 32) [9, 0, 56]) 0 0 l) = true := by decide

theorem test_meets_FibresEndAndMeet_quits : issuesIn (.quit c0 ⟨0xFF, 0xFF, 0xFF, 0xFF, 0, false, false, 0, 0, 0⟩) [0, 31] [] = true ∧
    rising (rigWave [0, 31] []).fibres = true ∧ (viewOf c0 (rig [0, 31] [])).act ≠ [] ∧
    quitDue 100 { rigWave [0, 31] [] with fibres := [(0, { rigFibre with wait := .quit 100 }), (3, { rigFibre with wait := .quit 101 })] } = [0] := by
  decide

theorem test_meets_Leaves : issuesIn (.leave c0 ⟨0xFF, 0xE0, 0xFF, 0xFF, 0, false, false, 0, 0, 0⟩) [0, 31] [] = true ∧
    issuesIn (.leave c0 ⟨0xFF, 0xEB, 0xFF, 0xFF, 0, false, false, 0, 0, 0⟩) [0, 31] [] = true := by decide

theorem test_meets_FibresEndAndMeet_join : issuesIn (.join (ct 1) ⟨0xFF, 0xE0, 0xFF, 0xFF, 0, false, false, 0, 0, 0⟩) [0, 31] [] = true ∧
    issuesIn (.waitm (ct 1) ⟨0xFF, 0xEB, 0xFF, 0xFF, 0, false, false, 0, 0, 0⟩) [0, 31] [] = true ∧
    allAct (rig [0, 31] []) (fun v l => v.inTx l == false && owesRelease (rig [0, 31] []) 0 0 l == false) = true := by decide

/-- Mask 0 holds lanes 0, 1, 3 and 5: lane 0 waits at a JOIN of it alone, and beside a lane that does not. -/
def rigJoin (more : List (Nat × Fibre)) : Wave := { rigWave [] [] with
  fibres := (0, { rigFibre with wait := .join 0 }) :: more }
def rigWaitm (more : List (Nat × Fibre)) : Wave := { rigWave [] [] with
  fibres := (0, { rigFibre with wait := .waitm 3 }) :: more }

theorem test_meets_FibresEndAndMeet_releases :
    (∀ m ∈ List.range 32, (rget (rigJoin []).regs.k 0).getLsbD m = true → ((mget (rigJoin []).fibres m).all fun g =>
      g.wait == .join 0 && g.pc == rigFibre.pc) = true) ∧ rising (rigJoin []).fibres = true ∧
    (∃ m g, m < 32 ∧ (rget (rigJoin [(1, rigFibre)]).regs.k 0).getLsbD m = true ∧ mget (rigJoin [(1, rigFibre)]).fibres m = some g ∧
      (g.wait ≠ .join 0 ∨ g.pc ≠ rigFibre.pc)) ∧ rising (rigJoin [(1, rigFibre)]).fibres = true ∧
    rising (rigWaitm [(1, { rigFibre with wait := .waitm 7 })]).fibres = true ∧
    (∀ m ∈ List.range 32, (3 : W32).getLsbD m = true → ((mget (rigWaitm [(1, { rigFibre with wait := .waitm 7 })]).fibres m).all fun g =>
      match g.wait with | .waitm _ => true | _ => false) = true) ∧
    (∃ m g, m < 32 ∧ (3 : W32).getLsbD m = true ∧ mget (rigWaitm [(1, rigFibre)]).fibres m = some g ∧ ∀ z, g.wait ≠ .waitm z) := by
  refine ⟨by decide, by decide, ⟨1, rigFibre, by decide, by decide, by decide, .inl (by decide)⟩, by decide, by decide, by decide,
    ⟨1, rigFibre, by decide, by decide, by decide, ?_⟩⟩
  simp [rigFibre, fibreInit]

/-- Two groups, at two addresses: the older one is that of lane 31. -/
def selWave : Wave := { rigWave [0] [] with
  fibres := [(0, rigFibre), (31, { rigFibre with pc := 0x111, age := 255 })]
  sched := { waveInit.sched with nextIssue := 100, nextClause := 100 } }

theorem test_meets_WaveSelection :
    let s : State := { rig [0] [] with waves := [(wkey 0 0, selWave)] }
    waveAt s 0 0 = some selWave ∧ rising selWave.fibres = true ∧ (waveDistrict s selWave).isSome = true ∧ runLanes s.clock selWave = [] ∧
    owes rigDistrict selWave = 0 ∧ (waveDistrict s selWave).map (fun d => (groupsReady s d selWave).length) = some 2 := by decide

theorem test_selects_the_oldest :
    let s : State := { rig [0] [] with waves := [(wkey 0 0, selWave)] }
    ((waveAt (after (.waveSelection 0 0) s) 0 0).bind fun w => w.sched.run.map fun r => (r.lanes, r.clause, r.slot)) = some (0x80000000, 0x110, 1) := by decide

def dueMask : Pend := ⟨.k 2, 0xFFFFFFFE, 0, 100⟩

def rigDue : State := { rig [0] [] with flights := [(7, { landed with tag := 6, wake := 1 })] }

theorem test_meets_Completions :
    let s := rigDue
    (mget s.flights 7).map (fun fl => (fl.waits, decide (fl.due ≤ s.clock), decide (fl.core < 1024), fl.mask.isNone, (waveAt s fl.core fl.slot).isSome)) =
      some (0, true, true, true, true) ∧
    let w : Wave := { rigWave [0] [] with sched := { waveInit.sched with pend := [dueMask, { dueMask with land := 101 }] } }
    (w.sched.pend.filter fun q => q.land ≤ s.clock && isMaskTarget q.target) = [dueMask] ∧ quitDue s.clock w = [] := by decide

/-! ### One step of them, by the rules -/

/-- Lane `l` of the wave of slot 0: PC, window base, what it waits on. -/
def laneStands (t : State) (l : Nat) : Option (W64 × Nat × Wait) :=
  (waveAt t 0 0).bind fun w => (mget w.fibres l).map fun f => (f.pc, f.win, f.wait)

/-- R162, R192 to R194: targets are counted in 16 bytes from the clause; the link follows the clause. -/
theorem test_control_flow :
    laneStands (after (.bra c0 ⟨0xFF, 0xFF, 0xFF, 0xFFFFFF, 0⟩) (rig [0, 31] [])) 31 = some (0xF0, 0, .ready) ∧
    laneStands (after (.jmp c0 ⟨0xFF, 0, 0xFF, 0xFF, 0, false, false, 0, 0, 0⟩) (rig [0, 31] [0x340])) 0 = some (0x340, 0, .ready) ∧
    laneStands (after (.call c0 ⟨2, 3, 0xFF, 3, 0⟩) (rig [0, 31] [])) 0 = some (0x130, 24, .ready) ∧
    fieldOf (after (.call c0 ⟨2, 3, 0xFF, 3, 0⟩) (rig [0, 31] [])) 0 26 2 = 0x110 ∧
    laneStands (after (.callr c0 ⟨2, 0, 0xFF, 0xFF, 0, false, false, 0, 0, 7⟩) (rig [0, 31] [0x200])) 31 = some (0x200, 56, .ready) ∧
    laneStands (after (.ret c0 ⟨0xFF, 0, 0xFF, 0xFF, 0, false, false, 0, 0, 1⟩) (rigW [0] [] fun w => { w with fibres := [(0, { rigFibre with win := 8 })] })) 0 =
      some (0, 0, .ready) ∧
    laneStands (after (.loop c0 ⟨0, 0xFF, 0xFF, 1, 0⟩) (rig [0, 31] [1])) 0 = some (0x100, 0, .ready) ∧
    laneStands (after (.loop c0 ⟨0, 0xFF, 0xFF, 1, 0⟩) (rig [0, 31] [0])) 0 = some (0x110, 0, .ready) ∧
    fieldOf (after (.loop c0 ⟨0, 0xFF, 0xFF, 1, 0⟩) (rig [0, 31] [0])) 0 0 1 = 0xFFFFFFFF := by decide

/-- R15, R16, R20 to R23. -/
theorem test_fibres :
    laneStands (after (.fork (ct 1) ⟨6, 0, 2, 1, 0⟩) (rig [0, 31] [9, 0, 56])) 1 = some (0x110, 56, .fresh) ∧
    laneStands (after (.fork (ct 1) ⟨6, 0, 2, 1, 0⟩) (rig [0, 31] [9, 0, 56])) 3 = none ∧
    fieldOf (after (.fork (ct 1) ⟨6, 0, 2, 1, 0⟩) (rig [0, 31] [9, 0, 56])) 31 6 1 = 2 ∧
    laneStands (after (.quit c0 ⟨0xFF, 0xFF, 0xFF, 0xFF, 0, false, false, 0, 0, 0⟩) (rig [0, 31] [])) 0 = some (0x100, 0, .quit 102) ∧
    fieldOf (after (.quit c0 ⟨0xFF, 0xFF, 0xFF, 0xFF, 0, false, false, 0, 0, 0⟩) (rig [0, 31] [])) 0 0xE0 1 = 0x2A ∧
    fieldOf (after (.leave c0 ⟨0xFF, 0xE1, 0xFF, 0xFF, 0, false, false, 0, 0, 0⟩) (rig [0, 31] [])) 0 0xE1 1 = 0 ∧
    laneStands (after (.join (ct 1) ⟨0xFF, 0xE0, 0xFF, 0xFF, 0, false, false, 0, 0, 0⟩) (rig [0, 31] [])) 0 = some (0x100, 0, .join 0) ∧
    laneStands (after (.join (ct 1) ⟨0xFF, 0xE0, 0xFF, 0xFF, 0, false, false, 0, 0, 0⟩) (rig [0, 31] [])) 31 = some (0x100, 0, .ready) ∧
    laneStands (after (.waitm (ct 1) ⟨0xFF, 0xE0, 0xFF, 0xFF, 0, false, false, 0, 0, 0⟩) (rig [0, 31] [])) 31 = some (0x100, 0, .waitm 0x2B) := by decide

/-! ## Witnesses: memory -/

/-- `Served` as a test: the access's places. -/
def servedB (u : State) (v : View) (d : District) (l : Nat) (reach : Reach) (need : Nat) (write : Bool) (va n : Nat) (ps : List Nat) : Bool :=
  (laneAt v.wave l).tx.depth == 0 && (laneAt v.wave l).tx.serial == false && access u d reach need va n == .places ps && markAccess u d write va n == u && anyReset u d va n == false &&
    engineOwns u ps == false && u.cores.all (·.2.log.isEmpty) && ps.all (!sharedPlace u ·)

theorem served_of {u v d l reach need write va n ps} (h : servedB u v d l reach need write va n ps = true) :
    Served u v d l reach need write va n ps := by
  simp only [servedB, Bool.and_eq_true, beq_iff_eq, List.all_eq_true, List.isEmpty_iff, Bool.not_eq_true'] at h
  obtain ⟨⟨⟨⟨⟨⟨⟨h1, h0⟩, h2⟩, h3⟩, h4⟩, h5⟩, h6⟩, h7⟩ := h
  refine ⟨h1, h0, h2, h3, h4, h5, fun k => ?_, h7⟩
  simp only [logHolds, List.any_eq_false]
  intro c hc; simp [h6 c hc]

/-- The rig with bytes in memory, at 0x200, and two lanes whose base registers hold 0x200. -/
def rigMem (ls : List Nat) (xs : List Nat) (bs : Memory) : State :=
  { rig ls xs with mem := { State.reset.mem with bytes := bs } }

/-- The places of `n` bytes of the rig's range from `a`. -/
def linear (a n : Nat) : List Nat := (List.range n).map (0x10000000000 + a + ·)

/-- The last two bytes of the range, with a displacement of -1. -/
def ldForm : MF := ⟨6, 0, 0xFF, 0xFFFF, 1, 0, 0, 1⟩
def ldlAt (u : State) (isel n : Nat) (imm : BitVec 32) : Bool :=
  (match codeBytes u rigDistrict (u.cur.clause + imm.signExtend 64).toNat n with | .bytes bs => bs.length == n | _ => false) &&
    issuesB (.ldl (ct 1) ⟨8, 0xFF, imm, BitVec.ofNat 2 isel⟩) u (rigWave [0, 31] [])

theorem test_meets_Loads :
    let s := rig [0, 31] [0xFFFFF, 0]
    districtAt s (viewOf c0 s).crew.district = some rigDistrict ∧ allMonitors s = [] ∧
    issuesIn (.ld (ct 1) ldForm) [0, 31] [0xFFFFF, 0] = true ∧
    allAct s (fun v l => servedB s v rigDistrict l (.near (s.cur.core / 192)) permR false (globalAddr c0 ldForm s l) 2 (linear 0xFFFFE 2) &&
      !poisoned s (linear 0xFFFFE 2)) = true ∧
    issuesIn (.ld (ct 1) ⟨8, 0, 0xFF, 0, 4, 4, 1, 0⟩) [0, 31] [0xFFFF0, 0] = true ∧
    allAct (rig [0, 31] [0xFFFF0, 0]) (fun v l => servedB (rig [0, 31] [0xFFFF0, 0]) v rigDistrict l (.near 0) permR false
      (globalAddr c0 ⟨8, 0, 0xFF, 0, 4, 4, 1, 0⟩ (rig [0, 31] [0xFFFF0, 0]) l) 16 (linear 0xFFFF0 16)) = true ∧
    issuesIn (.lds (ct 1) ⟨8, 0, 0xFF, 0, 3, 0, 0, 0⟩) [0, 31] [4088] = true ∧
    allAct (rig [0, 31] [4088]) (fun v l => scratchAddr c0 ⟨8, 0, 0xFF, 0, 3, 0, 0, 0⟩ (rig [0, 31] [4088]) l + 8 ≤ v.crew.scratch &&
      !poisoned (rig [0, 31] [4088]) (scratchPlaces v.core v.crew.scratchBase 4088 8) &&
      (scratchPlaces v.core v.crew.scratchBase 4088 8).all (!sharedPlace (rig [0, 31] [4088]) ·)) = true ∧
    ldlAt (rig [0, 31] []) 0 4 0xFFFFFF00 = true ∧ ldlAt (rig [0, 31] []) 1 8 8 = true ∧ ldlAt (rig [0, 31] []) 2 16 16 = true ∧
    ldlAt (rig [0, 31] []) 3 2 2 = true := by decide

/-- Lanes 0 and 31 store the same four bytes; the last two lie at the end of the range. -/
def storesB (put : State → Nat → State) (s : State) (l k need n va : Nat) (ps : List Nat) : Bool :=
  servedB (laneState put (viewOf c0 s).act s k) (viewOf c0 s) rigDistrict l .home need true va n ps

theorem test_meets_Stores_global :
    let f : MF := ⟨0xFF, 0, 2, 0xFFFF, 1, 4, 2, 0⟩
    let s := rig [0, 31] [0xFFFFF, 0, 0x1234]
    let put := putStore rigDistrict 2 (globalAddr c0 f s) (fun l => (viewOf c0 s).opd l 2 1)
    let putm := putMulti rigDistrict 2 (globalAddr c0 f s) (fun l => (viewOf c0 s).opd l 2 1)
    districtAt s (viewOf c0 s).crew.district = some rigDistrict ∧ allMonitors s = [] ∧ Memory.wf s.mem.bytes = true ∧
    allAct s (fun _ l => !owesRelease s 0 0 l) = true ∧ issuesIn (.st (ct 1) f) [0, 31] [0xFFFFF, 0, 0x1234] = true ∧
    issuesIn (.stm (ct 1) { f with order := 0, scope := 0 }) [0, 31] [0xFFFFF, 0, 0x1234] = true ∧ (viewOf c0 s).act = [0, 31] ∧
    storesB put s 0 0 permW 2 0xFFFFE (linear 0xFFFFE 2) = true ∧ storesB put s 31 1 permW 2 0xFFFFE (linear 0xFFFFE 2) = true ∧
    storesB putm s 0 0 permW 2 0xFFFFE (linear 0xFFFFE 2) = true ∧ storesB putm s 31 1 permW 2 0xFFFFE (linear 0xFFFFE 2) = true := by
  decide

/-- The crew of the rig in a gang of eight with crews of cores 1 and 2. -/
def rigGang : State := { rig [0, 31] [4094, 0, 1] with
  crews := [(0, { rigCrew with gang := some 5, gangSize := 8 }), (16, { rigCrew with gang := some 5, gangSize := 8, rank := 1, scratchBase := 8192 }),
    (32, { rigCrew with gang := some 5, gangSize := 8, rank := 7 })] }

theorem test_meets_Stores_scratch :
    let f : MF := ⟨0xFF, 0, 2, 0, 1, 0, 0, 0⟩
    let g : MXF := ⟨0xFF, 0, 2, 0xC0, 0, 0, 1, 3, 2, 0⟩
    let s := rig [0, 31] [4094, 0, 1]
    allMonitors s = [] ∧ issuesIn (.sts (ct 1) f) [0, 31] [4094, 0, 1] = true ∧
    allAct s (fun v l => scratchAddr c0 f s l + 2 ≤ v.crew.scratch && !owesRelease s 0 0 l &&
      (scratchPlaces v.core v.crew.scratchBase (scratchAddr c0 f s l) 2).all (· < hostPlace 0)) = true ∧
    issuesB (.stp (ct 1) { f with sub := 1 }) rigGang (rigWave [0, 31] [4094, 0, 1]) = true ∧
    allAct rigGang (fun v l => !v.inTx l && scratchAddr c0 f rigGang l + 2 ≤ 4096 && !owesRelease rigGang 0 0 l &&
      (scratchPlaces 1 8192 (scratchAddr c0 f rigGang l) 2).all (· < hostPlace 0)) = true ∧
    issuesB (.stpScalarRank (ct 1) g) rigGang (rigWave [0, 31] [4094, 0, 1]) = true ∧
    allAct rigGang (fun v l => v.opd l 0 1 + 2 ≤ 4096 && v.opd l 0xC0 1 == 7 && (scratchPlaces 2 0 (v.opd l 0 1) 2).all (· < hostPlace 0)) = true ∧
    peerGrant rigGang (viewOf c0 rigGang) 0 0 0 4096 ∧ peerGrant rigGang (viewOf c0 rigGang) 1 1 8192 4096 ∧
    peerGrant rigGang (viewOf c0 rigGang) 7 2 0 4096 := by
  refine ⟨by decide, by decide, by decide, by decide, by decide, by decide, by decide, ⟨by decide, by decide, ?_⟩, ⟨by decide, by decide, ?_⟩,
    ⟨by decide, by decide, ?_⟩⟩
  · rw [if_pos (by decide)]; decide
  · exact ⟨16, _, by decide, rfl, by decide, by decide, by decide⟩
  · exact ⟨32, _, by decide, rfl, by decide, by decide, by decide⟩

/-- Tables of context 0 in partition 0 (R377, R378): intermediate addresses below 64 KiB lie in a page at 0x210000 with a leaf of low byte
`leaf`; no other page is mapped. -/
def tables (leaf : Byte) (more : Memory) : Memory :=
  [(2, 0x20), (8, 1), (0x200000, 1), (0x200001, 0x10), (0x200002, 0x20), (0x201000, 1), (0x201001, 0x20), (0x201002, 0x20),
    (0x202000, leaf), (0x202002, 0x21)] ++ more

/-- The rig with its range over those tables. -/
def rigPaged (ls xs : List Nat) (leaf : Byte) (more : Memory) : State := { rig ls xs with
  districts := [(0, { rigDistrict with ranges := [⟨0, 0x100000, 0, 0x1FFF, 0x1F, true⟩] })]
  mem := { State.reset.mem with bytes := tables leaf more } }

def pagedDistrict : District := { rigDistrict with ranges := [⟨0, 0x100000, 0, 0x1FFF, 0x1F, true⟩] }

theorem test_meets_FencesAndReplicas :
    let f : MF := ⟨0xFF, 0, 2, 0, 0, 0, 0, 0⟩
    let s := rigPaged [0] [0x80, 0, 128] 0x0B [(0x210081, 7)]
    issuesIn (.fence (ct 1) ⟨0xFF, 0xFF, 0xFF, 0, 0, 5, 3, 0⟩) [0, 31] [] = true ∧
    allAct (rig [0, 31] []) (fun _ l => !owesRelease (rig [0, 31] []) 0 0 l) = true ∧ allMonitors (rig [0, 31] []) = [] ∧
    issuesIn (.fence (ct 1) ⟨0xFF, 0xFF, 0xFF, 0, 0, 2, 2, 0⟩) [0, 31] [] = true ∧
    issuesB (.replsync (ct 1) f) s (rigWave [0] [0x80, 0, 128]) = true ∧ (viewOf c0 s).act = [0] ∧ (viewOf c0 s).inTx 0 = false ∧
    (viewOf c0 s).serial 0 = false ∧ engineOwns s (0x210080 :: replicaPlaces s pagedDistrict 0x80) = false ∧
    districtAt s (viewOf c0 s).crew.district = some pagedDistrict ∧ allMonitors s = [] ∧ Memory.wf s.mem.bytes = true ∧
    globalAddr c0 f s 0 = 0x80 ∧ (opdW c0 s 0 f.data 1).toNat = 128 ∧
    access s pagedDistrict .home (permR + permW) 0x80 1 = .places [0x210080] ∧ access s pagedDistrict .home 0 0x80 1 = .places [0x210080] ∧
    (replicaPlaces s pagedDistrict 0x80).length = 4 ∧ (∀ q ∈ replicaPlaces s pagedDistrict 0x80, q % 128 = 0) := by decide

/-- Lanes 0 and 31 act on the same eight bytes at the end of the range. -/
theorem test_meets_Atomics :
    let f : MXF := ⟨6, 0, 2, 4, 11, 0, 3, 5, 3, 0⟩
    let g : MXF := ⟨6, 0, 2, 0xFF, 10, 0, 2, 2, 0, 0⟩
    let s := rig [0, 31] [0xFFFF8, 0, 1]
    let u := rig [0, 31] [4092, 0, 1]
    let x := fun l => BitVec.ofNat 64 ((viewOf c0 s).opd l 2 2)
    let at_ := fun (u : State) (_ : Nat) => placesAt u rigDistrict (permA + permR + permW) 0xFFFF8 8
    let put := fun (u : State) l => modMem u fun m => writePlaces m (at_ u l) (toBytes 8 (atomResult 11 (wordAt u (at_ u l) 8) (x l)).toNat)
    replayMode s (viewOf c0 s).crew.district = 0 ∧ allMonitors s = [] ∧ Memory.wf s.mem.bytes = true ∧
    allAct s (fun _ l => !owesRelease s 0 0 l) = true ∧ issuesIn (.atom (ct 1) f) [0, 31] [0xFFFF8, 0, 1] = true ∧
    issuesIn (.red (ct 1) { f with dst := 0xFF, second := 0xFF, scope := 4, order := 2 }) [0, 31] [0xFFFF8, 0, 1] = true ∧
    storesB put s 0 0 (permA + permR + permW) 8 0xFFFF8 (linear 0xFFFF8 8) = true ∧
    storesB put s 31 1 (permA + permR + permW) 8 0xFFFF8 (linear 0xFFFF8 8) = true ∧ poisoned s (linear 0xFFFF8 8) = false ∧
    issuesIn (.atoms (ct 1) g) [0, 31] [4092, 0, 1] = true ∧
    issuesIn (.reds (ct 1) { g with dst := 0xFF, second := 0xFF }) [0, 31] [4092, 0, 1] = true ∧
    allAct u (fun v l => v.opd l 0 1 + 4 ≤ v.crew.scratch && v.opd l 0 1 % 4 == 0 && !poisoned u (scratchPlaces v.core v.crew.scratchBase 4092 4) &&
      (scratchPlaces v.core v.crew.scratchBase 4092 4).all fun p => p < hostPlace 0 && !sharedPlace u p) = true := by decide

theorem test_meets_Atomics_swap :
    let f : MXF := ⟨6, 0, 2, 4, 0, 0, 3, 4, 3, 0⟩
    let s := rig [0] [0xFFFF8, 0, 1, 0, 0, 0]
    let put := fun (u : State) (_ : Nat) => u
    districtAt s (viewOf c0 s).crew.district = some rigDistrict ∧ replayMode s 0 = 0 ∧ allMonitors s = [] ∧ Memory.wf s.mem.bytes = true ∧
    allAct s (fun _ l => !owesRelease s 0 0 l) = true ∧ (viewOf c0 s).act = [0] ∧
    storesB put s 0 0 (permA + permR + permW) 8 0xFFFF8 (linear 0xFFFF8 8) = true ∧ poisoned s (linear 0xFFFF8 8) = false ∧
    issuesIn (.cas (ct 1) f) [0] [0xFFFF8, 0, 1, 0, 0, 0] = true ∧ issuesIn (.casgt (ct 1) { f with second := 0xFF, sub := 1 }) [0] [0xFFFF8, 0, 1, 0, 0, 0] = true ∧
    issuesIn (.casver (ct 1) f) [0] [0xFFFF8, 0, 1, 0, 0, 0] = true ∧ issuesIn (.casptr (ct 1) f) [0] [0xFFFF8, 0, 1, 0, 0, 0] = true := by decide

/-- Where fetch and `ldl` find address `a` of the rig's range: node 0x1FFF, context 0, carve-out of partition 0 (R49, R53). -/
def codeAt (a : Nat) : Nat := 0x1FFF * 2 ^ 64 + 2 ^ 51 + a

/-- A routine table whose entry 255 is one ECALL at address 0x400 (R236, R336). -/
def callDistrict : District := { rigDistrict with routines := List.replicate 255 [] ++ [[0, 4, 0, 0, 0, 0, 0, 0, 1, 1, 0, 0, 0, 0, 0, 0]] }
def rigCall : State := { rig [0] [0x800, 0, 1] with
  districts := [(0, callDistrict)]
  mem := { State.reset.mem with code := [(codeAt 0x400, 0x73)] } }

theorem test_meets_Atomics_calls :
    let f : MXF := ⟨6, 0, 2, 4, 63, 3, 3, 3, 0, 0⟩
    issuesB (.pcall (ct 1) f) rigCall (rigWave [0] [0x800, 0, 1]) = true ∧ (viewOf c0 rigCall).act = [0] ∧ (viewOf c0 rigCall).inTx 0 = false ∧
    districtAt rigCall 0 = some callDistrict ∧ replayMode rigCall 0 = 0 ∧ allMonitors rigCall = [] ∧
    servedB rigCall (viewOf c0 rigCall) callDistrict 0 .home (permA + permR + permW) true 0x800 8 (linear 0x800 8) = true ∧
    poisoned rigCall (linear 0x800 8) = false ∧ routineCode rigCall callDistrict 255 = some [0x73] ∧
    (∀ j, j < 128 → sharedPlace rigCall (0x10000000800 + j) = false) ∧
    (match rvRun [0x73] 65 ⟨0, [], []⟩ with | .exit _ => true | .stop => false) = true := by decide

theorem test_meets_Loads_faults :
    issuesIn (.ld (ct 1) ldForm) [0] [0x100000, 0] = true ∧
    (bytesAt (rig [0] [0x100000, 0]) rigDistrict (.near 0) permR 0xFFFFF 2).find? (fun e => e.2 = .range) = some (0x100000, .range) ∧
    (viewOf c0 (rig [0] [0x100000, 0])).act = [0] ∧ (laneAt (rigWave [0] [0x100000, 0]) 0).tx.serial = false ∧
    issuesB (.ld (ct 1) ldForm) (rigPaged [0] [0x10000, 0] 3 []) (rigWave [0] [0x10000, 0]) = true ∧
    reachAll (bytesAt (rigPaged [0] [0x10000, 0] 3 []) pagedDistrict (.near 0) permR 0xFFFF 2) = .noPage 0 0x10000 0 ∧
    (laneAt (rigWave [0] [0x10000, 0]) 0).tx.depth = 0 := by decide

/-! ### One step of them, by the rules -/

/-- A byte of memory after an instruction. -/
def byteOf (t : State) (p : Nat) : Nat := (readByte t.mem.bytes p).toNat

/-- R161, R227: signed and unsigned loads of two bytes, a store of the last two bytes of the range, and offsets in the grant. -/
theorem test_loads_and_stores :
    let bs : Memory := [(0x10000000200, 0xFE), (0x10000000201, 0xFF), (0x10000000203, 1)]
    fieldOf (after (.ld (ct 1) ⟨6, 0, 0xFF, 0, 1, 0, 0, 1⟩) (rigMem [0, 31] [0x200, 0] bs)) 0 6 1 = 0xFFFFFFFE ∧
    fieldOf (after (.ld (ct 1) ⟨6, 0, 0xFF, 0xFFFF, 2, 0, 0, 0⟩) (rigMem [0, 31] [0x201, 0] bs)) 31 6 1 = 0x100FFFE ∧
    fieldOf (after (.ldl (ct 1) ⟨6, 0xFF, 0x100, 3⟩) { rig [0, 31] [] with mem := { State.reset.mem with code := [(codeAt 0x200, 0xFE), (codeAt 0x201, 0xFF)] } }) 0 6 1 =
      0xFFFE ∧
    byteOf (after (.st (ct 1) ⟨0xFF, 0, 2, 0xFFFF, 1, 0, 0, 0⟩) (rig [0, 31] [0xFFFFF, 0, 0x1234])) 0x100000FFFFF = 0x12 ∧
    byteOf (after (.sts (ct 1) ⟨0xFF, 0, 2, 2, 1, 0, 0, 0⟩) (rig [0] [4092, 0, 0x1234])) (scratchPlaces 0 0 4094 2)[1]! = 0x12 ∧
    fieldOf (after (.lds (ct 1) ⟨6, 0, 0xFF, 2, 1, 0, 0, 0⟩) (after (.sts (ct 1) ⟨0xFF, 0, 2, 2, 1, 0, 0, 0⟩) (rig [0] [4092, 0, 0x1234]))) 0 6 1 = 0x1234 ∧
    byteOf (after (.stp (ct 1) ⟨0xFF, 0, 2, 0, 1, 0, 0, 1⟩) rigGang) (scratchPlaces 1 8192 4094 2)[0]! = 1 := by decide

theorem test_replicas :
    let s := rigPaged [0] [0x80, 0, 128] 0x0B [(0x210081, 7)]
    ((replicaPlaces s pagedDistrict 0x80).map fun p => byteOf (after (.replsync (ct 1) ⟨0xFF, 0, 2, 0, 0, 0, 0, 0⟩) s) (p + 1)) = [7, 7, 7, 7] ∧
    ((replicaPlaces s pagedDistrict 0x80).map fun p => byteOf (after (.stm (ct 1) ⟨0xFF, 0, 2, 0, 0, 0, 0, 0⟩) s) p) = [128, 128, 128, 128] ∧
    ((replicaPlaces s pagedDistrict 0x80).map fun p => byteOf (after (.st (ct 1) ⟨0xFF, 0, 2, 0, 0, 0, 0, 0⟩) s) p).sum = 128 := by decide

/-- R223, R233: lanes act in increasing order; the flags of a floating maximum with a signalling NaN; the word-wide compares of R234. -/
theorem test_atomics :
    fieldOf (after (.atom (ct 1) ⟨6, 0, 2, 0xFF, 0, 0, 2, 4, 0, 0⟩) (rig [0, 31] [0x200, 0, 5])) 31 6 1 = 5 ∧
    byteOf (after (.atom (ct 1) ⟨6, 0, 2, 0xFF, 0, 0, 2, 4, 0, 0⟩) (rig [0, 31] [0x200, 0, 5])) 0x10000000200 = 10 ∧
    fieldOf (after (.atom (ct 1) ⟨6, 0, 2, 4, 11, 0, 2, 4, 0, 0⟩) (rig [0] [0x200, 0, 0x7FA00000])) 0 4 1 = 16 ∧
    byteOf (after (.red (ct 1) ⟨0xFF, 0, 2, 0xFF, 1, 0, 2, 4, 0, 0⟩) (rig [0] [0x200, 0, 0xFFFFFFFE])) 0x10000000200 = 0xFE ∧
    fieldOf (after (.atoms (ct 1) ⟨6, 0, 2, 0xFF, 8, 0, 2, 2, 0, 0⟩) (rig [0, 31] [8, 0, 5])) 31 6 1 = 5 ∧
    byteOf (after (.reds (ct 1) ⟨0xFF, 0, 2, 0xFF, 4, 0, 2, 2, 0, 0⟩) (rig [0, 31] [8, 0, 5])) (scratchPlaces 0 0 8 1)[0]! = 5 ∧
    byteOf (after (.cas (ct 1) ⟨6, 0, 2, 4, 0, 0, 2, 4, 0, 0⟩) (rig [0] [0x200, 0, 9])) 0x10000000200 = 9 ∧
    byteOf (after (.casgt (ct 1) ⟨6, 0, 2, 0xFF, 0, 0, 2, 4, 0, 1⟩) (rig [0] [0x200, 0, 0x80000000])) 0x10000000203 = 0 ∧
    byteOf (after (.casgt (ct 1) ⟨6, 0, 2, 0xFF, 0, 0, 2, 4, 0, 0⟩) (rig [0] [0x200, 0, 0x80000000])) 0x10000000203 = 0x80 ∧
    byteOf (after (.casver (ct 1) ⟨6, 0, 2, 4, 0, 0, 2, 4, 0, 0⟩) (rig [0] [0x200, 0, 0xFF000009, 0, 0x100])) 0x10000000203 = 1 ∧
    byteOf (after (.casptr (ct 1) ⟨6, 0, 2, 4, 0, 0, 3, 4, 0, 0⟩) (rig [0] [0x200, 0, 9])) 0x10000000206 = 1 ∧
    fieldOf (after (.pcall (ct 1) ⟨6, 0, 2, 4, 63, 3, 3, 3, 0, 0⟩) rigCall) 0 6 2 = 0x100000000 := by decide

/-! ## Witnesses: transactions and the system instructions -/

/-- The rig with lane 0's slot changed. -/
def withLane (g : Lane → Lane) (w : Wave) : Wave := { w with lanes := [(0, g laneInit)] }
def rigL (ls xs : List Nat) (g : Lane → Lane) : State := rigW ls xs (withLane g)

/-- Lane 0 in a transaction that has read a word and written two bytes of another. -/
def inTxn (r w : Nat) (x : Lane) : Lane := { x with
  tx := ⟨1, 0x300, false, [⟨8 * 2 ^ 48 + 0x200, BitVec.ofNat 64 r⟩], [⟨8 * 2 ^ 48 + 0x208, 3, BitVec.ofNat 64 w⟩], []⟩ }

/-- The word of 0x200 holds 5. -/
def rigTxn (r w : Nat) : State := { rigL [0] [] (inTxn r w) with mem := { State.reset.mem with bytes := [(0x10000000200, 5)] } }

def tokenDistrict : District := { rigDistrict with tokenWaiters := [(0, 0, 0)] }
def rigToken : State := { rigW [0] [] fun w => { w with fibres := [(0, { rigFibre with wait := .token })] } with
  districts := [(0, tokenDistrict)] }

def txbForm (serial : BitVec 2) : BF := ⟨0xFF, 0xFF, 0xFF, 4, serial⟩

theorem test_meets_Transactions_begin :
    issuesIn (.txbegin (ct 1) (txbForm 0)) [0, 31] [] (withLane fun x => { x with tx := { x.tx with depth := 254 } }) = true ∧
    issuesIn (.txbegin (ct 1) (txbForm 1)) [0, 31] [] (withLane fun x => { x with abort := 0x30 }) = true ∧
    issuesIn (.txbegin (ct 1) (txbForm 1)) [0] [] (withLane fun x => { x with abort := 0x40 }) = true ∧
    (viewOf c0 (rigL [0] [] fun x => { x with abort := 0x40 })).act = [0] ∧
    districtAt (rigL [0] [] fun x => { x with abort := 0x40 }) 0 = some rigDistrict ∧
    districtAt rigToken 0 = some tokenDistrict ∧ tokenDistrict.token = none ∧ (waveAt rigToken 0 0).isSome = true ∧
    issuesIn (.txabort (ct 1) ⟨0xFF, 0, 0xFF, 0xFF, 0, false, false, 0, 0, 0⟩) [0, 31] [0x1FF] (withLane (inTxn 5 9)) = true ∧
    (viewOf c0 (rigL [0, 31] [0x1FF] (inTxn 5 9))).act.filter (viewOf c0 (rigL [0, 31] [0x1FF] (inTxn 5 9))).inTx = [0] := by decide

def txeForm : GF := ⟨0xE3, 0xFF, 0xFF, 0xFF, 0, false, false, 0, 0, 0⟩
def txFlight : Flight := { landed with mask := some (3, 1, 1), writes := [] }
def placeIn (b : ByteAt) : Option Nat := match b with | .mem p _ => some p | _ => none

theorem test_meets_Transactions_commit :
    issuesIn (.txend (ct 1) txeForm) [0] [] (withLane (inTxn 5 9)) = true ∧ (viewOf c0 (rigTxn 5 9)).act = [0] ∧ !owesRelease (rigTxn 5 9) 0 0 0 ∧
    districtAt (rigTxn 5 9) 0 = some rigDistrict ∧ replayMode (rigTxn 5 9) 0 = 0 ∧ allMonitors (rigTxn 5 9) = [] ∧
    (∀ e ∈ (inTxn 5 9 laneInit).tx.reads, placeIn (byteAtIa (rigTxn 5 9) rigDistrict.ctx .home false e.ia) = some 0x10000000200) ∧
    (∀ e ∈ (inTxn 5 9 laneInit).tx.writes, placeIn (byteAtIa (rigTxn 5 9) rigDistrict.ctx .home true e.ia) = some 0x10000000208) ∧
    engineOwns (rigTxn 5 9) [0x10000000200, 0x10000000208] = false ∧ readNat (rigTxn 5 9).mem.bytes 0x10000000200 8 = 5 ∧
    Memory.wf (rigTxn 5 9).mem.bytes = true ∧
    issuesIn (.txend (ct 1) txeForm) [0] [] (withLane fun x => { x with tx := { x.tx with depth := 2 } }) = true ∧
    issuesIn (.txend (ct 1) txeForm) [0] [] = true ∧
    issuesIn (.txend (ct 1) txeForm) [0] [] (withLane (inTxn 6 9)) = true ∧ readNat (rigTxn 6 9).mem.bytes 0x10000000200 8 ≠ 6 ∧
    mget { rig [0] [] with flights := [(7, txFlight)] }.flights 7 = some txFlight ∧ txFlight.due ≤ 100 := by decide

/-- R238 to R242: a commit writes its two bytes, a stale read writes none and counts; the mask bit comes with completion. -/
theorem test_transactions :
    laneStands (after (.txabort (ct 1) ⟨0xFF, 0, 0xFF, 0xFF, 0, false, false, 0, 0, 0⟩) (rigL [0] [0x1FF] (inTxn 5 9))) 0 = some (0x300, 0, .ready) ∧
    (waveAt (after (.txabort (ct 1) ⟨0xFF, 0, 0xFF, 0xFF, 0, false, false, 0, 0, 0⟩) (rigL [0] [0x1FF] (inTxn 5 9))) 0 0).map (fun w => (laneAt w 0).abort) =
      some 0xFF015 ∧
    (waveAt (after (.txbegin (ct 1) (txbForm 0)) (rigL [0] [] id)) 0 0).map (fun w => ((laneAt w 0).tx.depth, (laneAt w 0).tx.target)) = some (1, 0x140) ∧
    byteOf (after (.txend (ct 1) txeForm) (rigTxn 5 0x1234)) 0x10000000209 = 0x12 ∧ byteOf (after (.txend (ct 1) txeForm) (rigTxn 6 0x1234)) 0x10000000209 = 0 ∧
    (waveAt (after (.txend (ct 1) txeForm) (rigTxn 6 9)) 0 0).map (fun w => (laneAt w 0).abort) = some 0x11 ∧
    (waveAt (after (.variableLatencyCompletion 7) { rig [0] [] with flights := [(7, txFlight)] }) 0 0).map (fun w => readTarget w (.k 3)) = some 1 ∧
    (waveAt (after (.serialTokenGrant 0) rigToken) 0 0).map (fun w => (laneAt w 0).tx.serial) = some true := by decide

/-- A context of two values; the accumulator of lane 0 as a clause that comes late enough sees it. -/
def xaLane (x : Lane) : Lane := { x with xa := ⟨[⟨3, .eps, 0, 0, [0x3FF0000000000000, 0x4000000000000000]⟩], [], 0⟩ }
def xf (dst a b c : BitVec 8) (type : BitVec 4) (sub : BitVec 3) : XF := ⟨dst, a, b, c, 0, 7, 7, 7, type, sub⟩

theorem test_meets_Extrapolation :
    issuesIn (.xainit c0 (xf 0xFF 8 2 4 0 1)) [0, 31] [] = true ∧ issuesIn (.xapush c0 (xf 0xFF 0 0xFF 0xFF 10 0)) [0, 31] [] = true ∧
    issuesIn (.xaclr c0 (xf 0xFF 0xFF 0xFF 0xFF 0 0)) [0, 31] [] = true ∧ issuesIn (.xaclr c0 (xf 0xFF 0xFF 0xFF 0xFF 0 1)) [0, 31] [] = true ∧
    issuesIn (.xastat c0 (xf 6 0xFF 0xFF 0xFF 0 0)) [0, 31] [] = true ∧ issuesIn (.xastat c0 (xf 6 0xFF 0xFF 0xFF 0 1)) [0, 31] [] = true ∧
    issuesIn (.xastat c0 (xf 6 0xFF 0xFF 0xFF 0 2)) [0, 31] [] = true ∧ issuesIn (.xastat c0 (xf 6 0 0xFF 0xFF 0 3)) [0, 31] [7] = true ∧
    issuesIn (.xalim (ct 1) ⟨6, 0xFF, 0xFF, 0xFF, 0, 0, 1, 6, 10, 0⟩) [0, 31] [] (withLane xaLane) = true ∧
    issuesIn (.xalim (ct 1) ⟨6, 0xFF, 0xFF, 0xFF, 3, 2, 7, 3, 11, 0⟩) [0, 31] [] (withLane xaLane) = true ∧
    nanF64 0x7FF0000000000000 = false ∧ nanF64 0xFFF0000000000001 = true := by decide

/-- A super-scale and a count in scalars 0 and 1. -/
def shelf (sc n : Nat) (w : Wave) : Wave := { w with regs := { w.regs with s := [(0, BitVec.ofNat 32 sc), (1, BitVec.ofNat 32 n)] } }
def qForm : GF := ⟨6, 0, 0xC0, 0xC1, 0, false, false, 10, 0, 0⟩

theorem test_meets_Extrapolation_blocks :
    ([1, 128].all fun n => issuesIn (.qblk (ct 1) qForm) [0, 31] [] (shelf 0x3F800000 n) &&
      allAct (rigW [0, 31] [] (shelf 0x3F800000 n)) fun v l => v.opd l 0xC0 1 == 0x3F800000 && v.opd l 0xC1 1 == n) = true ∧
    superOk 0x3F800000 = true ∧ superOk 0x7F800000 = false ∧ superOk 1 = true ∧
    ([0, 129].all fun n => issuesIn (.qblk (ct 1) qForm) [0, 31] [] (shelf 0x3F800000 n) &&
      allAct (rigW [0, 31] [] (shelf 0x3F800000 n)) fun v l => v.opd l 0xC1 1 == 0 || v.opd l 0xC1 1 > 128) = true := by decide

theorem test_meets_SystemRegisters :
    ([0x000, 0x001, 0x002, 0x003, 0x004, 0x005, 0x006, 0x007, 0x008, 0x009, 0x00A, 0x00B, 0x010, 0x011, 0x012, 0x015, 0x016, 0x018, 0x021, 0x030,
        0x031].all fun n => issuesIn (.mfsr (ct 1) ⟨6, 0xFF, BitVec.ofNat 32 n, 0⟩) [0, 31] [] &&
      (registerValue (rig [0, 31] []) (rigWave [0, 31] []) rigCrew 0 n).isSome) = true ∧
    ([0x013, 0x014, 0x020].all fun n => issuesIn (.mfsr (ct 1) ⟨6, 0xFF, BitVec.ofNat 32 n, 1⟩) [0, 31] [] &&
      (registerValue (rig [0, 31] []) (rigWave [0, 31] []) rigCrew 0 n).isSome) = true ∧
    ([0x010, 0x011, 0x012, 0x015, 0x016, 0x030].all fun n => issuesIn (.mtsr (ct 1) ⟨0xFF, 0, BitVec.ofNat 32 n, 0⟩) [0, 31] []) = true ∧
    ([0x013, 0x014].all fun n => issuesIn (.mtsr (ct 1) ⟨0xFF, 0, BitVec.ofNat 32 n, 1⟩) [0, 31] []) = true ∧
    (viewOf c0 (rig [0, 31] [])).act.head? = some 0 ∧
    issuesIn (.rdcyc (ct 1) ⟨6, 0xFF, 0xFF, 0xFF, 0, false, false, 0, 0, 0⟩) [0, 31] [] = true := by decide

/-- A control block that holds these bytes, and else zeros (R333). -/
def blockOf (xs : List (Nat × Byte)) : List Byte := (List.range 0x80).map fun i => (mget xs i).getD 0

/-- The district's debug enable (R292): bit 0 of the word at 0x01C of its block. -/
def dbgDistrict : District := { rigDistrict with block := blockOf [(8, 8), (0x1C, 1)] }
def rigDbg : State := { rig [0, 31] [] with districts := [(0, dbgDistrict)] }
def brkForm : GF := ⟨0xFF, 0xFF, 0xFF, 0xFF, 0, false, false, 0, 0, 63⟩

theorem test_meets_TrapsAndReturns :
    issuesIn (.trap (ct 1) ⟨0xFF, 0xFF, 0xFF, 0⟩) [0, 31] [] = true ∧
    issuesB (.brk (ct 1) brkForm) rigDbg (rigWave [0, 31] []) = true ∧ bit (inherited rigDbg 0 3 0x01C 4) 0 = true ∧
    bit (inherited (rig [0, 31] []) 0 3 0x01C 4) 0 = false ∧ issuesIn (.brk (ct 1) brkForm) [0, 31] [] = true ∧
    issuesIn (.sret c0 ⟨0xFF, 0xFF, 0xFF, 0xFF, 0, false, false, 0, 0, 0⟩) [0] [] (withLane fun x => { x with trap := ⟨0x200, 0, 0, 1, 56⟩ }) = true ∧
    (56 : W32).toNat % 8 = 0 ∧ (56 : W32).toNat < 64 := by decide

/-- The rig with task queue 15, of one entry at address 0x8000, and one task type; the queue is empty or full. -/
def spawnDistrict (waiting : Nat) : District := { rigDistrict with
  types := [List.replicate 16 0]
  block := blockOf [(8, 0x80), (0x50, 1)]
  queues := [(15, ⟨0x8000, 1, List.replicate waiting ⟨none, none⟩, waiting, 0, 0, false, [], 0, none⟩)] }
def rigSpawn (waiting depth : Nat) : State := { rig [0] [0, 0, 0, 0, 7, 8, 9, 15] with
  districts := [(0, spawnDistrict waiting)]
  crews := [(0, { rigCrew with task := { rigCrew.task with depth := depth } })] }
def spawnForm : GF := ⟨8, 0, 4, 0xFF, 0, false, false, 0, 0, 0⟩
def spanWave (w : Wave) : Wave := { w with spans := ⟨[5], 0, false, false⟩ }

theorem test_meets_TasksAndSpans :
    issuesB (.spawn (ct 1) spawnForm) (rigSpawn 0 7) (rigWave [0] [0, 0, 0, 0, 7, 8, 9, 15]) = true ∧ (viewOf c0 (rigSpawn 0 7)).act = [0] ∧
    (viewOf c0 (rigSpawn 0 7)).inTx 0 = false ∧ owesRelease (rigSpawn 0 7) 0 0 0 = false ∧ allMonitors (rigSpawn 0 7) = [] ∧ typeCount (rigSpawn 0 7) 0 = 1 ∧
    (viewOf c0 (rigSpawn 0 7)).opd 0 4 4 / 2 ^ (32 * 3) % 2 ^ 32 = 15 ∧ (viewOf c0 (rigSpawn 0 7)).crew.task.depth = 7 ∧
    (queueOf (rigSpawn 0 7) 0 15).map (fun q => (q.entries, q.appended - q.placed)) = some (1, 0) ∧
    (queueOf (rigSpawn 1 7) 0 15).map (fun q => (q.entries, q.appended - q.placed)) = some (1, 1) ∧ queueOf (rigSpawn 0 7) 0 0 = none ∧
    (viewOf c0 (rigSpawn 0 8)).crew.task.depth = 8 ∧ (placesWith (rigSpawn 0 7) 0 permW 0x8000 16).isSome = true ∧
    issuesIn (.yieldpt (ct 1) ⟨0xFF, 0xFF, 0xFF, 0xFF, 0, false, false, 0, 0, 0⟩) [0, 31] [] = true ∧
    replayMode (rig [0, 31] []) 0 = 0 ∧ (viewOf c0 (rig [0, 31] [])).crew.yieldAsked = false ∧
    (viewOf c0 { rig [0, 31] [] with crews := [(0, { rigCrew with yieldAsked := true })] }).crew.yieldAsked = true ∧
    issuesIn (.ppt (ct 1) ⟨0xFF, 0xFF, 0xFF, 0xFF, 0, false, false, 0, 0, 15⟩) [0, 31] [] = true ∧ (districtAt (rig [0, 31] []) 0).isSome = true ∧
    issuesIn (.spanin c0 ⟨0xFF, 0xFF, 0xFFFF, 0⟩) [0, 31] [] spanWave = true ∧ issuesIn (.spanout c0 ⟨0xFF, 0xFF, 5, 0⟩) [0, 31] [] spanWave = true ∧
    (rigDistrict.dbg.trace.recordAll = false ∧ rigDistrict.dbg.trace.spans = [] ∧ rigDistrict.dbg.causal.span.toNat ≠ 5 ∧
      rigDistrict.dbg.causal.span.toNat ≠ 0xFFFF) := by decide

/-- R215 to R220 with the example of two values; R212. -/
theorem test_extrapolation :
    fieldOf (after (.xastat c0 (xf 6 0xFF 0xFF 0xFF 0 0)) (rigL [0] [] xaLane)) 0 6 1 = 2 + 16 * 3 ∧
    fieldOf (after (.xastat c0 (xf 6 0 0xFF 0xFF 0 3)) (rigL [0] [1] xaLane)) 0 6 2 = 0x4000000000000000 ∧
    (waveAt (after (.xapush c0 (xf 0xFF 0 0xFF 0xFF 10 0)) (rigL [0] [0x40400000] xaLane)) 0 0).map (fun w => ((laneAt w 0).xa.now.map XaCtx.hist)) =
      some [[0x3FF0000000000000, 0x4000000000000000, 0x4008000000000000]] ∧
    (waveAt (after (.xaclr c0 (xf 0xFF 0xFF 0xFF 0xFF 0 1)) (rigL [0] [] xaLane)) 0 0).map (fun w => ((laneAt w 0).xa.now.map XaCtx.hist)) = some [[]] ∧
    fieldOf (after (.qblk (ct 1) qForm) (rigW [0] [] (shelf 0x3F800000 1))) 0 6 1 = 0xFF010008 := by decide

/-- R287 to R291, R297. -/
theorem test_system :
    fieldOf (after (.mfsr (ct 1) ⟨6, 0xFF, 0x015, 0⟩) (rigL [0] [] fun x => { x with trap := { x.trap with pred := 3 } })) 0 6 1 = 0x83 ∧
    (waveAt (after (.mtsr (ct 1) ⟨0xFF, 0, 0x010, 0⟩) (rig [0, 31] [0x3F])) 0 0).map (fun w => w.regs.fpstat) = some 0x1F ∧
    fieldOf (after (.rdcyc (ct 1) ⟨6, 0xFF, 0xFF, 0xFF, 0, false, false, 0, 0, 0⟩) (rig [0] [])) 0 6 2 = 100 ∧
    (waveAt (after (.trap (ct 1) ⟨0xFF, 0xFF, 0xAB, 0⟩) (rig [0] [])) 0 0).map (fun w => ((laneAt w 0).trap.pc, (laneAt w 0).trap.cause)) = some (0x101, 0xAB0017) ∧
    laneStands (after (.brk (ct 1) brkForm) rigDbg) 31 = some (0x101, 0, .parked) ∧
    laneStands (after (.sret c0 ⟨0xFF, 0xFF, 0xFF, 0xFF, 0, false, false, 0, 0, 0⟩) (rigL [0] [] fun x => { x with trap := ⟨0x200, 0, 0, 1, 56⟩ })) 0 =
      some (0x200, 56, .ready) ∧
    (waveAt (after (.spanout c0 ⟨0xFF, 0xFF, 6, 0⟩) (rigW [0] [] spanWave)) 0 0).map (fun w => (w.spans.stack, w.spans.mismatch)) = some ([], true) ∧
    (waveAt (after (.spanin c0 ⟨0xFF, 0xFF, 6, 0⟩) (rigW [0] [] spanWave)) 0 0).map (fun w => w.spans.stack) = some [6, 5] := by decide

theorem test_tasks :
    fieldOf (after (.spawn (ct 1) spawnForm) (rigSpawn 0 7)) 0 8 1 = 0 ∧ byteOf (after (.spawn (ct 1) spawnForm) (rigSpawn 0 7)) 0x10000008003 = 0x80 ∧
    byteOf (after (.spawn (ct 1) spawnForm) (rigSpawn 0 7)) 0x1000000800C = 9 ∧ fieldOf (after (.spawn (ct 1) spawnForm) (rigSpawn 1 7)) 0 8 1 = 1 ∧
    laneStands (after (.spawn (ct 1) spawnForm) (rigSpawn 0 8)) 0 = some (0x100, 0, .parked) ∧
    ((districtAt (after (.ppt (ct 1) ⟨0xFF, 0xFF, 0xFF, 0xFF, 0, false, false, 0, 0, 15⟩) (rig [0, 31] [])) 0).bind fun d => mget d.dbg.counters 15) = some 1 ∧
    laneStands (after (.yieldpt (ct 1) ⟨0xFF, 0xFF, 0xFF, 0xFF, 0, false, false, 0, 0, 0⟩)
      { rig [0, 31] [] with crews := [(0, { rigCrew with yieldAsked := true })] }) 31 = some (0x100, 0, .yieldpt false) := by decide

/-! ## Witnesses: barriers, tags, windows, service calls -/

/-- The rig with a barrier object at offset 4080 of its grant: count, remaining, phase. -/
def rigObject (ls xs : List Nat) (count remaining phase : Nat) : State :=
  { rig ls xs with mem := { State.reset.mem with bytes := writeBytes [] (scratchPlace 0 0 + 4080) (objectBytes count remaining phase 0) } }
def gf (dst a b : BitVec 8) (sub : BitVec 6) : GF := ⟨dst, a, b, 0xFF, 0, false, false, 0, 0, sub⟩
/-- Lane 0 waits with a result in v6. -/
def rigWaits (wait : Wait) (s : State) : State := { s with waves := [(wkey 0 0, { rigWave [] [] with fibres := [(0, { rigFibre with wait := wait })] })] }

theorem test_meets_BarriersAndTags_barriers :
    issuesIn (.binit (ct 1) (gf 0xFF 0 2 0)) [0, 31] [4080, 0, 65535] = true ∧ issuesIn (.binit (ct 1) (gf 0xFF 0 2 0)) [0, 31] [0, 0, 1] = true ∧
    allAct (rig [0, 31] [4080, 0, 65535]) (fun v l => 1 ≤ v.opd l 2 1 && v.opd l 2 1 ≤ 65535 && v.opd l 0 1 % 16 == 0 && v.opd l 0 1 + 16 ≤ v.crew.scratch) = true ∧
    issuesIn (.barr (ct 1) (gf 6 0 0xFF 1)) [0, 31] [4080] = true ∧ replayMode (rig [0, 31] [4080]) 0 = 0 ∧ allMonitors (rig [0, 31] [4080]) = [] ∧ owesRelease (rig [0, 31] [4080]) 0 0 31 = false ∧
    issuesIn (.barr (ct 1) (gf 6 0 0xFF 0)) [0] [4080] = true ∧
    issuesB (.barr (ct 1) (gf 6 0 2 3)) rigGang (rigWave [0, 31] [4094, 0, 1]) = true ∧
    gangMember rigGang (viewOf c0 rigGang).crew 1 = some 16 ∧ (crewAt rigGang 16).isSome = true ∧
    issuesIn (.bwait (ct 1) (gf 6 0 2 0)) [0, 31] [4080, 0, 3] = true ∧
    allAct (rigObject [0, 31] [4080, 0, 3] 2 2 3) (fun v l => !v.inTx l && v.opd l 0 1 + 16 ≤ v.crew.scratch &&
      readNat (rigObject [0, 31] [4080, 0, 3] 2 2 3).mem.bytes (scratchPlace v.core v.crew.scratchBase + v.opd l 0 1 + 8) 4 == v.opd l 2 1) = true ∧
    allAct (rigObject [0, 31] [4080, 0, 3] 2 2 4) (fun v l =>
      readNat (rigObject [0, 31] [4080, 0, 3] 2 2 4).mem.bytes (scratchPlace v.core v.crew.scratchBase + v.opd l 0 1 + 8) 4 != v.opd l 2 1) = true ∧
    (crewAt (rigWaits (.bwait 4080 3 6) (rigObject [] [] 2 2 4)) 0).isSome = true ∧ regClass 6 = .vec := by decide

/-- Belfry tag 7: two arrivals wanted, one made, and a phase on its way. -/
def bell (d : Nat) : Belfry := ⟨some d, 2, 1, 5, [4, 4, 4, 4], [(0, 100, 5)], 0⟩
def rigBell (d : Nat) (ls xs : List Nat) : State := { rig ls xs with belfry := [(7, bell d)] }

theorem test_meets_BarriersAndTags_tags :
    issuesB (.bfarr (ct 1) (gf 6 0xFF 0xFF 7)) (rigBell 0 [0, 31] [4]) (rigWave [0, 31] [4]) = true ∧
    (belfryAt (rigBell 0 [] []) 7).district = some 0 ∧ replayMode (rigBell 0 [] []) 0 = 0 ∧ allMonitors (rigBell 0 [0, 31] [4]) = [] ∧ (belfryAt (rigBell 1 [] []) 7).district ≠ some 0 ∧
    allAct (rigBell 0 [0, 31] [4]) (fun v l => !owesRelease (rigBell 0 [0, 31] [4]) 0 0 l && !v.inTx l) = true ∧
    issuesB (.bfwait (ct 1) (gf 6 0 0xFF 7)) (rigBell 0 [0, 31] [4]) (rigWave [0, 31] [4]) = true ∧
    allAct (rigBell 0 [0, 31] [4]) (fun v l => (bell 0).visible.getD 0 0 == BitVec.ofNat 32 (v.opd l 0 1)) = true ∧
    allAct (rigBell 0 [0, 31] [5]) (fun v l => (bell 0).visible.getD 0 0 != BitVec.ofNat 32 (v.opd l 0 1)) = true ∧
    (belfryAt (rigBell 0 [] []) 7).coming = (0, 100, 5) :: [] ∧ 100 ≤ (rigBell 0 [] []).clock := by decide

/-- The compute wave of slot 0 and its lantern wave of slot 1; the one that issues, what the window holds, whether the other has ended. -/
def rigPair (lantern : Bool) (window : List (List W32)) (ended : Bool) (xs : List Nat) : State := { rig [0, 31] xs with
  cur := { (rig [0, 31] xs).cur with slot := if lantern then 1 else 0 }
  waves := [(wkey 0 0, { rigWave (if lantern then [] else [0, 31]) xs with
      id := ⟨0, 0, false, some 1, 64⟩
      window := window
      ended := lantern && ended }),
    (wkey 0 1, { rigWave (if lantern then [0, 31] else []) xs with
      id := ⟨0, 1, true, some 0, 64⟩
      ended := !lantern && ended })] }
def waveOf (s : State) (slot : Nat) : Wave := (waveAt s 0 slot).getD waveInit
def fullWindow : List (List W32) := List.replicate 8 (List.replicate 32 5)
def getter (s : State) : State := { s with waves := s.waves.map fun e => (e.1, { e.2 with
  fibres := if e.1 = 0 then [(0, { rigFibre with wait := .qget 6 3 })] else [] }) }

theorem test_meets_QueueWindows :
    issuesB (.qput (ct 1) (gf 0xFF 0 0xFF 0)) (rigPair true [] false [5]) (waveOf (rigPair true [] false [5]) 1) = true ∧
    pairSlot (rigPair true [] false [5]) (waveOf (rigPair true [] false [5]) 1) true = some 0 ∧ (viewOf c0 (rigPair true [] false [5])).act = [0, 31] ∧
    replayMode (rigPair true [] false [5]) 0 = 0 ∧ (waveOf (rigPair true [] false [5]) 0).ended = false ∧
    (waveOf (rigPair true (fullWindow.drop 1) false [5]) 0).window.length = 7 ∧ (waveOf (rigPair true fullWindow false [5]) 0).window.length = 8 ∧
    (waveOf (rigPair true [] true [5]) 0).ended = true ∧
    issuesB (.qget (ct 1) (gf 6 0xFF 0xFF 7)) (rigPair false fullWindow false []) (waveOf (rigPair false fullWindow false []) 0) = true ∧
    (viewOf c0 (rigPair false fullWindow false [])).act = [0, 31] ∧ (viewOf c0 (rigPair false fullWindow false [])).inTx 31 = false ∧
    pairSlot (rigPair false fullWindow false []) (waveOf (rigPair false fullWindow false []) 0) false = some 1 ∧
    (waveOf (rigPair false [] false []) 0).window = [] ∧ (waveOf (rigPair false [] false []) 1).ended = false ∧
    (let s : State := { rigPair false [] false [] with waves := (rigPair false [] false []).waves.take 1 }
     pairSlot s (waveOf s 0) false = some noSlot ∧ waveAt s 0 noSlot = none) ∧
    (queueWaiters (waveOf (getter (rigPair false fullWindow false [])) 0)).map (·.1) = [0] ∧
    rising (waveOf (getter (rigPair false fullWindow false [])) 0).fibres = true ∧
    pairSlot (getter (rigPair false fullWindow false [])) (waveOf (getter (rigPair false fullWindow false [])) 0) false = some 1 := by decide

/-- Lane 0 waits for the reply to service `n`. -/
def asking (chip : Bool) (n arg : Nat) (s : State) : State := { s with
  waves := [(wkey 0 0, { rigWave [] [] with
    fibres := [(0, { rigFibre with wait := .svc chip 6 })]
    lanes := [(0, { laneInit with svc := ⟨0, BitVec.ofNat 32 n, BitVec.ofNat 64 arg, 0, false⟩ })] })] }
def asksWave (s : State) : Wave := waveOf s 0

theorem test_asks (chip : Bool) (n arg : Nat) (s : State) :
    Asks (asking chip n arg s) 0 0 0 chip 6 (asksWave (asking chip n arg s)) { rigFibre with wait := .svc chip 6 } :=
  ⟨rfl, rfl, rfl, .inr (.inr ⟨rfl, show 0 + 6 + 2 ≤ 512 by decide⟩)⟩

theorem test_meets_ServiceCalls :
    issuesIn (.svc (ct 1) (gf 6 0 2 1)) [0, 31] [7, 0, 1] = true ∧ issuesIn (.svc (ct 1) (gf 6 0 2 0)) [0, 31] [7, 0, 1] = true ∧
    allAct (rig [0, 31] [7, 0, 1]) (fun v l => !v.inTx l && !owesRelease (rig [0, 31] [7, 0, 1]) 0 0 l) = true ∧ allMonitors (rig [0, 31] [7, 0, 1]) = [] ∧
    ([0, 1, 2, 3, 255, 256, 65535, 65536].all fun n => (laneAt (asksWave (asking false n 0x10001 (rig [] []))) 0).svc.number.toNat == n) = true ∧
    (laneAt (asksWave (asking false 1 0x10001 (rig [] []))) 0).svc.arg.toNat % 65536 = 1 ∧
    (belfryAt (rig [] []) 0).district = none ∧ (belfryAt (rigBell 0 [] []) 7).district = some 0 ∧
    (∀ k ∈ List.range 8, (belfryAt { rig [] [] with belfry := (List.range 8).map fun k => (k, bell 0) } k).district ≠ none) ∧
    rising (asking false 2 7 (rigBell 0 [] [])).belfry = true ∧ rising (asking false 2 7 (rigBell 0 [] [])).waves = true ∧
    districtOfWave (asking false 2 7 (rigBell 0 [] [])) 0 0 = 0 ∧ (belfryAt (rigBell 1 [] []) 7).district ≠ some 0 ∧
    (rig [] []).secure.readiness.getLsbD 17 = true := by decide

/-- R244 to R249: the last arrival starts a phase; the waits; a full window; the replies. -/
theorem test_synchronisation :
    fieldOf (after (.barr (ct 1) (gf 6 0 0xFF 1)) (rigObject [0, 31] [4080] 2 1 3)) 31 6 1 = 3 ∧
    readNat (after (.barr (ct 1) (gf 6 0 0xFF 1)) (rigObject [0, 31] [4080] 2 1 3)).mem.bytes (scratchPlace 0 0 + 4080) 16 = 2 + 2 ^ 32 * 2 + 2 ^ 64 * 4 ∧
    readNat (after (.barr (ct 1) (gf 6 0 0xFF 0)) (rigObject [0] [4080] 2 2 3)).mem.bytes (scratchPlace 0 0 + 4084) 4 = 1 ∧
    laneStands (after (.bwait (ct 1) (gf 6 0 2 0)) (rigObject [0, 31] [4080, 0, 3] 2 2 3)) 31 = some (0x100, 0, .bwait 4080 3 6) ∧
    fieldOf (after (.bwait (ct 1) (gf 6 0 2 0)) (rigObject [0, 31] [4080, 0, 3] 2 2 4)) 31 6 1 = 4 ∧
    (laneStands (after (.bwaitRelease 0 0) (rigWaits (.bwait 4080 3 6) (rigObject [] [] 2 2 4))) 0).map (·.1) = some 0x101 ∧
    byteOf (after (.binit (ct 1) (gf 0xFF 0 2 0)) (rig [0] [4080, 0, 65535])) (scratchPlace 0 0 + 4085) = 255 ∧
    (belfryAt (after (.bfarr (ct 1) (gf 6 0xFF 0xFF 7)) (rigBell 0 [0, 31] [4])) 7).coming =
      [(0, 100, 5), (0, 140, 6), (1, 196, 6), (2, 196, 6), (3, 196, 6)] ∧
    laneStands (after (.bfarr (ct 1) (gf 6 0xFF 0xFF 7)) (rigBell 1 [0, 31] [4])) 31 = some (0x100, 0, .parked) ∧
    laneStands (after (.bfwait (ct 1) (gf 6 0 0xFF 7)) (rigBell 0 [0, 31] [4])) 31 = some (0x100, 0, .bfwait 7 4 6) ∧
    (belfryAt (after (.belfryPhaseVisible 7 0) (rigBell 0 [] [])) 7).visible = [5, 4, 4, 4] := by decide

theorem test_queues_and_services :
    (waveOf (after (.qput (ct 1) (gf 0xFF 0 0xFF 0)) (rigPair true [] false [5])) 0).window.map (·.map BitVec.toNat) =
      [(List.range 32).map fun l => if l = 0 || l = 31 then 5 else 0] ∧
    ((mget (waveOf (after (.qput (ct 1) (gf 0xFF 0 0xFF 0)) (rigPair true fullWindow false [5])) 1).fibres 31).map (·.wait)) = some .qput ∧
    fieldOf (after (.qget (ct 1) (gf 6 0xFF 0xFF 3)) (rigPair false fullWindow false [])) 31 6 1 = 5 ∧
    (waveOf (after (.qget (ct 1) (gf 6 0xFF 0xFF 3)) (rigPair false fullWindow false [])) 0).window.length = 7 ∧
    laneStands (after (.qget (ct 1) (gf 6 0xFF 0xFF 3)) (rigPair false [] false [])) 31 = some (0x100, 0, .qget 6 3) ∧
    (waveOf (after (.queueWindowWaitEnd 0 0) (getter (rigPair false fullWindow false []))) 0).window.length = 7 ∧
    laneStands (after (.svc (ct 1) (gf 6 0 2 1)) (rig [0, 31] [7, 0, 1])) 31 = some (0x100, 0, .svc true 6) ∧
    fieldOf (after (.svcEcho 0 0 0) (asking false 0 0x10001 (rig [] []))) 0 6 2 = 0x10001 ∧
    fieldOf (after (.allocateBelfryTag 0 0 0) (asking false 1 0x10001 (rig [] []))) 0 6 2 = 0 ∧
    fieldOf (after (.freeBelfryTag 0 0 0) (asking false 2 7 (rigBell 0 [] []))) 0 6 2 = 0 ∧
    fieldOf (after (.freeBelfryTag 0 0 0) (asking false 2 7 (rigBell 1 [] []))) 0 6 2 = 2 ^ 64 - 1 ∧
    fieldOf (after (.pluginService 0 0 0 9) (asking false 256 7 (rig [] []))) 0 6 2 = 2 ^ 64 - 1 ∧
    fieldOf (after (.reservedService 0 0 0) (asking false 255 7 (rig [] []))) 0 6 2 = 2 ^ 64 - 1 ∧
    fieldOf (after (.chipServiceReply 0 0 0 9) (asking true 0x10001 7 (rig [] []))) 0 6 2 = 9 := by decide

/-! ## Witnesses: the engines -/

/-- `Acceptable` in the rig, as a test: the lowest active lane is lane 0. -/
def acceptableB (i : Instr) (s : State) (w : Wave) : Bool :=
  issuesB i s w && (viewOf (controlOf i) s).act.head? == some 0 && (viewOf (controlOf i) s).act.all (fun m => !(viewOf (controlOf i) s).inTx m) &&
    (opTiles i == [] || (coreOf s 0).tileOwner == none || (coreOf s 0).tileOwner == some w.id.crew) &&
    (opTiles i).all fun z => !(heldTiles s (viewOf (controlOf i) s).crew).contains z

theorem acceptable_of {i : Instr} {s : State} {w : Wave} (h : acceptableB i s w = true) (hc : s.cur.core = 0) : Acceptable i s w 0 := by
  simp only [acceptableB, Bool.and_eq_true, Bool.or_eq_true, beq_iff_eq, List.all_eq_true, Bool.not_eq_true', List.contains_eq_mem,
    decide_eq_false_iff_not] at h
  obtain ⟨⟨⟨⟨h1, h2⟩, h3⟩, h4⟩, h5⟩ := h
  exact ⟨issues_of h1, h2, h3, by rw [hc]; exact or_assoc.mp h4, h5⟩

/-- A crew with 32 KiB of scratchpad, an operand buffer of 1 MiB, two reservations of FP8 rows and one of QN4 rows. -/
def engineCrew : Crew := { rigCrew with
  scratch := 32768
  ob := 2 ^ 20
  reservations := [(0, ⟨0, 0x10000, 4, 0⟩), (1, ⟨0x10000, 0x10000, 4, 0⟩), (2, ⟨0x20000, 0x40000, 8, 0x1000⟩)] }
def rigEngine (ls xs : List Nat) : State := { rig ls xs with crews := [(0, engineCrew)] }
def accepted (i : Instr) (xs : List Nat) : Bool := acceptableB i (rigEngine [0] xs) (rigWave [0] xs)
/-- The core holds a newest operation that keeps the operands of lane 0. -/
def queued (i : Instr) (xs : List Nat) (a b c : List Nat) : Bool := match (coreOf (after i (rigEngine [0] xs)) 0).ops with
  | [o] => o.instr == i && o.a.map BitVec.toNat == a && o.b.map BitVec.toNat == b && o.c.map BitVec.toNat == c && !o.consumed && o.active == 1
  | _ => false

def ff (sub : BitVec 6) (a b c : BitVec 8) (dtype : BitVec 4 := 0) : GF := ⟨0xFF, a, b, c, 0, false, false, dtype, 0, sub⟩
def obres (n : BitVec 6) : Instr := .obres (ct 1) ⟨6, 0, 2, 4, 0, false, false, 0, 0, n⟩

theorem test_meets_EngineOperations_reservations :
    ([[0, 0, 0x100, 0, 4], [0x100000, 0, 0x100, 0, 4], [0x10000, 0, 0x100, 0, 4], [0xFFF00, 0, 0x100, 0, 9], [0xFFF00, 0, 0x100, 0, 4]].all fun xs =>
      accepted (obres 7) xs) = true ∧ accepted (obres 0) [0xFFF00, 0, 0x100, 0, 4] = true ∧
    mget engineCrew.reservations 0 ≠ none ∧ mget engineCrew.reservations 7 = none ∧ crewAt (rigEngine [0] []) 0 ≠ none ∧
    accepted (.obrel (ct 1) ⟨6, 0xFF, 0xFF, 0xFF, 0, false, false, 0, 0, 7⟩) [] = true ∧
    accepted (.obrel (ct 1) ⟨6, 0xFF, 0xFF, 0xFF, 0, false, false, 0, 0, 0⟩) [] = true := by decide

/-- R257: the codes in the order of the table. -/
theorem test_reservations :
    let code := fun (n : BitVec 6) xs => fieldOf (after (obres n) (rigEngine [0] xs)) 0 6 1
    code 0 [0xFFF00, 0, 0x100, 0, 4] = 1 ∧ code 7 [0x100000, 0, 0x100, 0, 4] = 2 ∧ code 7 [0x10000, 0, 0x100, 0, 9] = 3 ∧
    code 7 [0xFFF00, 0, 0x100, 0, 9] = 4 ∧ code 7 [0xFFF00, 0, 0x100, 0, 4] = 0 ∧
    fieldOf (after (.obrel (ct 1) ⟨6, 0xFF, 0xFF, 0xFF, 0, false, false, 0, 0, 7⟩) (rigEngine [0] [])) 0 6 1 = 1 ∧
    ((crewAt (after (.obrel (ct 1) ⟨6, 0xFF, 0xFF, 0xFF, 0, false, false, 0, 0, 0⟩) (rigEngine [0] [])) 0).map fun c => c.reservations.length) = some 2 := by
  decide

/-- `mma` of FP8 rows at the ends of reservations 0 and 1, with an early signal and no barrier. -/
def mmaForm : TF := ⟨15, 0, 0, 2, 4, 0, 1, 4, 4, 1⟩
def mmaRegs : List Nat := [0xC000, 0, 0xC000, 0, 0x8000FFFF]
def mmaQForm : TF := ⟨15, 7, 0, 2, 4, 0, 2, 4, 8, 0⟩

theorem test_held : heldAs engineCrew 0 4 0xC000 (64 * 256) ∧ heldAs engineCrew 1 4 0xC000 (256 * 64) ∧ heldAs engineCrew 0 4 0x8000 (64 * 512) ∧
    heldAs engineCrew 2 8 0x30000 (256 * 64) := by
  refine ⟨⟨_, rfl, ?_⟩, ⟨_, rfl, ?_⟩, ⟨_, rfl, ?_⟩, ⟨_, rfl, ?_⟩⟩ <;> decide

theorem test_signal : signalOk 4096 0xFFFF ∧ signalOk 4096 255 ∧ ¬ signalOk 4096 256 := by unfold signalOk; decide

def rows (va stride need : Nat) (xs : List Nat) (ls : List Nat) : Bool :=
  ls.all fun r => spanCheck (rigEngine [0] xs) 0 need ((va + r * stride) % 2 ^ 64) 256 == none
/-- Registers: an address, a stride, a signal word; the last row of lane 0 ends at the end of the range. -/
def lastRows (step : Nat) : List Nat := [0x100000 - 256 - step, 0, step, 0, 0xFFFF]
def mmamRegs : List Nat := [0x100000 - 512, 0, 0x100000 - 64 * 256, 0, 256, 256, 0xFFFF, 0]

theorem test_meets_EngineInstructions_tile :
    accepted (.mma (ct 1) mmaForm) mmaRegs = true ∧ accepted (.mma (ct 1) mmaQForm) [0x8000, 0, 0x30000, 0, 0xFFFF] = true ∧
    (mmaPair 4 4 false).map (·.n) = some 64 ∧ (mmaPair 4 8 false).map (·.n) = some 64 ∧
    accepted (.mmam (ct 1) ⟨0, 0, 0, 2, 4, 0, 0, 4, 4, 0⟩) mmamRegs = true ∧ rows (0x100000 - 512) 256 permR mmamRegs [0, 1] = true ∧
    rows (0x100000 - 64 * 256) 256 permR mmamRegs (List.range 64) = true ∧ laneRows [0] = [0, 1] ∧
    accepted (.mzero (ct 1) ⟨15, 0, 0xFF, 0xFF, 0xFF, 0, 0, 0, 0, 0⟩) [] = true ∧
    accepted (.mmov (ct 1) ⟨15, 14, 0xFF, 0xFF, 0xFF, 0, 0, 0, 0, 0⟩) [] = true ∧
    accepted (.mld (ct 1) ⟨15, 0, 0, 2, 4, 0, 0, 0, 0, 0⟩) (lastRows 16) = true ∧ rows (0x100000 - 272) 16 permR (lastRows 16) [0, 1] = true ∧
    accepted (.mld (ct 1) ⟨15, 0, 0, 2, 4, 0, 0, 0, 0, 1⟩) [32768 - 512, 0, 256, 0, 0xFFFF] = true ∧
    accepted (.mflush (ct 1) ⟨0, 15, 0, 2, 4, 0, 0, 0, 0, 0⟩) (lastRows 16) = true ∧ rows (0x100000 - 272) 16 permW (lastRows 16) [0, 1] = true ∧
    accepted (.mflush (ct 1) ⟨0, 15, 0, 2, 4, 0, 0, 0, 0, 1⟩) [32768 - 512, 0, 256, 0, 0xFFFF] = true ∧
    accepted (.mflush (ct 1) ⟨0, 15, 0, 2, 4, 0, 0, 0, 0, 2⟩) (lastRows 128) = true ∧
    rows (0x100000 - 384) 128 (permA + permR + permW) (lastRows 128) [0, 1] = true ∧
    ([0, 1].all fun r => hostSpan (rigEngine [0] (lastRows 128)) 0 (0x100000 - 384 + r * 128) 256 == none) = true ∧
    accepted (.mstest (ct 1) ⟨15, 0, 0xFF, 0xFF, 4, 0, 0, 0, 0, 0⟩) mmaRegs = true ∧
    (let s : State := { rigEngine [0] [] with cores := [(0, { coreInit with tileOwner := some 1 })] }
     issuesB (.mzero (ct 1) ⟨15, 0, 0xFF, 0xFF, 0xFF, 0, 0, 0, 0, 0⟩) s (rigWave [0] []) = true ∧ (coreOf s 0).tileOwner = some 1 ∧
     (viewOf c0 s).act = [0] ∧ (viewOf c0 s).inTx 0 = false ∧ heldTiles s (viewOf c0 s).crew = []) := by decide

/-- R250 to R267: the operations stand in the queue with their operand words; the tiles are the crew's. -/
theorem test_accepted :
    queued (.mma (ct 1) mmaForm) mmaRegs [0xC000] [0xC000] [0x8000FFFF] = true ∧
    queued (.mmam (ct 1) ⟨0, 0, 0, 2, 4, 0, 0, 4, 4, 0⟩) mmamRegs [0xFFE00, 0] [0xFC000, 0] [256, 256, 0xFFFF, 0] = true ∧
    queued (.mzero (ct 1) ⟨15, 0, 0xFF, 0xFF, 0xFF, 0, 0, 0, 0, 0⟩) [] [] [] [] = true ∧
    queued (.mmov (ct 1) ⟨15, 14, 0xFF, 0xFF, 0xFF, 0, 0, 0, 0, 0⟩) [] [] [] [] = true ∧
    queued (.mld (ct 1) ⟨15, 0, 0, 2, 4, 0, 0, 0, 0, 1⟩) [32768 - 512, 0, 256, 0, 0xFFFF] [32256] [256] [0xFFFF] = true ∧
    queued (.mflush (ct 1) ⟨0, 15, 0, 2, 4, 0, 0, 0, 0, 2⟩) (lastRows 128) [0xFFE80, 0] [128] [0xFFFF] = true ∧
    queued (.mstest (ct 1) ⟨15, 0, 0xFF, 0xFF, 4, 0, 0, 0, 0, 0⟩) mmaRegs [] [] [0x8000FFFF] = true ∧
    queued (.cpy (ct 1) (ff 0 0 2 4)) [0xFFFF0, 0, 0xFFFF0, 0, 16, 0xFFFF] [0xFFFF0, 0] [0xFFFF0, 0] [16, 0xFFFF] = true ∧
    queued (.rcfence (ct 1) (ff 0 0xFF 0xFF 0xFF)) [] [] [] [] = true ∧
    laneStands (after (.cpy (ct 1) (ff 0 0 2 4)) (rigEngine [0] [0, 0, 0, 0, 0, 0xFFFF])) 0 = some (0x100, 0, .parked) ∧
    (coreOf (after (.mzero (ct 1) ⟨15, 0, 0xFF, 0xFF, 0xFF, 0, 0, 0, 0, 0⟩) (rigEngine [0] [])) 0).tileOwner = some 0 := by decide

/-- A tensor record at 0x400: base 0x1000, two-byte elements, rank 1, extent 8, box 4. -/
def tensorBytes : Memory := [(0x10000000401, 0x10), (0x10000000408, 1), (0x10000000409, 1), (0x10000000410, 8), (0x10000000414, 1),
  (0x10000000418, 1), (0x1000000041C, 1), (0x10000000438, 4), (0x1000000043C, 1), (0x10000000440, 1), (0x10000000444, 1)]
def tensorRegs : List Nat := [0x400, 0, 0x100, 0xFFFF, 6, 0, 0, 0]
def rigTensor : State := { rigEngine [0] tensorRegs with mem := { State.reset.mem with bytes := tensorBytes } }
def cpytForm (dir : BitVec 6) : GF := ff dir 0 2 4

def gotBytes : EngGot → List Byte
  | .bytes _ bs => bs
  | .missing .. => []
def gotState (s : State) : EngGot → State
  | .bytes t _ => t
  | .missing .. => s

theorem test_record_cached : RecordCached rigTensor (gotState rigTensor (recordNow rigTensor (viewOf c0 rigTensor) 0x400)) ∧
    (gotBytes (recordNow rigTensor (viewOf c0 rigTensor) 0x400)).length = 192 := by unfold RecordCached; decide

theorem test_meets_EngineInstructions_copy :
    let n2 := [0xFFFF0, 0, 0xFFFF0, 0, 16, 0xFFFF]
    accepted (.cpy (ct 1) (ff 0 0 2 4)) n2 = true ∧ spanCheck (rigEngine [0] n2) 0 permW 0xFFFF0 16 = none ∧ spanCheck (rigEngine [0] n2) 0 permR 0xFFFF0 16 = none ∧
    accepted (.cpy (ct 1) (ff 5 0 2 4)) [32767, 0, 0, 0, 1, 0x80000000] = true ∧ accepted (.cpy (ct 1) (ff 6 0 2 4 2)) [0x3FFFF, 0, 0, 0, 1, 0xFFFF] = true ∧
    (mget engineCrew.reservations 2).map (·.size) = some 0x40000 ∧
    (viewOf c0 (rigEngine [0] n2)).opd 0 4 2 % 2 ^ 32 = 16 ∧ (viewOf c0 (rigEngine [0] n2)).opd 0 4 2 / 2 ^ 32 = 0xFFFF ∧
    ([0, 2 ^ 24 + 1].all fun n => accepted (.cpy (ct 1) (ff 0 0 2 4)) [0, 0, 0, 0, n, 0xFFFF]) = true ∧
    ([0, 1, 2].all fun dir => acceptableB (.cpyt (ct 1) (cpytForm dir)) rigTensor (rigWave [0] tensorRegs)) = true ∧
    spanCheck rigTensor 0 permR 0x400 192 = none ∧
    (let bs := gotBytes (recordNow rigTensor (viewOf c0 rigTensor) 0x400)
     tensorOk bs 6 = true ∧ ([0, 1, 2].all fun dir =>
      let r := if dir = 1 then mget engineCrew.reservations 0 else none
      (boxChecks rigTensor (viewOf c0 rigTensor) dir 0x100 r (tensorOf bs) [6, 0, 0, 0]).1 == none &&
        (boxChecks rigTensor (viewOf c0 rigTensor) dir 0x100 r (tensorOf bs) [6, 0, 0, 0]).2.1.all (· == none)) = true) ∧
    accepted (.rcfence (ct 1) (ff 0 0xFF 0xFF 0xFF)) [] = true := by decide

/-- Operation 7 of core 0, the only one. -/
def opOf (i : Instr) (c : List W32) : EngineOp := ⟨0, none, 0, 0, 0, i, 1, [], [], c, none, none, 100, 0, 7, false, 0, false, [], [], [], [], 0, 0, 0, []⟩
def rigOp (i : Instr) (c : List W32) (tiles : Memory) : State := { rigEngine [] [] with
  cores := [(0, { coreInit with ops := [opOf i c], records := [(0x400, [1])], tileOwner := some 0 })]
  flights := [(7, { landed with waits := 1, writes := [] })]
  mem := { State.reset.mem with tiles := tiles } }

theorem test_runs (i : Instr) (c : List W32) (tiles : Memory) : partRuns (rigOp i c tiles) (0 / 96) = true := by
  have h : (rigOp i c tiles).secure = (rig [] []).secure := rfl
  have g : (rigOp i c tiles).power = (rig [] []).power := rfl
  unfold partRuns partReady
  rw [h, g]
  decide

theorem test_at_head (i : Instr) (c : List W32) (tiles : Memory) : AtHead (rigOp i c tiles) 0 7 (opOf i c) [] :=
  ⟨rfl, rfl, rfl, by simp, Nat.le_refl 100, rfl, rfl, test_runs i c tiles, by simp [ownedBefore, rigOp, opOf]⟩

/-- A partial of two FP32 values for the line at 0x10000000400. -/
def twoOnes : Partial := ⟨0x10000000400, 0, 1, [0x3F800000, 0x3F800000], false, 0, false, 99, 0⟩
def rigPartial : State := { rigEngine [] [] with partitions := [(0, { partInit with carve := 2 ^ 24, partials := [twoOnes] })] }

theorem test_meets_EngineOperations_completions :
    Memory.wf (rigOp (.mzero (ct 1) ⟨15, 0, 0xFF, 0xFF, 0xFF, 0, 0, 0, 0, 0⟩) [] [(5, 1)]).mem.tiles = true ∧
    ((0x8000FFFF : W32)).toNat.testBit 31 = true ∧ (0x8000FFFF : W32).toNat % 65536 = 0xFFFF ∧
    dutyAdmits ((rigOp (.mma (ct 1) mmaForm) [0x8000FFFF] []).power.duty.getD 0 16) 100 = true ∧
    partReady rigPartial 0 = true ∧ (partOf rigPartial 0).partials = [twoOnes] ∧ findOp rigPartial 99 = none ∧ allMonitors rigPartial = [] ∧
    (∀ i, i < 8 → twoOnes.place + i < hostPlace 0 ∧ sharedPlace rigPartial (twoOnes.place + i) = false) := by decide

def tileByte (t : State) (z r b : Nat) : Nat := (readByte t.mem.tiles (tilePlace 0 z r b)).toNat

/-- R250, R264: rows of active lanes only. -/
theorem test_mzero :
    let zeroed := after (.engineOperationComplete 7) (rigOp (.mzero (ct 1) ⟨15, 0, 0xFF, 0xFF, 0xFF, 0, 0, 0, 0, 0⟩) []
      [(tilePlace 0 15 1 255, 3), (tilePlace 0 15 2 0, 4)])
    tileByte zeroed 15 1 255 + 16 * tileByte zeroed 15 2 0 = 64 := by decide

theorem test_mmov :
    let moved := after (.engineOperationComplete 7) (rigOp (.mmov (ct 1) ⟨15, 14, 0xFF, 0xFF, 0xFF, 0, 0, 0, 0, 0⟩) []
      [(tilePlace 0 14 1 255, 3), (tilePlace 0 14 2 0, 4)])
    tileByte moved 15 1 255 + 16 * tileByte moved 15 2 0 = 3 := by decide

/-- R260, R271, R97: the record cache, an early signal, the sum in its line. -/
theorem test_engine_completions :
    (coreOf (after (.engineOperationComplete 7) (rigOp (.rcfence (ct 1) (ff 0 0xFF 0xFF 0xFF)) [] [])) 0).records = [] ∧
    ((coreOf (after (.mmaConsumedSignal 7) (rigOp (.mma (ct 1) mmaForm) [0x8000FFFF] [])) 0).ops.map (·.consumed)) = [true] ∧
    readNat (after (.nearCachePartial 0) rigPartial).mem.bytes 0x10000000400 8 = 0x3F8000003F800000 := by decide

/-! ## Witnesses: the step sequencer -/

def one64 : Nat := 0x3FF0000000000000
/-- Euler's method: one explicit stage, b = 1, no error estimate (R106, R107). -/
def eulerBytes : List Byte := toBytes 4 1 ++ toBytes 4 0x310000 ++ toBytes 8 one64 ++ toBytes 8 0 ++ toBytes 8 one64 ++ toBytes 8 0 ++ toBytes 8 0 ++
  toBytes 8 0 ++ toBytes 8 0 ++ toBytes 8 0 ++ toBytes 8 0 ++ toBytes 8 one64 ++ toBytes 8 0
/-- A run record (R109): four FP32 elements from t = 0 to 1, 10 steps at most, a grid of 2 tasks, queue 15, flags `flags`. -/
def runBytes (flags : Nat) : List Byte := toBytes 8 0x1000 ++ toBytes 8 0x2000 ++ toBytes 8 0x3000 ++ toBytes 8 0 ++ toBytes 8 0 ++ toBytes 8 one64 ++
  toBytes 8 0x3FE0000000000000 ++ toBytes 8 one64 ++ toBytes 8 one64 ++ toBytes 8 one64 ++ toBytes 4 4 ++ toBytes 4 10 ++ toBytes 6 0 ++ toBytes 2 flags ++
  toBytes 4 2 ++ toBytes 4 1 ++ toBytes 4 1 ++ toBytes 4 0 ++ toBytes 8 0 ++ toBytes 1 15 ++ toBytes 7 0

/-- A crew whose context is number 0 of its cluster; queue 15 and one task type; a tableau at 0x400 and a run record at 0x600. -/
def seqCrew (k : Option Nat) : Crew := { rigCrew with seqCtx := k }
def rigSeq (xs : List Nat) (k : Option Nat) (cs : List (Nat × SeqCtx)) : State := { rig [0] xs with
  districts := [(0, spawnDistrict 0)]
  crews := [(0, seqCrew k)]
  seqs := cs
  mem := { State.reset.mem with bytes := writeBytes (writeBytes [] 0x10000000400 eulerBytes) 0x10000000600 (runBytes 0) } }
/-- The context of the run record, loaded, in a state. -/
def ctxIn (state : Nat) : SeqCtx := { ctxOf 0 (runBytes 0 ++ copies 32 0) with state := state, tableau := eulerBytes }

/-- `Sequences` in the rig, as a test. -/
def sequencesB (i : Instr) (s : State) (w : Wave) (c : SeqCtx) : Bool :=
  issuesB i s w && (viewOf (controlOf i) s).act.head? == some 0 && (viewOf (controlOf i) s).act.all (fun m => !(viewOf (controlOf i) s).inTx m) &&
    (viewOf (controlOf i) s).crew.seqCtx == some 0 && seqAt s 0 == some c
theorem sequences_of {i : Instr} {s : State} {w : Wave} {c : SeqCtx} (h : sequencesB i s w c = true) : Sequences i s w 0 0 c := by
  simp only [sequencesB, Bool.and_eq_true, beq_iff_eq, List.all_eq_true, Bool.not_eq_true'] at h
  obtain ⟨⟨⟨⟨h1, h2⟩, h3⟩, h4⟩, h5⟩ := h
  exact ⟨issues_of h1, h2, h3, h4, h5⟩

def sequenced (i : Instr) (xs : List Nat) (c : SeqCtx) : Bool := sequencesB i (rigSeq xs (some 0) [(0, c)]) (rigWave [0] xs) c
/-- A record can be read in the rig, and reads `bs`. -/
def recordB (s : State) (va n : Nat) (bs : List Byte) : Bool :=
  spanCheck s (viewOf c0 s).copy permR va n == none && (match engRead s 0 ((viewOf c0 s).number s) (viewOf c0 s).copy va n with | .bytes t b => t == s && b == bs | _ => false) && bs.length == n

def sf (sub : BitVec 6) (dst : BitVec 8 := 8) (a : BitVec 8 := 0) (b : BitVec 8 := 0xFF) (dtype : BitVec 4 := 0) : GF :=
  ⟨dst, a, b, 0xFF, 0, false, false, dtype, 0, sub⟩

/-- The record passes every check of R108; with another word it fails one of them and no earlier one. -/
theorem test_euler_passes (n : Nat) : ¬ failsAt eulerBytes n := by
  rintro (⟨rfl, h⟩ | ⟨rfl, h⟩ | ⟨rfl, ⟨p, i, j, hp, h1, h2, h3, h⟩⟩ | ⟨rfl, h⟩ | ⟨rfl, h, _⟩)
  · revert h; decide
  · revert h; decide
  · have : tabS eulerBytes = 1 := by decide
    omega
  · revert h
    simp only [show tabKind eulerBytes = 0 by decide, show tabS eulerBytes = 1 by decide]
    rintro (⟨-, i, h1, h2, h⟩ | ⟨h, -⟩ | ⟨h, -⟩ | ⟨h, -⟩)
    · obtain rfl : i = 1 := by omega
      revert h; decide
    all_goals simp at h
  · revert h; decide

theorem test_fails_first : failsAt (toBytes 4 0 ++ eulerBytes.drop 4) 1 ∧ failsAt (eulerBytes.take 8 ++ toBytes 8 0 ++ eulerBytes.drop 16) 2 := by
  constructor
  · exact .inl ⟨rfl, .inl (by decide)⟩
  · exact .inr (.inl ⟨rfl, .inr (.inr (.inl (by decide)))⟩)

theorem test_meets_SequencerLoads :
    sequenced (.tbload (ct 1) (sf 0)) [0x404, 0] (ctxIn 2) = true ∧ sequenced (.tbload (ct 1) (sf 0)) [0x401, 0] (ctxIn 2) = true ∧
    sequenced (.tbload (ct 1) (sf 0)) [0x400, 0] (ctxIn 3) = true ∧ sequenced (.tbload (ct 1) (sf 0)) [0x400, 0] (ctxIn 1) = true ∧ (ctxIn 1).at_ = .idle ∧
    recordB (rigSeq [0x400, 0] (some 0) [(0, ctxIn 1)]) 0x400 64 (eulerBytes.take 64) = true ∧ tabSize (eulerBytes.take 64) = 96 ∧
    recordB (rigSeq [0x400, 0] (some 0) [(0, ctxIn 1)]) 0x400 96 eulerBytes = true := by decide

theorem test_meets_SequencerLoads_init :
    let s := rigSeq [0x600, 0] none []
    let t := rigSeq [0x600, 0] none ((List.range 8).map fun i => (i, ctxIn 2))
    issuesB (.odeinit (ct 1) (sf 0)) s (rigWave [0] [0x600, 0]) = true ∧ (viewOf c0 s).act.head? = some 0 ∧ recordB s 0x600 128 (runBytes 0) = true ∧
    issuesB (.odeinit (ct 1) (sf 0)) t (rigWave [0] [0x600, 0]) = true ∧ recordB t 0x600 128 (runBytes 0) = true ∧
    (∀ i ∈ List.range 8, (seqAt t i).isSome = true) ∧ (∀ i ∈ List.range 8, seqAt s i = none) ∧
    runBad s (viewOf c0 s) (ctxOf 0 (runBytes 0)) = false ∧ runBad s (viewOf c0 s) (ctxOf 0 (runBytes 0x200)) = true ∧
    (ctxOf 0 (runBytes 0)).frameAddr = 0 ∧ crewAt s 0 ≠ none ∧ (viewOf c0 s).crew.seqCtx = none ∧
    (let u := rigSeq [0x600, 0] (some 0) [(0, ctxIn 3)]
     (viewOf c0 u).crew.seqCtx = some 0 ∧ (seqAt u 0).map (·.state) = some 3) := by decide

theorem test_refused : Refused (rigSeq [] none []) (viewOf c0 (rigSeq [] none [])) (ctxOf 0 (runBytes 0x200)) :=
  .inr (.inr (.inr (.inr (.inr (.inr (.inr (.inr (.inr (.inr (.inr (.inr (.inl (by decide)))))))))))))

theorem test_not_refused : ¬ Refused (rigSeq [] none []) (viewOf c0 (rigSeq [] none [])) (ctxOf 0 (runBytes 0)) := by
  rintro (h | ⟨x, hx, h⟩ | h | h | h | h | h | h | h | h | h | h | h | h | h | h | h | h | ⟨p, hp, h⟩)
  · revert h; decide
  · revert h; revert x; decide
  all_goals first
    | (revert h; decide)
    | (obtain rfl | rfl | rfl : p = 0 ∨ p = 1 ∨ p = 2 := by omega) <;> revert h <;> decide

def kindThree : SeqCtx := { ctxIn 2 with tableau := toBytes 4 0x301 ++ eulerBytes.drop 4 }
/-- The last step went from 0 to 1 and is retained. -/
def stepped : SeqCtx := { ctxIn 2 with regs := { (ctxIn 2).regs with retained := true, tOld := 0, t := BitVec.ofNat 64 one64, hA := BitVec.ofNat 64 one64, steps := 7, bank := 1 } }

theorem test_meets_SequencerRuns :
    sequenced (.oderun (ct 1) (sf 0 8 0xFF)) [] (ctxIn 1) = true ∧ sequenced (.oderun (ct 1) (sf 0 8 0xFF)) [] kindThree = true ∧
    tabKind kindThree.tableau = 3 ∧ sequenced (.oderun (ct 1) (sf 0 8 0xFF)) [] (ctxIn 2) = true ∧ tabKind (ctxIn 2).tableau = 0 ∧ (ctxIn 2).tileFlag = false ∧
    (ctxIn 2).at_ = .idle ∧ sequenced (.odestep (ct 1) (sf 1 8 0xFF)) [] kindThree = true ∧ sequenced (.odestep (ct 1) (sf 0 8 0xFF)) [] (ctxIn 4) = true ∧
    ([0, 1, 2, 3, 4, 5, 6].all fun n => sequenced (.odestat (ct 1) (sf n 8 0xFF)) [] (ctxIn 2) && sequenced (.odestat (ct 1) (sf n 8 0xFF)) [] (ctxIn 1)) = true ∧
    sequenced (.odeq (ct 1) (sf 0 8 0 2)) [0, 0, 0x1000, 0] (ctxIn 1) = true ∧ (viewOf c0 (rigSeq [] (some 0) [])).crew.binding = none ∧
    sequenced (.odeq (ct 1) (sf 0 8 0 2)) [0, 0, 0xFFFF0, 0] stepped = true ∧
    spanCheck (rigSeq [0, 0, 0xFFFF0, 0] (some 0) [(0, stepped)]) 0 permW 0xFFFF0 (4 * 4) = none ∧
    dLe 0 0 = true ∧ dLe 0 one64 = true ∧ dLe one64 0 = false ∧ stepped.n * stepped.esize = 16 := by decide

def denseEnv : SeqEnv := SeqEnv.mk 0 stepped (seqCrew (some 0))
/-- The state of the example before the write: y is 0 and k is 0. -/
theorem test_meets_SequencerRuns_dense :
    let s := rigSeq [0, 0, 0xFFFF0, 0] (some 0) [(0, stepped)]
    (match readWork denseEnv s 3 with
      | .ok t y => t == s && (match denseTo denseEnv one64 0 (dQuot one64 0 one64) 0xFFFF0 s y with
        | .ok u _ => u == { s with mem := u.mem } | _ => false)
      | _ => false) = true := by decide

/-- A crew of a stage task of context 0, which evaluates. -/
def stageCrew : Crew := { rigCrew with binding := some 0 }
def evalOf (phase : Nat) : Eval := ⟨phase, 1, 2, 3, 5, 0, 2, 2, 2, false, false⟩
def rigStage (phase : Nat) (xs : List Nat) : State := { rigSeq xs none [(0, { ctxIn 3 with eval := some (evalOf phase) })] with crews := [(0, stageCrew)] }

theorem test_meets_SequencerTasksAndEvents :
    ([0, 1, 2, 3, 4, 5, 6, 7, 8, 9].all fun n => issuesB (.stgget (ct 1) (sf n 8 0xFF)) (rigStage 2 []) (rigWave [0] [])) = true ∧
    (viewOf c0 (rigStage 2 [])).crew.binding = some 0 ∧ ((seqAt (rigStage 2 []) 0).bind fun c => c.eval) = some (evalOf 2) ∧
    issuesB (.stgput (ct 1) (sf 0 0xFF 0 2 10)) (rigStage 0 [3, 0, 0x3F800000]) (rigWave [0] [3, 0, 0x3F800000]) = true ∧
    issuesB (.stgput (ct 1) (sf 0 0xFF 0 2 11)) (rigStage 3 [0, 0, 0, 0x3FF00000]) (rigWave [0] [0, 0, 0, 0x3FF00000]) = true ∧
    allAct (rigStage 0 [3, 0, 0]) (fun v l => v.opd l 0 1 < 4) = true ∧ allAct (rigStage 0 [4, 0, 0]) (fun v l => 4 ≤ v.opd l 0 1) = true ∧
    allAct (rigStage 3 []) (fun v l => v.opd l 0 1 == 0) = true ∧ allAct (rigStage 3 [1]) (fun v l => v.opd l 0 1 != 0) = true ∧
    (let s := rigStage 0 [3, 0, 0x3F800000]
     let ps := linear (stgTarget (ctxIn 3) (evalOf 0) 3) 4
     servedB s (viewOf c0 s) (spawnDistrict 0) 0 .home permW true (stgTarget (ctxIn 3) (evalOf 0) 3) 4 ps = true) ∧
    ([0, 4, 24].all fun n => sequenced (.evarm (ct 1) (sf n 0xFF 0)) [0] (ctxIn 2) && sequenced (.evarm (ct 1) (sf n 0xFF 0)) [0] (ctxIn 3) &&
      sequenced (.evarm (ct 1) (sf n 0xFF 0)) [1] (ctxIn 1) && sequenced (.evarm (ct 1) (sf n 0xFF 0)) [0x10000] (ctxIn 1)) = true ∧
    sequenced (.evarm (ct 1) (sf 4 0xFF 0)) [0] { ctxIn 2 with regs := { (ctxIn 2).regs with initDone := true } } = true ∧
    typeCount (rigSeq [0] (some 0) []) 0 = 1 ∧
    (viewOf c0 (rigSeq [] none [])).crew.seqCtx = none ∧ (viewOf c0 (rigSeq [] none [])).crew.binding = none ∧
    ([Instr.tbload (ct 1) (sf 0), .oderun (ct 1) (sf 0 8 0xFF), .odestep (ct 1) (sf 0 8 0xFF), .odestat (ct 1) (sf 0 8 0xFF), .evarm (ct 1) (sf 0 0xFF 0),
      .odeq (ct 1) (sf 0 8 0 2), .stgget (ct 1) (sf 0 8 0xFF), .stgput (ct 1) (sf 0 0xFF 0 2 10)].all fun i =>
        issuesB i (rigSeq [] none []) (rigWave [0] [])) = true := by decide

/-- A context at one place of its run, owned by crew 0. -/
def ctxAt (at_ : SeqAt) (g : SeqCtx → SeqCtx) : SeqCtx := g { ctxIn 3 with at_ := at_ }
def rigRun (c : SeqCtx) : State := rigSeq [] (some 0) [(0, c)]

theorem test_works (c : SeqCtx) (ho : c.owner = 0) (hs : c.state = 3) : Works (rigRun c) 0 c ⟨0, c, seqCrew (some 0)⟩ := by
  refine ⟨by decide, rfl, by rw [ho]; rfl, rfl, ?_, by omega⟩
  rw [ho]
  have h : (rigRun c).secure = (rig [] []).secure := rfl
  have g : (rigRun c).power = (rig [] []).power := rfl
  unfold partRuns partReady
  rw [h, g]
  decide

/-- A frame descriptor with chunks of one frame and its counts at 0x700. -/
def frameCtx : SeqCtx := ctxAt .frames fun c => { c with
  run := runBytes 0 ++ toBytes 8 0 ++ toBytes 8 0x700 ++ toBytes 8 0 ++ toBytes 8 1
  regs := { c.regs with runSteps := 1 } }

theorem test_meets_SequencerEvents :
    let q := (queueOf (rigRun (ctxIn 3)) 0 15)
    q.map (fun q => (q.entries, q.appended - q.placed)) = some (1, 0) ∧ ((ctxIn 3).queue, (seqCrew (some 0)).district) = (15, 0) ∧
    (queueOf { rigRun (ctxIn 3) with districts := [(0, spawnDistrict 1)] } 0 15).map (fun q => (q.entries, q.appended - q.placed)) = some (1, 1) ∧
    (evalOf 0).ended = (evalOf 0).total ∧ dLt 0 (ctxIn 3).tEnd = true ∧ dLt one64 (ctxIn 3).tEnd = false ∧ (ctxIn 3).maxSteps = 10 ∧
    (ctxIn 3).regs.t = 0 ∧ replayMode (rigRun (ctxIn 3)) 0 = 0 ∧ (ctxIn 3).pend = [] ∧ frameCtx.state = 3 ∧ frameCtx.regs.runSteps = 1 ∧
    ({ frameCtx with pend := [⟨0, 0, 3, false, 0⟩] }.pend ≠ [] ∧ (placesWith (rigRun (ctxIn 3)) 0 permW 0x8000 16).isSome = true) ∧
    (match seqRead ⟨0, frameCtx, seqCrew (some 0)⟩ (rigRun frameCtx) frameCtx.countsAt 8 with
      | .ok t bs => t == rigRun frameCtx && ofBytes bs == 0 | _ => false) = true ∧ frameCtx.chunk = 1 ∧ frameCtx.look = 0 ∧
    tabQ (toBytes 4 0x100001) = 1 ∧ tabJmin eulerBytes = 0 := by decide

/-- R277 to R285: the codes of loading, the status word, a stage value. -/
theorem test_sequencer :
    fieldOf (after (.tbload (ct 1) (sf 0)) (rigSeq [0x404, 0] (some 0) [(0, ctxIn 2)])) 0 8 1 = 7 ∧
    fieldOf (after (.tbload (ct 1) (sf 0)) (rigSeq [0x400, 0] (some 0) [(0, ctxIn 3)])) 0 8 1 = 6 ∧
    ((seqAt (after (.tbload (ct 1) (sf 0)) (rigSeq [0x400, 0] (some 0) [(0, ctxOf 0 (runBytes 0))])) 0).map fun c => (c.state, c.tableau)) = some (2, eulerBytes) ∧
    ((seqAt (after (.odeinit (ct 1) (sf 0)) (rigSeq [0x600, 0] none [])) 0).map fun c => (c.state, c.n)) = some (1, 4) ∧
    fieldOf (after (.oderun (ct 1) (sf 0 8 0xFF)) (rigSeq [] (some 0) [(0, ctxIn 1)])) 0 8 1 = 8 ∧
    fieldOf (after (.oderun (ct 1) (sf 0 8 0xFF)) (rigSeq [] (some 0) [(0, kindThree)])) 0 8 1 = 9 ∧
    laneStands (after (.odestep (ct 1) (sf 1 8 0xFF)) (rigSeq [] (some 0) [(0, ctxIn 2)])) 0 = some (0x100, 0, .odestep 8 true) ∧
    fieldOf (after (.odestat (ct 1) (sf 0 8 0xFF)) (rigSeq [] (some 0) [(0, ctxIn 2)])) 0 8 1 = 0x502 ∧
    fieldOf (after (.odeq (ct 1) (sf 0 8 0 2)) (rigSeq [0, 0, 0xFFFF0, 0] (some 0) [(0, ctxIn 1)])) 0 8 2 = 2 ^ 64 - 2 ∧
    fieldOf (after (.stgget (ct 1) (sf 7 8 0xFF)) (rigStage 2 [])) 0 8 2 = 0x3000 + 4 * 4 * 4 ∧
    readNat (after (.stgput (ct 1) (sf 0 0xFF 0 2 10)) (rigStage 0 [3, 0, 0x3F800000])).mem.bytes 0x1000000200C 4 = 0x3F800000 ∧
    ((seqAt (after (.evarm (ct 1) (sf 28 0xFF 0)) (rigSeq [0] (some 0) [(0, ctxIn 1)])) 0).map fun c => (c.events.getD 0 ⟨0, 0, false, 0⟩).mask) = some 3 := by
  decide

/-- R114, R119, R131. -/
theorem test_sequencer_runs :
    (((seqAt (after (.stageTaskAppend 0) (rigRun (ctxAt (.rhs 1 0) fun c => { c with eval := some { evalOf 0 with appended := 1 } }))) 0).bind fun c => c.eval).map (·.appended)) =
      some 2 ∧
    ((seqAt (after (.evaluationComplete 0) (rigRun (ctxAt .boundary id))) 0).map (·.at_)) = some .attempt ∧
    ((seqAt (after (.evaluationComplete 0) (rigRun (ctxAt .boundary fun c => { c with regs := { c.regs with runSteps := 10 } }))) 0).map fun c => (c.state, c.at_)) =
      some (2, .leave 3 0 0) ∧
    ((seqAt (after (.evaluationComplete 0) (rigRun (ctxAt (.rhs 1 0) fun c => { c with eval := some { evalOf 0 with failed := true } }))) 0).map (·.at_)) =
      some (.leave 4 0 0) ∧
    ((seqAt (after (.evaluationComplete 0) (rigRun (ctxAt (.rhs 1 0) fun c => { c with eval := some { evalOf 0 with access := true } }))) 0).map (·.at_)) =
      some (.leave 6 0 0) ∧
    ((seqAt (after (.frameChunkRelease 0) (rigRun frameCtx)) 0).map (·.state)) = some 3 := by decide

/-! ## Witnesses: the fabric, crews and placement -/

/-- Addresses below 1 MiB are those of node 5, which port 17 reaches. -/
def farDistrict : District := { rigDistrict with ranges := [⟨0, 0x100000, 0, 5, 0x1F, true⟩] }
def ldReq (why : HoldWhy) : Held := ⟨⟨0, 0, 0, 0, 0, 0x200, 4, .load false, 0, 0, 0, 0, false, false, false, true, 0, [.v 0 6], [], 7⟩, why, 3, false⟩
def heldFlight : Flight := { landed with waits := 1, writes := [] }
def rigHeld (d : District) (why : HoldWhy) (wait : Wait) : State := { rigW [0] [] fun w => { w with fibres := [(0, { rigFibre with wait := wait, flight := 7 })] } with
  districts := [(0, d)]
  cores := [(0, { coreInit with held := [ldReq why] })]
  flights := [(7, heldFlight)]
  fabric := { State.reset.fabric with nodeSet := true, node := 1, routes := [(5, 0x20000)], ports := [(17, ⟨true, 0, 0, 0, 5, 0⟩)] } }

theorem test_one_load (d : District) (why : HoldWhy) (wait : Wait) (h : wait = .remote ∨ ∃ n, wait = .hold n) (hm : d.dbg.monitors = []) :
    OneLoad (rigHeld d why wait) 0 (ldReq why) false { rigWave [0] [] with fibres := [(0, { rigFibre with wait := wait, flight := 7 })] }
      { rigFibre with wait := wait, flight := 7 } heldFlight := by
  refine ⟨?_, rfl, rfl, rfl, rfl, rfl, by simp [allMonitors, rigHeld, hm], rfl, by show 0 < 1024; decide, rfl, rfl, h, rfl, rfl⟩
  intro c x hx
  simp only [rigHeld, List.mem_singleton, Prod.mk.injEq] at hx
  obtain ⟨rfl, rfl⟩ := hx
  exact ⟨rfl, rfl⟩

def arriving (kind : OutsideKind) (size : Nat) : OutsideAccess := ⟨kind, 0, 8 * 2 ^ 48 + 0x200, size, 1, 0⟩

theorem test_arrives : ∀ p ∈ [(OutsideKind.load, 16), (.store, 1), (.atomic 11, 8), (.atomic 0, 4), (.cas, 16)],
    Arrives (rig [] []) (arriving p.1 p.2) (decide (p.1 ≠ .load)) (linear 0x200 p.2) := by
  simp only [List.forall_mem_cons]
  refine ⟨⟨by decide, by decide, .inr ⟨by decide, by decide⟩, by decide, by decide, by decide, by decide, by decide, by decide⟩,
    ⟨by decide, by decide, .inr ⟨by decide, by decide⟩, by decide, by decide, by decide, by decide, by decide, by decide⟩,
    ⟨by decide, by decide, .inr ⟨by decide, by decide⟩, by decide, by decide, by decide, by decide, by decide, by decide⟩,
    ⟨by decide, by decide, .inr ⟨by decide, by decide⟩, by decide, by decide, by decide, by decide, by decide, by decide⟩,
    ⟨by decide, by decide, .inr ⟨by decide, by decide⟩, by decide, by decide, by decide, by decide, by decide, by decide⟩, by simp⟩

theorem test_meets_ArrivingAccesses :
    let s := rigHeld farDistrict .remote .remote
    outsideOf s (ldReq .remote).req = some (some 5, (List.range 4).map fun i => remotePlace 5 (0x200 + i)) ∧ routeUp s 5 = true ∧ heldFlight.due ≤ s.clock ∧
    poisoned s ((List.range 4).map fun i => remotePlace 5 (0x200 + i)) = false ∧ s.fabric.writes = [] ∧
    ((List.range 4).map fun i => remotePlace 5 (0x200 + i)).all (fun p => !sharedPlace s p) = true ∧
    (let u := rigHeld rigDistrict .engine (.hold 0)
     access u rigDistrict (.near (dieOfCore 0)) permR 0x200 4 = .places (linear 0x200 4) ∧ markAccess u rigDistrict false 0x200 4 = u ∧
     anyReset u rigDistrict 0x200 4 = false ∧ engineOwns u (linear 0x200 4) = false ∧ poisoned u (linear 0x200 4) = false ∧
     (linear 0x200 4).all (fun p => !sharedPlace u p) = true) ∧
    partReady State.reset 0 = false := by decide

/-- A store to node 5 on its way, and every port of its route long down. -/
def rigWrites (up : Bool) : State := { rigHeld farDistrict .remote .remote with
  clock := 125000000
  cores := []
  fabric := { (rigHeld farDistrict .remote .remote).fabric with
    ports := [(17, ⟨up, 0, 0, 0, 5, 0⟩)]
    writes := [(9, ⟨5, { (ldReq .remote).req with op := .store, data := 0x1234 }, 100⟩)] } }

theorem test_meets_PortsAndRoutes :
    (mget (rigWrites true).fabric.writes 9).map (fun r => (r.node, r.req.op, r.req.line, decide (r.due ≤ (rigWrites true).clock))) = some (5, .store, false, true) ∧
    (mget (rigWrites true).fabric.writes 9).bind (fun r => outsideOf (rigWrites true) r.req) =
      some (some 5, (List.range 4).map fun i => remotePlace 5 (0x200 + i)) ∧
    routeUp (rigWrites true) 5 = true ∧ remoteBehind (rigWrites true) 9 (((List.range 4).map fun i => remotePlace 5 (0x200 + i)).map lineOf) = false ∧
    ((List.range 4).map fun i => remotePlace 5 (0x200 + i)).all (fun p => decide (2 ^ 65 ≤ p)) = true ∧
    allMonitors (rigWrites true) = [] ∧ rising (rigWrites true).fabric.writes = true ∧ routeUp (rigWrites false) 5 = false ∧
    routePorts (rigWrites false) 5 = [17] ∧ (portAt (rigWrites false) 17).up = false ∧
    (portAt (rigWrites false) 17).downSince + 125000000 ≤ (rigWrites false).clock ∧ (portAt (rigWrites true) 17).up = true ∧
    (rigWrites true).fabric.nodeSet = true ∧ ((rigWrites true).fabric.routes.any fun e => e.2.getLsbD 17) = true ∧
    ((rigWrites true).fabric.routes.any fun e => e.2.getLsbD 16) = false := by decide

/-- R51, R64, R432 to R435. -/
theorem test_fabric :
    (laneStands (after (.remoteReply 7) (rigHeld farDistrict .remote .remote)) 0).map (·.1) = some 0x101 ∧
    (laneStands (after (.directoryRecall 7) (rigHeld rigDistrict .engine (.hold 0))) 0).map (·.1) = some 0x101 ∧
    byteOf (after (.arrivingRemoteAccess (arriving .store 1)) (rig [] [])) 0x10000000200 = 1 ∧
    byteOf (after (.arrivingRemoteAccess (arriving (.atomic 0) 4)) (rigMem [] [] [(0x10000000200, 255)])) 0x10000000201 = 1 ∧
    (after (.arrivingRemoteAccess (arriving .load 4)) State.reset).reply.code = 2 ∧
    readNat (after (.remoteWriteAck 9) (rigWrites true)).mem.bytes (remotePlace 5 0x200) 2 = 0x1234 ∧
    (after (.routeDownTimeout 5) (rigWrites false)).fabric.writes = [] ∧
    (portAt (after (.flitRetry 17) (rigWrites true)) 17).retries = 1 ∧ (portAt (after (.portLinkChange 17 false 0) (rigWrites true)) 17).up = false ∧
    (after (.portLinkChange 16 true 3) (rigWrites true)).fabric.ports = (rigWrites true).fabric.ports := by decide

/-- The crew of the rig whose one wave has ended; its district has an event ring of 4 entries at 0x9000. -/
def eventDistrict : District := { rigDistrict with block := blockOf [(0x69, 0x90), (0x70, 4)] }
def doneWave : Wave := { rigWave [] [] with ended := true }
def rigDone : State := { rig [] [] with waves := [(wkey 0 0, doneWave)], districts := [(0, eventDistrict)] }
def endRecord (k : Nat) : EventRec := ⟨toBytes 16 0x11, 0, none, 0, k, 0⟩
def rigPost (posted : Nat) : State := { rigDone with districts := [(0, { eventDistrict with evPosted := posted, evWaiting := [endRecord 0] })] }

theorem test_finished : Finished rigDone 0 := by
  refine ⟨by decide, by decide, by decide, by decide, rfl, rfl⟩

def savedCrew : Saved := ⟨.evicted, rigCrew, [(0, rigWave [0] [])], [(0, 0)], [], [], none, 0, [], 0, none, 0⟩
def rigImage : State := { rig [] [] with saved := [(5, savedCrew)] }
def rigEnded : State := after (.faultDomainEndCrew (12288 + 5)) rigImage

theorem test_meets_CrewsAndNotices_end :
    crewAt rigDone 0 = some rigCrew ∧ rigCrew.ending = false ∧ districtAt rigDone (rigCrew.district % 2 ^ 32) = some eventDistrict ∧
    (rigWave [0] []).ended = false ∧ crewAt (rig [0] []) 0 = some rigCrew ∧ wkCore (wkey 0 0) = 0 ∧
    (districtAt (rigPost 3) 0).map (fun d => (d.evWaiting, d.evPosted - d.evConsumed, blkNat d 0x070 4, blkNat d 0x068 8)) =
      some ([endRecord 0], 3, 4, 0x9000) ∧
    rising (rigPost 3).crews = true ∧ crewAt (rigPost 3) 0 ≠ none ∧ (districtAt (rigPost 4) 0).map (fun d => d.evPosted - d.evConsumed) = some 4 ∧
    mget rigImage.saved 5 = some savedCrew ∧ savedCrew.crew.gang = none ∧ (districtAt rigImage 0).isSome = true ∧ mget rigImage.saved 4 = none ∧
    ((mget rigEnded.saved 5).map fun x => (x.waves.all fun e => decide (e.2.fibres = []), x.crew.endKind, x.seq)) = some (true, 2, none) ∧
    (rigEnded.cores.all fun c => c.2.ops.all fun o => decide (o.saved ≠ some 5)) = true ∧ rising rigEnded.saved = true ∧
    (districtAt rigEnded (savedCrew.crew.district % 2 ^ 32)).isSome = true := by decide

theorem test_crews_end :
    (crewAt (after (.crewEnd 0) rigDone) 0).map (·.ending) = some true ∧ crewAt (after (.crewEnd 0) (rig [0] [])) 0 = some rigCrew ∧
    crewAt (after (.completionRecordPost 0) (rigPost 3)) 0 = none ∧ byteOf (after (.completionRecordPost 0) (rigPost 3)) 0x10000009030 = 0x11 ∧
    (crewAt (after (.completionRecordPost 0) (rigPost 4)) 0).isSome = true ∧
    (crewAt (after (.faultDomainEndCrew 0) (rig [0] [])) 0).map (fun c => (c.endKind, c.endStatus)) = some (2, 0) ∧
    (mget rigEnded.saved 5).map (fun x => (x.crew.endKind, x.crew.endStatus, x.waves.map (·.2.fibres))) = some (2, 0, [[]]) ∧
    mget (after (.crewEnd (12288 + 5)) rigEnded).saved 5 = none := by decide

/-- A notification waits at a ring that holds `n` others; lanes 0 and 31 are parked. -/
def rigNotes (n : Nat) (first : Byte) : State := { rigW [] [] fun w => { w with
    fibres := [(0, { rigFibre with wait := .parked }), (31, { rigFibre with wait := .parked })]
    lanes := [(0, { laneInit with trap := ⟨0x200, 0, 25, 1, 8⟩, svc := { laneInit.svc with resume := 0x300 } })] } with
  cores := [(0, { coreInit with
    notices := ⟨[(0, first :: copies 15 0)], 0, n, [toBytes 16 1]⟩
    acts := [(0, endRecord 0)] })] }

theorem test_meets_CrewsAndNotices_notices :
    (coreOf (rigNotes 63 2) 0).notices.waiting = [toBytes 16 1] ∧ ((coreOf (rigNotes 63 2) 0).notices.tail + 2 ^ 64 - 0) % 2 ^ 64 = 63 ∧
    ((coreOf (rigNotes 64 2) 0).notices.tail + 2 ^ 64 - 0) % 2 ^ 64 = 64 ∧
    (∀ bs ∈ mget (coreOf (rigNotes 1 2) 0).notices.slots 0, bs.headD 0 ≠ 3) ∧
    mget (coreOf (rigNotes 1 3) 0).notices.slots 0 = some (3 :: copies 15 0) ∧ (coreOf (rigNotes 1 3) 0).acts = (0, endRecord 0) :: [] ∧
    districtAt (rigNotes 1 3) 0 = some rigDistrict ∧
    (∀ l ∈ [0, 31], (0x80000001 : W32).getLsbD l = true ∧ (mget (waveOf (rigNotes 1 2) 0).fibres l).map (·.wait) = some .parked) ∧
    rising (waveOf (rigNotes 1 2) 0).fibres = true ∧ (crewAt (rigNotes 1 2) 0).isSome = true := by decide

theorem test_commands :
    laneStands (after (.resumeAtTrappc 0 (cmdWord 1 0 1)) (rigNotes 1 2)) 0 = some (0x200, 8, .paced 0) ∧
    laneStands (after (.resumeAtTrappc 0 (cmdWord 1 0 1)) (rigNotes 1 2)) 31 = some (0x100, 0, .parked) ∧
    (laneStands (after (.resumeAtResumePc 0 (cmdWord 2 0 1)) (rigNotes 1 2)) 0).map (·.1) = some 0x300 ∧
    laneStands (after (.endFibre 0 (cmdWord 3 0 1)) (rigNotes 1 2)) 0 = some (0x100, 0, .quit 102) ∧
    (crewAt (after (.passToFaultDomain 0 (cmdWord 4 0 0x80000001)) (rigNotes 1 2)) 0).map (fun c => (c.endKind, c.endStatus)) = some (2, 25) ∧
    (laneStands (after (.postServiceReply 0 (cmdWord 5 0 1)) (asking false 0 1 (rig [] []))) 0).map (·.1) = some 0x101 ∧
    ((coreOf (after (.notificationPost 0) (rigNotes 63 2)) 0).notices.tail, (coreOf (after (.notificationPost 0) (rigNotes 64 2)) 0).notices.tail) = (64, 64) ∧
    (coreOf (after (.notificationRingHeadWrite 0 1) (rigNotes 1 2)) 0).notices.head = 1 ∧
    (coreOf (after (.notificationRingHeadWrite 0 2) (rigNotes 1 2)) 0).notices.head = 0 ∧
    ((districtAt (after (.dependantRelease 0) (rigNotes 1 3)) 0).map (·.evConsumed)) = some 1 := by decide

/-- A task type: entry at 0x1000, one wave of 64 registers with two fibres (R332). -/
def typeBytes : List Byte := toBytes 8 0x1000 ++ toBytes 8 0 ++ toBytes 2 64 ++ toBytes 2 0 ++ [1, 0, 2, 0] ++ toBytes 4 4096 ++ toBytes 4 0 ++ toBytes 4 0 ++
  toBytes 4 0 ++ [0, 1] ++ copies 22 0
/-- One record of that type waits in queue 15. With `budget` 0 the district may have no core. -/
def placeDistrict (types : List (List Byte)) (budget : Byte) (waiting : Nat) : District := { spawnDistrict waiting with
  types := types
  block := blockOf [(8, 0x90), (0x20, budget), (0x24, 8), (0x28, 2), (0x2C, 0), (0x50, 1)] }
def rigPlace (types : List (List Byte)) (budget : Byte) (waiting : Nat) : State := { rig [] [] with
  waves := []
  crews := []
  districts := [(0, placeDistrict types budget waiting)] }
def oneRecord : TaskQueue := ⟨0x8000, 1, [⟨none, none⟩], 1, 0, 0, false, [], 0, none⟩

theorem test_one_head (types : List (List Byte)) (budget : Byte) (h : schedulerRuns (rigPlace types budget 1) 0 = true)
    (g : replayMode (rigPlace types budget 1) 0 = 0) :
    OneHead (rigPlace types budget 1) 0 0 15 oneRecord ⟨none, none⟩ := by
  refine ⟨h, rfl, rfl, ⟨rfl, rfl, rfl⟩, ?_, rfl, ⟨rfl, ?_⟩, g⟩
  · intro e he _
    have : allQueues (rigPlace types budget 1) = [(0, 15, oneRecord)] := rfl
    rw [this, List.mem_singleton] at he
    subst he
    exact ⟨rfl, fun _ => rfl⟩
  · intro k b hb
    have : districtAt (rigPlace types budget 1) k = if k = 0 then some (placeDistrict types budget 1) else none := by
      by_cases hk : k = 0
      · subst hk; rfl
      · simp [districtAt, mget, rigPlace, hk, Ne.symm hk]
    rw [this] at hb
    split at hb
    · obtain rfl := Option.some.inj hb; rfl
    · simp at hb

/-- What a head is: a task whose type is that entry, or a bad record. -/
def headTask (s : State) : Option (List Byte × Need) := match headOf s 0 15 with | .task h => some (h.entry, h.need) | _ => none
def headBad (s : State) : Bool := match headOf s 0 15 with | .bad m => m == ⟨none, none⟩ | _ => false

theorem test_meets_Placement :
    schedulerRuns (rigPlace [typeBytes] 1 1) 0 = true ∧ replayMode (rigPlace [typeBytes] 1 1) 0 = 0 ∧ replayMode (rigPlace [typeBytes] 0 1) 0 = 0 ∧
    replayMode (rigPlace [] 1 1) 0 = 0 ∧ headTask (rigPlace [typeBytes] 1 1) = some (typeBytes, ⟨64, 1, 4096, 0, false, 0⟩) ∧
    tyGang typeBytes = 0 ∧ dependsMet (rigPlace [typeBytes] 1 1) none = true ∧
    coreFits (rigPlace [typeBytes] 1 1) ⟨64, 1, 4096, 0, false, 0⟩ 0 = true ∧
    overBudget (rigPlace [typeBytes] 1 1) 0 [0] ⟨64, 1, 4096, 0, false, 0⟩ = false ∧
    schedulerRuns (rigPlace [typeBytes] 0 1) 0 = true ∧ headTask (rigPlace [typeBytes] 0 1) = some (typeBytes, ⟨64, 1, 4096, 0, false, 0⟩) ∧
    (∀ c ∈ List.range 96, overBudget (rigPlace [typeBytes] 0 1) 0 [c] ⟨64, 1, 4096, 0, false, 0⟩ = true) ∧ oneRecord.age < 63 ∧
    headBad (rigPlace [] 1 1) = true ∧ schedulerRuns State.reset 0 = false := by decide

theorem test_placement :
    (crewAt (after (.placementPass 0 []) (rigPlace [typeBytes] 1 1)) 0).map (fun c => (c.scratch, c.dispatcher, c.since)) = some (4096, 0, 100) ∧
    (waveAt (after (.placementPass 0 []) (rigPlace [typeBytes] 1 1)) 0 0).map (fun w => (w.id.allot, w.fibres.map fun f => (f.1, f.2.pc))) =
      some (64, [(0, 0x1000), (1, 0x1000)]) ∧
    (queueOf (after (.placementPass 0 []) (rigPlace [typeBytes] 1 1)) 0 15).map (fun q => (q.waiting, q.placed)) = some ([], 1) ∧
    (queueOf (after (.placementPass 0 []) (rigPlace [typeBytes] 0 1)) 0 15).map (fun q => (q.waiting.length, q.age)) = some (1, 1) ∧
    (queueOf (after (.placementPass 0 []) (rigPlace [] 1 1)) 0 15).map (fun q => (q.waiting, q.placed)) = some ([], 1) := by decide

/-- A crew asked to yield, whose one fibre is parked; the same with a fibre that waits for a reply, and with one that is ready. -/
def rigYield (asked : Bool) (wait : Wait) : State := { rig [] [] with
  clock := 2500000
  crews := [(0, { rigCrew with yieldAsked := asked })]
  waves := [(wkey 0 0, { rigWave [] [5] with fibres := [(0, { rigFibre with wait := wait })] })]
  power := { State.reset.power with temps := [(0, 760)] } }
def rigSaved (wait : Wait) : State := { rig [] [] with
  waves := []
  crews := []
  saved := [(5, { savedCrew with waves := [(0, { rigWave [] [] with fibres := [(0, { rigFibre with wait := wait })] })] })] }

theorem test_meets_EvictionAndGating :
    crewAt (rigYield true .parked) 0 = some { rigCrew with yieldAsked := true } ∧ evictNow (rigYield true .parked) 0 = true ∧
    evictNow (rigYield false .parked) 0 = false ∧ rising (rigYield true .parked).crews = true ∧ rising (rigYield true .parked).mem.bytes = true ∧
    (∀ e ∈ (rigYield true .parked).waves, e.2.away = []) ∧
    waveAt (rigYield false (.svc false 6)) 0 64 = none ∧ waveBlocks (rigYield false (.svc false 6)) (waveOf (rigYield false (.svc false 6)) 0) = true ∧
    waveNoToken (rigYield false (.svc false 6)) 0 0 rigCrew = true ∧ allMonitors (rigYield true .parked) = [] ∧ allMonitors (rigYield false .ready) = [] ∧ schedulerRuns (rigYield false (.svc false 6)) 0 = true ∧
    rising (rigYield false (.svc false 6)).waves = true ∧
    (mget (rigSaved .ready).saved 5).map (savedWakes (rigSaved .ready)) = some true ∧ restorePlace (rigSaved .ready) 5 = some [(5, 0)] ∧
    (mget (rigSaved .parked).saved 5).map (savedWakes (rigSaved .parked)) = some false ∧ rising (rigSaved .ready).saved = true ∧
    tempOf (rigYield false .parked) 0 = 760 ∧ (rigYield false .parked).power.migrateAt = 95 ∧ rigCrew.since + 2500000 ≤ (rigYield false .parked).clock ∧
    tempOf (rigYield false .parked) 23 ≤ 8 * 95 - 80 ∧ ¬ 8 * 95 ≤ tempOf (rig [] []) 0 ∧
    partRuns (rigYield false .ready) 0 = true ∧ (partOf (rigYield false .ready) 0).restarting = false ∧ swapReady (rigYield false .ready) 0 = false ∧
    swapReady (rigYield true .parked) 0 = true ∧ (∀ e ∈ (rigYield true .parked).waves, ∀ f ∈ e.2.fibres, f.2.wait ≠ .tile) ∧
    (rigYield true .parked).saved = [] ∧ crewAt (rig [] []) 0 = some rigCrew ∧ (rigYield false .ready).cores = [] ∧
    (∀ e ∈ (rigYield false .ready).crews, e.1 / 64 ≠ 191) := by decide

theorem test_unbound : unbound (rigYield true .parked) rigCrew := by
  intro k b hb
  refine .inl ?_
  simp only [crewAt, rigYield, mget] at hb
  split at hb
  · obtain rfl := Option.some.inj hb; rfl
  · simp at hb

theorem test_eviction :
    (crewAt (after (.crewEviction 0) (rigYield true .parked)) 0).isNone = true ∧
    ((after (.crewEviction 0) (rigYield true .parked)).saved.map fun e => (e.2.kind, e.2.waves.map fun w => rget w.2.regs.s 1)) = [(.evicted, [9])] ∧
    (waveAt (after (.waveEviction 0 0) (rigYield false (.svc false 6))) 0 64).isSome = true ∧
    (waveAt (after (.crewRestore 5) (rigSaved .ready)) 0 0).map (fun w => rget w.regs.s 1) = some 9 ∧
    (after (.crewRestore 5) (rigSaved .parked)).saved.length = 1 ∧
    (crewAt (after (.thermalMigration 0) (rigYield false .parked)) 0).map (fun c => (c.yieldAsked, c.migrating)) = some (true, true) ∧
    (crewAt (after (.partitionSwap 0) (rigYield false .ready)) 0).map (·.yieldAsked) = some true ∧
    ((after (.partitionSwap 0) (rigYield true .parked)).saved.map fun e => e.2.kind) = [.shadow] ∧
    (coreOf (after (.clusterGate 191) (rigYield false .ready)) 767).gated = true ∧ (coreOf (after (.clusterGate 0) (rigYield false .ready)) 0).gated = false ∧
    (coreOf (after (.clusterUngate 191) (after (.clusterGate 191) (rigYield false .ready))) 767).gated = false := by decide

/-! ## Witnesses: debugging and paging -/

/-- Function 64 whose debug window names district 0 and a buffer at 0x4000 of host memory. -/
def dbgFunction (handle : Nat) : Function := { functionInit with
  enabled := true
  windows := [(0, (0x4000, 0x8000))]
  handles := [(0, 0)]
  dbgHandle := handle
  dbgAddr := 0x4000 }
/-- A descriptor: a ring of 16 entries at 0x9000, period 256, span 5, capture running (R406). -/
def descriptor (period : Nat) (mon : List Byte) : List Byte := toBytes 8 0x9000 ++ toBytes 4 16 ++ toBytes 4 period ++ toBytes 4 5 ++ toBytes 12 0 ++ toBytes 4 2 ++
  toBytes 4 0 ++ mon ++ toBytes 48 0 ++ toBytes 24 0
def writeHost (bs : List Byte) : Memory := writeBytes [] (hostPlace 0x4000) bs
def rigDebug (handle : Nat) (bs : List Byte) (dbg : Debug → Debug) : State := { rig [0] [] with
  functions := [(64, dbgFunction handle)]
  districts := [(0, { rigDistrict with dbg := dbg rigDistrict.dbg })]
  mem := { State.reset.mem with bytes := writeHost bs } }
/-- A stop at the word 0x200 when it equals 7 (R412). -/
def monBytes (cond : Byte) : List Byte := toBytes 8 0x200 ++ toBytes 4 7 ++ [cond, 1] ++ toBytes 2 0

theorem test_meets_DebugAndReplay_commands :
    mget (functionAt (rigDebug 0 [] id) 64).handles (functionAt (rigDebug 0 [] id) 64).dbgHandle = some 0 ∧
    districtAt (rigDebug 0 [] id) 0 = some rigDistrict ∧ ((List.range 192).all fun i => inWindow (rigDebug 0 [] id) 64 (0x4000 + i)) = true ∧
    readPlaces (rigDebug 0 (descriptor 256 (copies 16 0)) id) ((List.range 128).map fun i => hostPlace (0x4000 + i)) = descriptor 256 (copies 16 0) ∧
    (monitorsIn (rigDebug 0 [] id) rigDistrict (descriptor 256 (monBytes 1)) 4).isSome = true ∧
    (∀ e ∈ (rigDebug 0 [] id).functions, e.2.dirtyOn = false) ∧ rigDistrict.dbg.trace.ring = 0 ∧
    mget (functionAt (rigDebug 9 [] id) 64).handles (functionAt (rigDebug 9 [] id) 64).dbgHandle = none := by decide

theorem test_descriptors : badDescriptor (descriptor 255 (copies 16 0)) ∧ ¬ badDescriptor (descriptor 256 (copies 16 0)) ∧
    ¬ badDescriptor (descriptor 0x1000000 (copies 16 0)) ∧ badMonitor (monBytes 5) ∧ ¬ badMonitor (monBytes 4) := by
  refine ⟨.inr (.inl (by decide)), ?_, ?_, .inr (.inl (by decide)), ?_⟩
  · rintro (h | h | ⟨i, hi, h⟩ | h | h | h | h | h)
    · revert h; decide
    · revert h; decide
    · revert h; revert i; decide
    all_goals revert h; decide
  · rintro (h | h | ⟨i, hi, h⟩ | h | h | h | h | h)
    · revert h; decide
    · revert h; decide
    · revert h; revert i; decide
    all_goals revert h; decide
  · rintro (h | h | h | h) <;> revert h <;> decide

def running (d : Debug) : Debug := { d with capture := 1, trace := { d.trace with period := 256 }, samples := [(0, (100, 0))] }
def sampleWave (issue : Option (Nat × W64 × W32)) (fs : List (Nat × Fibre)) : Wave := { rigWave [] [] with
  fibres := fs
  sched := { waveInit.sched with lastIssue := issue } }

/-- A district that records or replays into a ring of 4 entries at 0xA000, whose header holds head and tail (R417, R418). -/
def replayDistrict (mode : Byte) (gone : List (Nat × Nat)) : District := { rigDistrict with
  block := blockOf [(8, 0x48), (0x1C, 2 * mode), (0x39, 0xA0), (0x40, 4)]
  replay := ⟨false, gone, []⟩ }
def rigReplay (mode : Byte) (gone : List (Nat × Nat)) (head tail : Nat) : State := { rigW [] [] fun w => { w with
    fibres := [(0, { rigFibre with wait := .replay }), (1, { rigFibre with wait := .replay })] } with
  districts := [(0, replayDistrict mode gone)]
  mem := { State.reset.mem with bytes := writeBytes (writeBytes (writeBytes [] 0x1000000A000 (toBytes 8 head)) 0x1000000A008 (toBytes 8 tail)) 0x1000000A025 [1, 0, 0, 0, 0, 0] } }

theorem test_meets_DebugAndReplay :
    sampleDue (rigDebug 0 [] running) 0 0 = true ∧ (running rigDistrict.dbg).trace.ring = 0 ∧ rising (rigDebug 0 [] running).waves = true ∧
    sampleSlots (rigDebug 0 [] running) 0 0 = [0] ∧ rigDistrict.dbg.capture = 0 ∧
    (sampleWave (some (100, 0x100, 1)) [(0, rigFibre)]).sched.lastIssue = some (100, 0x100, 1) ∧ (rig [] []).clock = 100 ∧
    (sampleWave none []).fibres = [] ∧ quitDeferred (rig [] []) (sampleWave none []) = false ∧
    replayMode (rigReplay 1 [] 3 0) 0 = 1 ∧ replayHead (rigReplay 1 [] 3 0) 0 - replayTail (rigReplay 1 [] 3 0) 0 = 3 ∧ replayEntries (rigReplay 1 [] 3 0) 0 = 4 ∧
    replayWaits (rigReplay 1 [] 3 0) 0 (fun _ _ => true) = true ∧ replayMode (rigReplay 0 [] 3 0) 0 = 0 ∧
    replayHead (rigReplay 1 [] 4 0) 0 - replayTail (rigReplay 1 [] 4 0) 0 = 4 ∧ replayMode (rigReplay 2 [] 1 0) 0 = 2 ∧
    replayTail (rigReplay 2 [] 1 0) 0 < replayHead (rigReplay 2 [] 1 0) 0 ∧ agentGone (rigReplay 2 [(0, 0)] 1 0) 0 (rrecAt (rigReplay 2 [(0, 0)] 1 0) 0 0) = true ∧
    agentGone (rigReplay 2 [] 1 0) 0 (rrecAt (rigReplay 2 [] 1 0) 0 0) = false ∧ bf (rrecAt (rigReplay 2 [] 1 0) 0 0) 5 1 = 1 ∧
    bf (rrecAt (rigReplay 2 [] 1 0) 0 0) 0x0B 1 = 0 ∧ (replayHead (rigReplay 2 [] 1 1) 0, replayTail (rigReplay 2 [] 1 1) 0) = (1, 1) := by decide

theorem test_debug :
    (districtAt (after (.loadDescriptor 64) (rigDebug 0 (descriptor 256 (monBytes 1)) id)) 0).map (fun d => (d.dbg.trace.ring, d.dbg.capture, d.dbg.monitors.length)) =
      some (0x9000, 1, 1) ∧
    (functionAt (after (.loadDescriptor 64) (rigDebug 0 (descriptor 255 (monBytes 1)) id)) 64).dbgStat = 2 ∧
    readNat (after (.readCounters 64) (rigDebug 0 [] fun d => { d with counters := [(15, 9)] })).mem.bytes (hostPlace 0x4000 + 120) 8 = 9 ∧
    (districtAt (after (.startCapture 64) (rigDebug 0 [] id)) 0).map (·.dbg.capture) = some 1 ∧
    (districtAt (after (.stopCapture 64) (rigDebug 0 [] fun d => { d with capture := 2 })) 0).map (·.dbg.capture) = some 2 ∧
    (districtAt (after (.unfreeze 64) (rigDebug 0 [] fun d => { d with capture := 2 })) 0).map (·.dbg.capture) = some 0 ∧
    (districtAt (after (.pcSample 0 0) (rigDebug 0 [] running)) 0).map (·.dbg.samples) = some [(0, (356, 0))] ∧
    (laneStands (after (.replayLogStallRelease 0) (rigReplay 1 [] 3 0)) 1).map (fun p => (p.1, p.2.2)) = some (0x100, .again) ∧
    laneStands (after (.replayLogStallRelease 0) (rigReplay 1 [] 4 0)) 1 = some (0x100, 0, .replay) ∧
    (laneStands (after (.replayEventResolve 0) (rigReplay 2 [] 1 0)) 0).map (fun p => (p.1, p.2.2)) = some (0x100, .again) ∧
    laneStands (after (.replayEventResolve 0) (rigReplay 2 [] 1 0)) 1 = some (0x100, 0, .replay) ∧
    (districtAt (after (.replayEventResolve 0) (rigReplay 2 [(0, 0)] 1 0)) 0).map (·.replay.diverged) = some true := by decide

/-- The tables of context 0 with core 0 as its handler and a quota; page 0 is mapped with this leaf. -/
def rigPager (handler : Byte) (quota : Byte) (leaf : Byte) : State := { rigPaged [] [] leaf [] with
  mem := { State.reset.mem with bytes := (2, 0x20) :: (8, 1 + 2 * handler) :: (if quota = 0 then [] else [(12, quota)]) ++ (tables leaf []).drop 2 } }
def page (ia leaf count : Nat) : PageCmd := ⟨0, 0, BitVec.ofNat 32 count, BitVec.ofNat 64 ia, BitVec.ofNat 64 leaf, 0⟩
def handlesB (s : State) (cmd : PageCmd) : Bool := cmd.rsv1 == 0 && cmd.rsv18 == 0 && 1 ≤ cmd.count.toNat && cmd.count.toNat ≤ 65536 && cmd.ctx.toNat < 4096 &&
  cmd.ia.toNat % 65536 == 0 && cmd.ia.toNat / 2 ^ 48 == 0 && cmd.ia.toNat % 2 ^ 48 + 65536 * cmd.count.toNat ≤ 2 ^ 48 && ctxHandler s 0 cmd.ctx.toNat == some 0

/-- A load of the unmapped page at 0x10000 is held; page 0 is where it would find its bytes after all. -/
def rigRetry : State := { rigHeld pagedDistrict .page (.hold 7) with mem := (rigPager 1 0 0xC3).mem }

theorem test_quiet (handler quota leaf : Byte) : quietCores (rigPager handler quota leaf) := by
  exact ⟨fun c x h => absurd h List.not_mem_nil, rfl, rfl⟩

theorem test_plain_leaf : plainLeaf 0xFFFFF0003 ∧ ¬ plainLeaf 0x13 ∧ plainLeaf 0x220003 := by unfold plainLeaf; decide

theorem test_meets_PagingCommands_commands :
    handlesB (rigPager 1 0 3) (page 0x10000 0x220003 1) = true ∧ ctxValid (rigPager 1 0 3) 0 0 = true ∧ mapsPage (rigPager 1 0 3) 0 0 0x10000 = false ∧
    (leafSlot (rigPager 1 0 3) 0 0 0x10000).2 = 16 ∧ handlesB (rigPager 1 0 3) (page 0xFFFFFFFF0000 0x13 1) = true ∧
    handlesB (rigPager 1 0 3) (page 0 0x220003 2) = true ∧ mapsPage (rigPager 1 0 3) 0 0 0 = true ∧ (leafSlot (rigPager 1 0 3) 0 0 0).2 = 16 ∧
    handlesB (rigPager 1 0 0x23) (page 0 0 65536) = true ∧
    (match walk (rigPager 1 0 0x23) 0 0 0 with | .leaf e _ _ => e / 32 % 2 == 1 | .none _ => false) = true ∧
    (match walk (rigPager 1 0 3) 0 0 0 with | .leaf e _ _ => e / 32 % 2 == 0 | .none _ => false) = true ∧ Memory.wf (rigPager 1 0 3).mem.bytes = true ∧
    (partOf (rigPager 1 0 3) 0).tableAt % 8 = 0 ∧ waitingDistricts (rigPager 1 0 3) (page 0x10000 0 1) 65536 = [] ∧
    handlesB rigRetry (page 0 0 1) = true ∧ access rigRetry pagedDistrict (.near 0) permR 0x200 4 = .places ((List.range 4).map (0x210200 + ·)) ∧
    markAccess rigRetry pagedDistrict false 0x200 4 = rigRetry ∧ anyReset rigRetry pagedDistrict 0x200 4 = false ∧
    ((List.range 4).map (0x210200 + ·)).all (fun p => !sharedPlace rigRetry p) = true ∧
    engineOwns rigRetry ((List.range 4).map (0x210200 + ·)) = false ∧ poisoned rigRetry ((List.range 4).map (0x210200 + ·)) = false ∧
    reqPages rigRetry (ldReq .page).req = [0] ∧ ctxHandler (rigPager 0 0 3) 0 0 = none := by decide

def missOne : Miss := ⟨0, 0x10000, 1⟩
def rigMiss (handler quota : Byte) (n : Nat) (served : Bool) : State := { rigPager handler quota 3 with
  cores := [(0, { coreInit with pageRing := ⟨[], 0, n, []⟩ })]
  partitions := [(0, { partInit with carve := 2 ^ 24, toPost := if served then [] else [missOne], toServe := if served then [missOne] else [] })] }

theorem test_meets_PagingCommands_faults :
    (partOf (rigMiss 1 0 63 false) 0).toPost = missOne :: [] ∧ ctxHandler (rigMiss 1 0 63 false) 0 0 = some 0 ∧
    ((coreOf (rigMiss 1 0 63 false) 0).pageRing.tail + 2 ^ 64 - (coreOf (rigMiss 1 0 63 false) 0).pageRing.head) % 2 ^ 64 = 63 ∧
    ((coreOf (rigMiss 1 0 64 false) 0).pageRing.tail + 2 ^ 64 - (coreOf (rigMiss 1 0 64 false) 0).pageRing.head) % 2 ^ 64 = 64 ∧
    (coreOf (rigMiss 1 0 63 false) 0).pageRing.waiting = [] ∧ ctxHandler (rigMiss 0 0 0 false) 0 0 = none ∧
    (partOf (rigMiss 0 0 0 true) 0).toServe = missOne :: [] ∧ mapsPage (rigMiss 0 0 0 true) 0 0 0x10000 = false ∧ ctxQuota (rigMiss 0 0 0 true) 0 0 = 0 ∧
    waitingDistricts (rigMiss 0 0 0 true) (page 0x10000 0 1) 65536 = [] ∧ ctxQuota (rigMiss 0 7 0 true) 0 0 = 7 ∧
    (leafSlot (rigMiss 0 7 0 true) 0 0 0x10000).2 = 16 ∧
    (let z := zeroFrame (rigMiss 0 7 0 true) (hbmPlace 0 (0x22 * 65536)) 65536
     ctxValid z 0 0 = true ∧ mapsPage z 0 0 0x10000 = false ∧ (leafSlot z 0 0 0x10000).2 = 16) ∧ Memory.wf (rigMiss 0 7 0 true).mem.bytes = true := by decide

/-- R382, R383, R385. -/
theorem test_paging :
    (coreOf (after (.map (some 0) 0 (page 0x10000 0x220003 1)) (rigPager 1 0 3)) 0).pgstat = 0 ∧
    readNat (after (.map (some 0) 0 (page 0x10000 0x220003 1)) (rigPager 1 0 3)).mem.bytes 0x202008 8 = 0x220003 ∧
    (coreOf (after (.map (some 0) 0 (page 0 0x220003 2)) (rigPager 1 0 3)) 0).pgstat = 2 ∧
    (coreOf (after (.map (some 0) 0 (page 0x10000 0x13 1)) (rigPager 1 0 3)) 0).pgstat = 3 ∧
    (coreOf (after (.inval (some 0) 0 (page 0x10000 0 1)) (rigPager 0 0 3)) 0).pgstat = 4 ∧
    mapsPage (after (.unmap (some 0) 0 (page 0 0 1)) (rigPager 1 0 3)) 0 0 0 = false ∧
    (coreOf (after (.unmap (some 0) 0 (page 0 0 1)) (rigPager 1 0 0x23)) 0).pgstat = 2 ∧
    (laneStands (after (.retry (some 0) 0 (page 0 0 1)) rigRetry) 0).map (·.1) = some 0x101 ∧
    (coreOf (after (.noframe (some 0) 0 (page 0 0 1)) (rigPager 1 0 3)) 0).pgstat = 0 := by decide

theorem test_page_faults :
    (coreOf (after (.pageFaultRecord 0) (rigMiss 1 0 63 false)) 0).pageRing.tail = 64 ∧ (coreOf (after (.pageFaultRecord 0) (rigMiss 1 0 64 false)) 0).pageRing.tail = 64 ∧
    (partOf (after (.pageFaultRecord 0) (rigMiss 0 0 0 false)) 0).toServe = [missOne] ∧
    (coreOf (after (.pageFaultRingHeadWrite 0 63) (rigMiss 1 0 63 false)) 0).pageRing.head = 63 ∧
    (coreOf (after (.pageFaultRingHeadWrite 0 64) (rigMiss 1 0 63 false)) 0).pageRing.head = 0 ∧
    readNat (after (.firmwarePageFaultService 0 0x22) (rigMiss 0 7 0 true)).mem.bytes 0x202008 8 = 0x220003 ∧
    readNat (after (.firmwarePageFaultService 0 0x22) (rigMiss 0 7 0 true)).mem.bytes 0x0C 4 = 6 := by decide

/-! ## Witnesses: host queues -/

/-- Queue 63 of function 64: 16 entries at 0x4000 of host memory, the last of which is at its head. -/
def rigQ : HostQueue := ⟨16, 15, 5, false, false, false, 0x4000, 0x904, 0x5000, 4, 15, true, false, 0, none, [(14, 2)], [], 0, 0, 0⟩
def rigQueues (x : HostQueue) (bs : Memory) : State := { rig [] [] with
  functions := [(64, { dbgFunction 0 with handles := [(0, 0), (5, 9)] })]
  queues := [(4159, x)]
  mem := { State.reset.mem with bytes := bs } }
def sizedEntry (n : Nat) (xs : List (Nat × Byte)) : List Byte := (List.range n).map fun i => (mget xs i).getD 0
/-- The queue whose head entry has these bytes, over this device memory. -/
def rigEntry (x : HostQueue) (xs : List (Nat × Byte)) (bs : Memory) : State :=
  rigQueues x (bs ++ xs.map fun e => (hostPlace 0x43C0 + e.1, e.2))
def headB (s : State) (xs : List (Nat × Byte)) : Bool :=
  let x := hostQueue s 4159
  x.ctl.getLsbD 0 && !x.ctl.getLsbD 1 && x.current == none && decide (x.head.toNat < x.tail.toNat) && schedulerRuns s x.part &&
    match ringPlaces s 64 (x.ringCfg.getLsbD 15) (x.ringBase.toNat + 64 * (x.head.toNat % 2 ^ min 16 (max 1 (x.ringCfg.toNat % 32)))) 64 with
    | none => false
    | some ps => sizedEntry 64 xs == readPlaces s ps

theorem test_queue_is (s : State) : QueueIs s 64 63 4159 (hostQueue s 4159) := ⟨⟨by decide, by decide, rfl⟩, rfl⟩
theorem test_head_entry (s : State) (xs : List (Nat × Byte)) (h : headB s xs = true) :
    HeadEntry s 64 63 4159 (hostQueue s 4159) (sizedEntry 64 xs) := by
  simp only [headB, Bool.and_eq_true, decide_eq_true_eq, Bool.not_eq_true', beq_iff_eq] at h
  obtain ⟨⟨⟨⟨⟨h1, h2⟩, h3⟩, h4⟩, h5⟩, h6⟩ := h
  refine ⟨test_queue_is s, ⟨h1, h2, h3, h4⟩, h5, ?_⟩
  split at h6
  · cases h6
  · exact ⟨_, by assumption, eq_of_beq h6⟩

theorem test_untracked (x : HostQueue) (bs : Memory) : untracked (rigQueues x bs) := by
  intro e he; simp only [rigQueues, List.mem_singleton] at he; subst he; rfl

def ended : QDone := ⟨14, 1, 0, 0, 0, true⟩

theorem test_meets_Doorbells :
    (5 : Nat) ≤ 64 ∧ (0 : Nat) ≤ 63 ∧ (hostQueue State.reset 320).head.toNat + 2 ^ min 16 (max 1 ((hostQueue State.reset 320).ringCfg.toNat % 32)) = 2 := by decide

theorem test_meets_QueueControl :
    (17 : Nat) ≤ (hostQueue (rigQueues { rigQ with head := 1 } []) 4159).head.toNat + 2 ^ min 16 (max 1 (rigQ.ringCfg.toNat % 32)) ∧
    rigQ.head.toNat + 2 ^ min 16 (max 1 (rigQ.ringCfg.toNat % 32)) < 32 ∧ { rigQ with ctl := 0, imported := true }.ctl.getLsbD 0 = false ∧
    rigQ.ctl.getLsbD 0 = true ∧ { rigQ with ctl := 3 }.ctl.getLsbD 1 = true ∧ (rigQueues rigQ []).launches = [] ∧
    { rigQ with done := [ended] }.done = ended :: [] ∧ schedulerRuns (rigQueues { rigQ with done := [ended] } []) 0 = true ∧
    (ringPlaces (rigQueues { rigQ with done := [ended] } []) 64 false (0x5000 + 16 * (15 % 16)) 16).isSome = true ∧
    16 ≤ 2 ^ min 16 (max 1 (rigQ.cplCfg.toNat % 32)) ∧ rigQ.done = [] := by decide

/-- A completion ring in which every entry that was written may still be unread (R351), whatever the host has read. -/
theorem test_meets_QueueControl_full : let x := { rigQ with cplWritten := Config.cplTaken 4159 100 + 16 }
    (rigQueues x []).clock = 100 ∧ ¬ (x.cplWritten < 16 ∨ x.cplWritten - Config.cplTaken 4159 100 < 16) ∧ rigQ.cplWritten < 16 := by
  refine ⟨rfl, ?_, by decide⟩
  rintro (h | h) <;> revert h <;> simp

def reported : State := after (.completionEntryWrite 64 63) (rigQueues { rigQ with done := [ended] } [])

/-- R346, R347, R351, R353. -/
theorem test_queue_control :
    (hostQueue (after (.qtaildbWrite 64 63 0 8 31) (rigQueues rigQ [])) 4159).tail = 31 ∧
    (hostQueue (after (.qtaildbWrite 64 63 0 8 32) (rigQueues rigQ [])) 4159).overrun = true ∧
    (hostQueue (after (.qtaildbWrite 64 63 0 8 32) (rigQueues rigQ [])) 4159).tail = 16 ∧
    (functionAt (after (.qtaildbWrite 64 63 4 4 17) (rigQueues rigQ [])) 64).messages = [(0, 1)] ∧
    (after (.qstatRead 64 63) (rigQueues { rigQ with errSeen := true } [])).reply.last = [17, 0, 0, 0] ∧
    (hostQueue (after (.qstatRead 64 63) (rigQueues { rigQ with errSeen := true } [])) 4159).errSeen = false ∧
    (hostQueue (after (.queueEnable 64 63) (rigQueues { rigQ with ctl := 0 } [])) 4159).tail = 0 ∧
    (hostQueue (after (.queueEnable 64 63) (rigQueues { rigQ with ctl := 0, imported := true } [])) 4159).tail = 16 ∧
    (hostQueue (after (.queueDisable 64 63) (rigQueues rigQ [])) 4159).ctl = 4 ∧ (hostQueue (after (.queueStop 64 63) (rigQueues rigQ [])) 4159).ctl = 7 ∧
    (hostQueue (after (.queueStopped 64 63) (rigQueues { rigQ with ctl := 3 } [])) 4159).stopped = true ∧
    (hostQueue (after (.queueResume 64 63) (rigQueues { rigQ with ctl := 3, stopped := true } [])) 4159).stopped = false ∧
    (hostQueue reported 4159).cplIndex = 0 ∧ (hostQueue reported 4159).cplPhase = false ∧ (functionAt reported 64).messages = [(9, 1)] ∧
    (byteOf reported (hostPlace 0x50F0), byteOf reported (hostPlace 0x50F9), byteOf reported (hostPlace 0x50FC)) = (14, 1, 1) := by decide

/-- A control block that sets its range registers: one task queue, whose descriptor is at 0x400 (R333, R439). -/
def blockBytes (rsv : Byte) : List (Nat × Byte) := [(0x09, 2), (0x45, rsv), (0x70, 1), (0x74, 1), (0x79, 4), (0x10A, 0x10), (0x116, 8), (0x118, 0xFF), (0x119, 0x1F), (0x11A, 0x9F)]
/-- Device memory with that descriptor, and such a block at 0x1000. -/
def blockMem (rsv : Byte) : Memory := (0x10000000408, 16) :: (blockBytes rsv).map fun e => (0x10000001000 + e.1, e.2)

theorem test_block : blockOk (sizedEntry 768 (blockBytes 0)) = true ∧ blockOk (sizedEntry 768 (blockBytes 1)) = false := by decide

/-- Launch, to queue 0 of district 0: the handle, the records at 0x200, one task, no dependency. -/
def launchEntry (handle queue top : Byte) : List (Nat × Byte) :=
  [(0, 1), (2, handle), (4, queue), (9, 2), (0x10, 1), (0x13, top)] ++ (List.range 8).map fun i => (0x20 + i, 0xFF)
/-- Launch of two tasks after tasks 0 and 1 of entry 14. -/
def dependEntry (last : Byte) : List (Nat × Byte) := [(0, 1), (9, 2), (0x10, 1), (0x20, 14), (0x2C, last)]
def fullQueue (s : State) : State := { s with districts := [(0, { rigDistrict with queues := [(0, ⟨0x8000, 16, [], 16, 0, 0, false, [], 0, none⟩)] })] }
def openLaunch (appended total : Nat) : Launch := ⟨4159, 15, 0, 0, 0x200, 0, appended, total, none, [], [], false, 0, false, false⟩
def ownDistrict : District := { rigDistrict with tenant := 64 }
/-- District 9 under district 0, with its block at 0x1000; a flip's range through tables. -/
def rigChild (s : State) : State := { s with
  serial := 20
  districts := [(0, ownDistrict), (9, { ownDistrict with parent := some 0, depth := 2, blockAt := 0x1000, handle := 5 })] }
def rigFlip (s : State) : State := { s with districts := [(0, pagedDistrict)] }
def flipEntry (page count host : Byte) : List (Nat × Byte) := [(0, 4), (10, page), (0x10, count), (0x14, host)]

theorem test_meets_QueueEntries_launch :
    headB (rigEntry rigQ [(0, 1), (1, 2)] []) [(0, 1), (1, 2)] = true ∧ entryRsvOk (sizedEntry 64 [(0, 1), (1, 2)]) = false ∧
    headB (rigEntry rigQ [(0, 7)] []) [(0, 7)] = true ∧ headB (rigEntry rigQ [] []) [] = true ∧ entryRsvOk (sizedEntry 64 []) = true ∧
    headB (rigEntry rigQ (launchEntry 6 0 0) []) (launchEntry 6 0 0) = true ∧ entryRsvOk (sizedEntry 64 (launchEntry 6 0 0)) = true ∧
    mget (functionAt (rigEntry rigQ [] []) 64).handles 6 = none ∧ mget (functionAt (rigEntry rigQ [] []) 64).handles 0 = some 0 ∧
    headB (rigEntry rigQ (launchEntry 0 15 0) []) (launchEntry 0 15 0) = true ∧ queueOf (rigEntry rigQ [] []) 0 15 = none ∧
    headB (rigEntry rigQ (launchEntry 0 0 1) []) (launchEntry 0 0 1) = true ∧ bf (sizedEntry 64 (launchEntry 0 0 1)) 0x10 4 = 2 ^ 24 + 1 ∧
    headB (rigEntry rigQ (dependEntry 2) []) (dependEntry 2) = true ∧ headB (rigEntry rigQ (dependEntry 1) []) (dependEntry 1) = true ∧
    (14, 2) ∈ rigQ.past ∧ headB (fullQueue (rigEntry rigQ (launchEntry 0 0 0) [])) (launchEntry 0 0 0) = true ∧
    (queueOf (fullQueue (rigEntry rigQ (launchEntry 0 0 0) [])) 0 0).map (fun y => decide (y.entries ≤ y.appended - y.placed)) = some true ∧
    (queueOf (rigEntry rigQ (launchEntry 0 0 0) []) 0 0).map (fun y => decide (y.appended - y.placed < y.entries)) = some true ∧
    (placesWith (rigEntry rigQ (launchEntry 0 0 0) []) 0 permW 0x8000 16).isSome = true ∧ (14 : Nat) < { rigQ with first := 15 }.first ∧
    access (rigEntry rigQ (launchEntry 0 0 0) []) rigDistrict .home permR 0x200 16 = .places (linear 0x200 16) := by decide

theorem test_meets_QueueEntries_signal :
    headB (rigEntry rigQ [(0, 2), (9, 0x7F), (8, 0xF8)] []) [(0, 2), (9, 0x7F), (8, 0xF8)] = true ∧
    entryRsvOk (sizedEntry 64 [(0, 2), (9, 0x7F), (8, 0xF8)]) = true ∧ (rigEntry rigQ [] []).launches = [] ∧
    (ringPlaces (rigEntry rigQ [] []) 64 false 0x7FF8 8).isSome = true ∧ ringPlaces (rigEntry rigQ [] []) 64 false 0x7FF9 8 = none ∧
    headB { rigEntry rigQ [(0, 2)] [] with launches := [(3, openLaunch 0 1)] } [(0, 2)] = true ∧ (openLaunch 0 1).complete = false := by decide

theorem test_meets_QueueEntries_districts :
    headB (rigChild (rigEntry rigQ [(0, 3), (2, 5)] (blockMem 0))) [(0, 3), (2, 5)] = true ∧ entryRsvOk (sizedEntry 64 [(0, 3), (2, 5)]) = true ∧
    (districtAt (rigChild (rigEntry rigQ [] [])) 9).bind (·.parent) = some 0 ∧ districtAt (rigChild (rigEntry rigQ [] [])) 0 = some ownDistrict ∧
    access (rigChild (rigEntry rigQ [] [])) ownDistrict .home permR 0x1000 768 = .places (linear 0x1000 768) ∧
    readPlaces (rigEntry rigQ [] (blockMem 0)) (linear 0x1000 768) = sizedEntry 768 (blockBytes 0) ∧
    readPlaces (rigEntry rigQ [] (blockMem 1)) (linear 0x1000 768) = sizedEntry 768 (blockBytes 1) ∧
    rising (rigChild (rigEntry rigQ [] [])).districts = true ∧ rising (functionAt (rigEntry rigQ [] []) 64).handles = true ∧
    (reloadDistrict (rigChild (rigEntry rigQ [] (blockMem 0))) 9).isSome = true ∧ (reloadDistrict (rigChild (rigEntry rigQ [] (blockMem 1))) 9).isSome = false ∧
    (∀ e ∈ (rigChild (rigEntry rigQ [] (blockMem 0))).districts, e.1 < 2 ^ 32 ∧ e.2.tenant = 64) ∧
    headB (rigChild (rigEntry rigQ [(0, 5), (9, 0x10), (0x10, 1)] (blockMem 0))) [(0, 5), (9, 0x10), (0x10, 1)] = true ∧
    (addDistrict (rigChild (rigEntry rigQ [(0, 5), (9, 0x10), (0x10, 0xFF), (0x11, 0xFF)] (blockMem 0))) 64 (some 0) (sizedEntry 768 (blockBytes 0)) 0x1000 0 1).isSome = true ∧
    headB (rigChild (rigEntry rigQ [(0, 6), (2, 5)] [])) [(0, 6), (2, 5)] = true ∧ districtBusy (rigChild (rigEntry rigQ [(0, 6), (2, 5)] [])) 9 = false ∧
    districtBusy (rigChild (rigEntry rigQ [(0, 6)] [])) 0 = true := by decide

theorem test_no_use (s : State) (h : s.cores = [] ∧ s.fabric.writes = [] ∧ s.hostWrites = [] ∧ s.seqs = [] ∧ s.flights = []) (j : Nat) :
    districtInUse s j = false := by
  obtain ⟨h1, h2, h3, h4, h5⟩ := h
  simp [districtInUse, h1, h2, h3, h4, h5]
theorem test_none_in_use (xs : List (Nat × Byte)) (bs : Memory) : ∀ j, districtInUse (rigChild (rigEntry rigQ xs bs)) j = false :=
  test_no_use _ ⟨rfl, rfl, rfl, rfl, rfl⟩

theorem test_meets_QueueEntries_flip :
    headB (rigFlip (rigEntry rigQ (flipEntry 0 1 1) (tables 3 []))) (flipEntry 0 1 1) = true ∧ entryRsvOk (sizedEntry 64 (flipEntry 0 1 1)) = true ∧
    flipBad (rigFlip (rigEntry rigQ [] (tables 3 []))) pagedDistrict 0 1 = false ∧ flipBad (rigFlip (rigEntry rigQ [] (tables 3 []))) pagedDistrict 0 2 = true ∧
    flipWaits (rigFlip (rigEntry rigQ [] (tables 3 []))) pagedDistrict 0 1 = false ∧ (rigFlip (rigEntry rigQ [] (tables 3 []))).cores = [] ∧
    Memory.wf (tables 3 []) = true ∧ (mget (rigEntry rigQ [] []).partitions 0).map (fun p => p.tableAt % 8) = some 0 ∧ partInit.tableAt % 8 = 0 := by decide

/-- Those tables with a leaf of 2 MiB in the place of the last level (R378). -/
def largeTables : Memory := [(2, 0x20), (8, 1), (0x200000, 1), (0x200001, 0x10), (0x200002, 0x20), (0x201000, 3), (0x201002, 0x40)]
/-- A host write of that page is held at its home. -/
def rigHostWrite : State := { rigFlip (rigEntry rigQ (flipEntry 0 1 0) (tables 3 [])) with hostWrites := [⟨0, 0x200, [1], 0⟩] }

theorem test_meets_QueueEntries_pages :
    (flipLeaf (rigFlip (rigEntry rigQ [] (tables 3 []))) pagedDistrict 0).map (·.2.2.2) = some 16 ∧ allMonitors (rigFlip (rigEntry rigQ [] (tables 3 []))) = [] ∧
    headB (rigFlip (rigEntry rigQ (flipEntry 0 1 1) largeTables)) (flipEntry 0 1 1) = true ∧
    flipBad (rigFlip (rigEntry rigQ [] largeTables)) pagedDistrict 0 1 = false ∧ flipWaits (rigFlip (rigEntry rigQ [] largeTables)) pagedDistrict 0 1 = false ∧
    hostWritesIn (rigFlip (rigEntry rigQ [] largeTables)) pagedDistrict 0 1 = false ∧
    (flipLeaf (rigFlip (rigEntry rigQ [] largeTables)) pagedDistrict 0).map (·.2.2.2) = some 21 ∧
    headB rigHostWrite (flipEntry 0 1 0) = true ∧ flipBad rigHostWrite pagedDistrict 0 1 = false ∧ hostWritesIn rigHostWrite pagedDistrict 0 1 = true := by decide

/-- An engine operation owns a line of the flip's range. -/
def rigOwned : State := { rigFlip (rigEntry rigQ (flipEntry 0 1 1) (tables 3 [])) with
  cores := [(0, { coreInit with ops := [⟨0, none, 0, 0, 0, .mzero (ct 1) ⟨15, 0, 0xFF, 0xFF, 0xFF, 0, 0, 0, 0, 0⟩, 1, [], [], [], none, none, 0, 0, 0, false, 0, false,
    [], [], [], [511], 0, 0, 0, []⟩] })] }

theorem test_meets_QueueEntries_owned :
    headB rigOwned (flipEntry 0 1 1) = true ∧ flipWaits rigOwned pagedDistrict 0 1 = true ∧ flipBad rigOwned pagedDistrict 0 1 = false := by decide

theorem test_meets_QueueEntries_room :
    let s := { rigQueues { rigQ with current := some 3 } [] with launches := [(3, openLaunch 1 2)] }
    mget s.launches 3 = some (openLaunch 1 2) ∧ schedulerRuns s 0 = true ∧ access s rigDistrict .home permR 0x210 16 = .places (linear 0x210 16) ∧
    (queueOf s 0 0).map (fun y => decide (y.appended - y.placed < y.entries)) = some true ∧
    (queueOf (fullQueue s) 0 0).map (fun y => decide (y.entries ≤ y.appended - y.placed)) = some true ∧ (openLaunch 1 2).key = 4159 ∧
    (∀ e ∈ s.launches, e.2.key = 4159 → e.2.appended < e.2.total → e = (3, openLaunch 1 2)) ∧ (rigQueues rigQ []).launches = [] := by decide

/-- Of an entry's completion: status, district handle, and the queue's head. -/
def completes (i : Instr) (s : State) : List (Nat × Nat × Nat) := (hostQueue (after i s) 4159).done.map fun d => (d.op, d.status, d.handle)

/-- R341, R348 to R351, R356, R439. -/
theorem test_queue_entries :
    completes (.entryNop 64 63) (rigEntry rigQ [] []) = [(0, 0, 0)] ∧ completes (.entryNop 64 63) (rigEntry rigQ [(0, 7)] []) = [(7, 1, 0)] ∧
    completes (.launch 64 63) (rigEntry rigQ (launchEntry 6 0 0) []) = [(1, 2, 0)] ∧ completes (.launch 64 63) (rigEntry rigQ (dependEntry 2) []) = [(1, 4, 0)] ∧
    (queueOf (after (.launch 64 63) (rigEntry rigQ (launchEntry 0 0 0) [])) 0 0).map (·.appended) = some 1 ∧
    (hostQueue (after (.launch 64 63) (fullQueue (rigEntry rigQ (launchEntry 0 0 0) []))) 4159).current.isSome = true ∧
    (hostQueue (after (.launchAppendOnRoom 64 63) { rigQueues { rigQ with current := some 3 } [] with launches := [(3, openLaunch 1 2)] }) 4159).head = 16 ∧
    completes (.signal 64 63) (rigEntry rigQ [(0, 2), (9, 0x10)] []) = [(2, 1, 0)] ∧
    byteOf (after (.signal 64 63) (rigEntry rigQ [(0, 2), (9, 0x60), (0x18, 77)] [])) (hostPlace 0x6000) = 77 ∧
    completes (.flip 64 63) (rigFlip (rigEntry rigQ (flipEntry 0 2 1) (tables 3 []))) = [(4, 6, 0)] ∧
    byteOf (after (.flip 64 63) (rigFlip (rigEntry rigQ (flipEntry 0 1 1) (tables 3 [])))) 0x202000 = 0x13 ∧
    byteOf (after (.flip 64 63) (rigFlip (rigEntry rigQ (flipEntry 0 1 0) (tables 0x13 [])))) 0x202000 = 3 ∧
    (after (.flip 64 63) (rigFlip (rigEntry rigQ (flipEntry 0 1 1) largeTables))).mem.flipped = [(0, 0)] := by decide

theorem test_district_entries :
    completes (.reload 64 63) (rigChild (rigEntry rigQ [(0, 3), (2, 5)] (blockMem 0))) = [(3, 0, 0)] ∧
    completes (.reload 64 63) (rigChild (rigEntry rigQ [(0, 3), (2, 5)] (blockMem 1))) = [(3, 1, 0)] ∧
    completes (.createDistrict 64 63) (rigChild (rigEntry rigQ [(0, 5), (9, 0x10), (0x10, 0xFF), (0x11, 0xFF)] (blockMem 0))) = [(5, 0, 1)] ∧
    completes (.createDistrict 64 63) (rigChild (rigEntry rigQ [(0, 5), (9, 0x10), (0x10, 5)] (blockMem 0))) = [(5, 7, 0)] ∧
    completes (.destroyDistrict 64 63) (rigChild (rigEntry rigQ [(0, 6), (2, 5)] [])) = [(6, 0, 0)] ∧
    (after (.destroyDistrict 64 63) (rigChild (rigEntry rigQ [(0, 6), (2, 5)] []))).districts = [(0, ownDistrict)] ∧
    completes (.destroyDistrict 64 63) (rigChild (rigEntry rigQ [(0, 6)] [])) = [(6, 8, 0)] := by decide

/-! ## Witnesses: functions, migration, firmware, code -/

/-- A register of queue 63 of function 64. -/
def queueReg (o : Nat) : RegTarget := .bar0 64 (0x10000 + 0x1000 * 63 + o)
/-- Lane 31 of the rig's wave stands so; its register v63 at core 0, slot 0. -/
def rigLane31 (w : Wait) : State := rigW [] [] fun x => { x with fibres := [(31, { rigFibre with wait := w })] }
def laneReg : RegTarget := .supervisor 0 (0x10000000 + 0x800 * 31 + 4 * 63)

theorem test_meets_RegisterWrites :
    { rigQ with ctl := 0 }.ctl.getLsbD 0 = false ∧ rigQ.ctl.getLsbD 0 = true ∧ (0xFFFFFFFFFFFFFFC0 : W64).toNat % 64 = 0 ∧
    (0x4001 : W64).toNat % 64 ≠ 0 ∧ (0x4008 : W64).toNat % 16 ≠ 0 ∧ (48 : W64).toNat ≤ 48 ∧ 48 < (BitVec.ofNat 32 (49 : W64).toNat).toNat ∧
    (0xFFFFFFFFFFFFF000 : W64).toNat % 4096 = 0 ∧ (15 : Nat) < 16 ∧ (entryBytes 0x10000 0x10000 0x20000 0 0x83).length = 32 ∧
    (0 : Nat) < 768 ∧ (63 : Nat) < (rigWave [] []).id.allot ∧
    (waveAt (rigLane31 .parked) 0 0).bind (fun w => (mget w.fibres 31).map (·.wait)) = some .parked ∧
    (waveAt (rigLane31 .ready) 0 0).bind (fun w => (mget w.fibres 31).map (·.wait)) = some .ready ∧ waveAt (rigLane31 .ready) 0 64 = none ∧
    (rigLane31 .ready).saved = [] ∧ (65532 : Nat) + 4 ≤ 65536 ∧ (65536 : Nat) < 65534 + 4 := by decide

/-- R342 to R346, R362, R400, R405. -/
theorem test_register_writes :
    (hostQueue (after (.registerWrite (queueReg 0x20) 8 0x6000) (rigQueues { rigQ with ctl := 0 } [])) 4159).ringBase = 0x6000 ∧
    (hostQueue (after (.registerWrite (queueReg 0x20) 8 0x6000) (rigQueues rigQ [])) 4159).ringBase = 0x4000 ∧
    (hostQueue (after (.registerWrite (queueReg 0x28) 4 0xFFFFFFFF) (rigQueues { rigQ with ctl := 0 } [])) 4159).ringCfg = 0xFF1F ∧
    (hostQueue (after (.registerWrite (queueReg 0x38) 4 0xFFFFFFFF) (rigQueues { rigQ with ctl := 0 } [])) 4159).cplCfg = 0x801F ∧
    (hostQueue (after (.registerWrite (queueReg 0x10) 4 7) (rigQueues { rigQ with ctl := 0 } [])) 4159).ctl = 7 ∧
    (hostQueue (after (.registerWrite (queueReg 0x10) 4 2) (rigQueues rigQ [])) 4159).ctl = 2 ∧ (hostQueue (after (.registerWrite (queueReg 0x10) 4 8) (rigQueues rigQ [])) 4159).ctl = 0 ∧
    (after (.registerWrite (.bar0 0 0x2000) 4 48) State.reset).power.limit = 48 ∧ (after (.registerWrite (.bar0 0 0x2000) 4 7) State.reset).power.limit = 7 ∧
    (after (.registerWrite (.bar0 0 0x2000) 4 49) State.reset).power.limit = 48 ∧ (after (.registerWrite (.bar0 1 0x2000) 4 7) State.reset).power.limit = 48 ∧
    (after (.registerWrite (.bar0 0 0x1000) 4 64) State.reset).migrate.fn = 64 ∧
    (functionAt (after (.registerWrite (.bar0 64 0x3000) 2 0x10005) (rigQueues rigQ [])) 64).dbgHandle = 5 ∧
    (functionAt (after (.registerWrite (.window 64 15 0x1000 0x2000) 16 0) (rigQueues rigQ [])) 64).windows.length = 2 ∧
    (functionAt (after (.registerWrite (.window 64 16 0x1000 0x2000) 16 0) (rigQueues rigQ [])) 64).windows.length = 1 ∧
    (functionAt (after (.registerWrite (.aperture 64 15 (entryBytes 0x10000 0x10000 0 0 0x83)) 32 0) (rigQueues rigQ [])) 64).apertures.length = 1 ∧
    (functionAt (after (.registerWrite (.bar4 64 65532) 4 0x1234) State.reset) 64).bar4 = [(65532, 0x34), (65533, 0x12)] ∧
    (functionAt (after (.registerWrite (.bar4 64 65534) 4 0x1234) State.reset) 64).bar4 = [] ∧
    (waveAt (after (.registerWrite laneReg 4 77) (rigLane31 .parked)) 0 0).map (fun w => readTarget w (.v 31 63)) = some 77 ∧
    (waveAt (after (.registerWrite laneReg 4 77) (rigLane31 .ready)) 0 0).map (fun w => readTarget w (.v 31 63)) = some 0 := by decide

/-- Migration of queue 63 of function 64 through a buffer of function 0. -/
def rigMigrate (x : HostQueue) (layout : Byte) : State := { rigQueues x [(hostPlace 0x4000, 0x80), (hostPlace 0x4018, 21), (hostPlace 0x4030, 3), (hostPlace 0x4034, layout)] with
  functions := [(0, dbgFunction 0), (64, dbgFunction 0)]
  migrate := ⟨64, 63, 0x4000, 1⟩ }

theorem test_meets_MigrationAndTracking :
    (1 ≤ (rigMigrate rigQ 1).migrate.fn.toNat ∧ (rigMigrate rigQ 1).migrate.fn.toNat ≤ 64 ∧ (rigMigrate rigQ 1).migrate.q.toNat < 64 ∧
      (rigMigrate rigQ 1).migrate.addr.toNat % 64 = 0) ∧ (ringPlaces (rigMigrate rigQ 1) 0 false 0x4000 256).isSome = true ∧
    rigQ.stopped = false ∧ (∀ e ∈ (rigMigrate { rigQ with stopped := true } 1).functions, e.2.dirtyOn = false) ∧ rigQ.ctl.getLsbD 0 = true ∧
    { rigQ with ctl := 0 }.ctl.getLsbD 0 = false ∧
    readNat (rigMigrate rigQ 1).mem.bytes (hostPlace 0x4034) 4 = 1 ∧ readNat (rigMigrate rigQ 2).mem.bytes (hostPlace 0x4034) 4 = 2 ∧
    State.reset.migrate.fn = 0 ∧ (2 : W32).toNat = 2 ∧ ((1 : W32).toNat = 1 ∧ (3 : W32).toNat = 3 ∧ 4 ≤ (4 : W32).toNat) := by decide

def imported (s : State) : W64 × W64 × Bool × W32 :=
  ((hostQueue s 4159).ringBase, (hostQueue s 4159).tail, (hostQueue s 4159).cplPhase, (hostQueue s 4159).ctl)

/-- R354, R355. -/
theorem test_migration :
    (after (.queueStateExport 1) (rigMigrate rigQ 1)).migrate.stat = 2 ∧
    (after (.queueStateExport 1) (rigMigrate { rigQ with stopped := true } 1)).migrate.stat = 0 ∧
    byteOf (after (.queueStateExport 1) (rigMigrate { rigQ with stopped := true } 1)) (hostPlace 0x4020) = 15 ∧
    byteOf (after (.queueStateExport 1) (rigMigrate { rigQ with stopped := true } 1)) (hostPlace 0x4030) = 11 ∧
    (after (.queueStateImport 2) (rigMigrate rigQ 1)).migrate.stat = 2 ∧ (after (.queueStateImport 2) (rigMigrate { rigQ with ctl := 0 } 2)).migrate.stat = 2 ∧
    imported (after (.queueStateImport 2) (rigMigrate { rigQ with ctl := 0 } 1)) = (0x80, 21, true, 1) ∧
    (functionAt (after (.dirtyTrackingEnable 64 3) (rigQueues rigQ [])) 64).dirtyOn = true ∧
    (functionAt (after (.dirtyTrackingEnable 64 5) (rigQueues rigQ [])) 64).dirtyOn = false ∧
    (functionAt (after (.dirtyBitmapSwap 64 0x4000) (rigQueues rigQ [])) 64).dirtyDone = true ∧
    (functionAt (after (.dirtyBitmapSwap 64 0x4000) { rigQueues rigQ [] with functions := [(64, { dbgFunction 0 with dirtyOn := true })] }) 64).dirtyDone = false ∧
    (functionAt (after (.dirtyTrackingDisable 64 0) { rigQueues rigQ [] with functions := [(64, { dbgFunction 0 with dirtyOn := true })] }) 64).dirtyOn = false ∧
    (functionAt (after (.dirtySwapDone 64) { rigQueues rigQ [] with functions := [(64, { dbgFunction 0 with dirtyDone := false })] }) 64).dirtyDone = true := by decide

/-- Function 64 with entry 15 of its aperture: 64 KiB at 0x10000, the district's from `va`. -/
def rigAperture (va perm : Nat) : State := { rigMem [] [] [(0x1000000FFFF, 9)] with
  functions := [(64, { dbgFunction 0 with apertures := [(15, entryBytes 0x10000 0x10000 va 0 perm)] })] }

theorem test_meets_HostAccesses :
    (functionAt (rigAperture 0 0x83) 64).apertures = [(15, entryBytes 0x10000 0x10000 0 0 0x83)] ∧ mget (functionAt (rigAperture 0 0x83) 64).handles 0 = some 0 ∧
    districtAt (rigAperture 0 0x83) 0 = some rigDistrict ∧ 0x1FFF8 + 8 ≤ 0x10000 + 0x10000 ∧
    access (rigAperture 0 0x83) rigDistrict .home permR 0xFFF8 8 = .places (linear 0xFFF8 8) ∧
    access (rigAperture 0 0x83) rigDistrict .home permW 0xFFF8 8 = .places (linear 0xFFF8 8) ∧ engineOwns (rigAperture 0 0x83) (linear 0xFFF8 8) = false ∧
    homeReset (rigAperture 0 0x83) rigDistrict 0xFFF8 = false ∧ poisoned (rigAperture 0 0x83) (linear 0xFFF8 8) = false ∧
    markAccess (rigAperture 0 0x83) rigDistrict false 0xFFF8 8 = rigAperture 0 0x83 ∧ markAccess (rigAperture 0 0x83) rigDistrict true 0xFFF8 8 = rigAperture 0 0x83 ∧
    allMonitors (rigAperture 0 0x83) = [] ∧ (rigAperture 0 0x83).hostWrites = [] ∧ 0x1FFF8 + 8 ≤ 2 ^ 36 ∧ 2 ^ 36 < 2 ^ 36 - 7 + 8 ∧
    (linear 0xFFF8 8).all (fun p => !sharedPlace (rigAperture 0 0x83) p) = true ∧
    (∀ e ∈ (functionAt (rigAperture 0 0x83) 64).apertures, bf e.2 0 8 + bf e.2 8 8 < 0x1FFF9 + 8) ∧
    (∀ e ∈ (functionAt (rigAperture 0 3) 64).apertures, bf e.2 0x1A 1 < 0x80) := by decide

/-- R344. -/
theorem test_apertures :
    (after (.apertureRead 64 0x1FFF8 8) (rigAperture 0 0x81)).reply = ⟨[0, 0, 0, 0, 0, 0, 0, 9], 0⟩ ∧ (after (.apertureRead 64 0x1FFF9 8) (rigAperture 0 0x81)).reply = ⟨[], 1⟩ ∧
    (after (.apertureRead 64 0x1FFF8 8) (rigAperture 0 0x82)).reply = ⟨[], 1⟩ ∧ (after (.apertureRead 64 0x1FFF8 8) (rigAperture 0x100000 0x81)).reply = ⟨[], 1⟩ ∧
    byteOf (after (.apertureWrite 64 0x10000 [7]) (rigAperture 0 0x82)) 0x10000000000 = 7 ∧
    byteOf (after (.apertureWrite 64 0x10000 [7]) (rigAperture 0 0x81)) 0x10000000000 = 0 := by decide

/-! Whether a signature verifies is an uninterpreted value of Config, so no closed term can show an accepted image; the witness of
an accepted image takes that one fact as its hypothesis. -/

def anImage (kind : W16) : Image := ⟨0x464A4231, 1, kind, 5, 0, 0, copies 64 0, copies 168 0, [], copies 29792 0⟩
/-- The fuses hold the digest of the image's key, and this version is the least (R392, R393). -/
def rigBoot (least : Nat) : State := { rigQueues { rigQ with part := 7 } [] with
  secure := { (rigQueues rigQ []).secure with
    roots := [(Config.shake256 (copies 64 0), false)]
    minVersion := [(2, least), (5, least)] }
  functions := [(64, { dbgFunction 0 with pluginKey := copies 64 0 })] }

theorem test_meets_FirmwareAndBoot_image (kind : W16) (h : kind = 2 ∨ kind = 5)
    (v : Config.slhVerify (copies 64 0) (signedBytes (anImage kind)) (copies 29792 0) = true) :
    GoodImage (rigBoot 5) (anImage kind) ∧ ByRoot (rigBoot 5) (anImage kind) ∧ (anImage kind).signer = (functionAt (rigBoot 5) 64).pluginKey ∧
    (partOf (rigBoot 5) 7).restarting = false :=
  ⟨⟨by rcases h with rfl | rfl <;> decide, ⟨rfl, rfl, List.length_replicate ..⟩, rfl, v, by rcases h with rfl | rfl <;> decide⟩, ⟨_, List.mem_singleton_self _, rfl, rfl⟩, rfl, rfl⟩

/-- An image whose version the fuses no longer admit is refused, whatever its signature. -/
theorem test_meets_FirmwareAndBoot_old (kind : W16) (h : kind = 2 ∨ kind = 5) : ¬ GoodImage (rigBoot 6) (anImage kind) := by
  intro g; have r := g.recent; revert r; rcases h with rfl | rfl <;> decide

def rigRestart (tag : Option (Nat × Nat)) : State := { rigQueues rigQ [] with
  partitions := [(0, { partInit with restarting := true })]
  districts := [(0, { rigDistrict with queues := [(0, ⟨0x8000, 16, [], 0, 0, 0, false, [], 0, tag⟩)] })] }
def rigReady (word : W64) : State := { rigQueues rigQ [] with
  secure := { (rigQueues rigQ []).secure with
    running := [(1, 0), (2, 0), (3, 0), (4, 0)]
    readiness := word }
  fabric := { State.reset.fabric with nodeSet := true, ports := [(17, ⟨true, 0, 0, 0, 5, 0⟩)] } }

def storedTwo (s : State) : State := { s with manage := { s.manage with stored := [(2, copies 256 0)] } }

theorem test_meets_FirmwareAndBoot :
    (partOf (rigRestart none) 0).restarting = true ∧ partReady (rigRestart none) 0 = true ∧ rising (rigRestart none).queues = true ∧
    (hostQueue (rigRestart none) 4159).part = 0 ∧ (hostQueue (rigRestart none) 4159).current = none ∧
    (∃ d ∈ (rigRestart (some (4159, 15))).districts, ∃ y ∈ d.2.queues, y.2.tag = some (4159, 15)) ∧
    (∀ d ∈ (rigRestart (some (4159, 14))).districts, ∀ y ∈ d.2.queues, y.2.tag ≠ some (4159, 15)) ∧ partReady State.reset 0 = false ∧
    (rigReady 0).secure.readiness.getLsbD 37 = false ∧ (rigReady 0).power.tripped = false ∧ (rigReady 0).cores = [] ∧ (rigReady 0).hostWrites = [] ∧
    (imageOf ((mget State.reset.manage.stored 2).getD (partOf State.reset 0).firmware)).isNone = true ∧ (partOf State.reset 0).restarting = false ∧
    (imageOf ((mget (storedTwo State.reset).manage.stored 2).getD [])).isSome = true ∧
    (rigReady (1 <<< 37)).secure.readiness.getLsbD 37 = true := by decide

theorem test_meets_FirmwareAndBoot_ready : CanBeReady (rigReady 0) 7 ∧ CanBeReady (rigReady 128) 15 ∧ CanBeReady (rigReady 0) 16 ∧ CanBeReady (rigReady 0) 17 ∧
    CanBeReady (rigReady 0) 18 ∧ CanBeReady (rigReady 0) 36 ∧ CanBeReady (rigReady 0) 37 ∧ ¬ CanBeReady (rigReady 0) 15 ∧ ¬ CanBeReady (rigReady 0) 35 := by
  refine ⟨?_, ?_, ?_, ?_, ?_, ?_, ?_, ?_, ?_⟩ <;> simp only [CanBeReady] <;> decide

/-- R352, R397. -/
theorem test_firmware :
    (hostQueue (after (.firmwareRestartEnd 0) (rigRestart (some (4159, 15)))) 4159).head = 16 ∧
    (hostQueue (after (.firmwareRestartEnd 0) (rigRestart (some (4159, 14)))) 4159).head = 15 ∧
    (functionAt (after (.firmwareRestartEnd 0) (rigRestart none)) 64).messages = [(0, 1)] ∧
    (after (.functionReady 15) (rigReady 128)).secure.readiness = 0x8080 ∧ (after (.functionReady 15) (rigReady 0)).secure.readiness = 0 ∧
    (after (.functionReady 37) (rigReady 0)).secure.readiness = 0x2000000000 ∧ (after (.functionReady 37) State.reset).secure.readiness = 0 := by decide

theorem test_refused_images :
    ((after (.firmwareRestartBegin 7 (some { anImage 2 with magic := 0 })) (rigBoot 5)).secure.readiness.getLsbD 63,
      (after (.pluginLoad 64 15 { anImage 5 with version := 2 }) (rigBoot 5)).secure.readiness.getLsbD 63) = (true, true) := by decide

/-- A tenant whose block sets its own range; the descriptor of its queue at 0x400. -/
def rigTenant : State := { rig [] [] with serial := 9, districts := [], mem := { State.reset.mem with bytes := blockMem 0 } }
def code (etype : W16) (addr : Nat) (bs : List Byte) (relocs : List Reloc) : CodeObject :=
  ⟨false, 0, 0x2000, 2, 1, 0, etype, 0xFA74, 2, [⟨".text", 1, 6, 16, addr, bs.length, bs⟩], relocs, [], [], []⟩
def clauseBytes (count : Byte) : List Byte := [0, 0, 0, count] ++ copies 12 0

theorem test_meets_TenantsAndCode :
    (addDistrict { rigTenant with districts := [(0, rigDistrict)] } 64 none (sizedEntry 768 (blockBytes 0)) 0 (64 % 8) 0).isNone = true ∧
    Memory.wf (rig [] []).mem.code = true ∧ ((List.range 16).map fun i => codeKey (rig [] []) rigDistrict (0x2000 + 16 + i)).Nodup ∧
    (functionAt rigTenant 64).enabled = false ∧ (addDistrict rigTenant 64 none (sizedEntry 768 (blockBytes 0)) 0 (64 % 8) 0).isSome = true ∧
    (functionAt (rigQueues rigQ []) 64).enabled = true ∧ blockOk (sizedEntry 768 (blockBytes 1)) = false ∧
    sectionsOk (code 3 8 (clauseBytes 0x10) []) = false ∧ sectionsOk (code 3 16 (clauseBytes 0x10) [⟨0, 5, 0, 0⟩]) = true ∧
    clauseStarts (clauseBytes 0) 2 0 [] = none ∧ clauseStarts (clauseBytes 0x10) 2 0 [] = some [0] := by decide

/-- R329, R330, R339, R340. -/
theorem test_code :
    (districtAt (after (.tenantEnable 64 (sizedEntry 768 (blockBytes 0))) rigTenant) 9).map (fun d => (d.tenant, d.depth, d.queues.length)) = some (64, 1, 1) ∧
    (functionAt (after (.tenantEnable 64 (sizedEntry 768 (blockBytes 0))) rigTenant) 64).handles = [(0, 9)] ∧
    (after (.tenantEnable 64 (sizedEntry 768 (blockBytes 1))) rigTenant).districts = rigTenant.districts ∧
    (after (.codeObjectLoad (code 2 0 [] [])) (rig [] [])).reply.code = 1 ∧ (after (.codeObjectLoad (code 3 8 (clauseBytes 0x10) [])) (rig [] [])).reply.code = 2 ∧
    (after (.codeObjectLoad (code 3 0 (clauseBytes 0x10) [⟨0, 5, 0, 0⟩])) (rig [] [])).reply.code = 3 ∧
    (after (.codeObjectLoad (code 3 0 (clauseBytes 0) [])) (rig [] [])).reply.code = 4 ∧
    byteOf (after (.codeObjectLoad (code 3 16 (clauseBytes 0x10) [])) (rig [] [])) 0x10000002013 = 16 := by decide

/-! ## Witnesses: power, errors, resets -/

def rigPower (duty : List Nat) (step : Nat) (cluster : List (Nat × Nat)) : State := { rig [] [] with
  power := { State.reset.power with
    duty := duty
    nextStep := step
    clusterDuty := cluster } }

theorem test_meets_PowerAndTemperature :
    (rigPower [16, 8, 9, 4] 101 []).clock < (rigPower [16, 8, 9, 4] 101 []).power.nextStep ∧
    (rigPower [16, 8, 9, 4] 100 []).power.nextStep ≤ (rigPower [16, 8, 9, 4] 100 []).clock ∧ (rigPower [16, 8, 9, 4] 100 []).power.duty.length = 4 ∧
    1600000 + 25000 * (rigPower [16, 8, 9, 4] 100 []).power.limit < 2800001 ∧ 2750000 + 50000 ≤ 1600000 + 25000 * (rigPower [16, 8, 9, 4] 100 []).power.limit ∧
    1600000 + 25000 * (rigPower [16, 8, 9, 4] 100 []).power.limit < 2750001 + 50000 ∧ rising (rigPower [16, 8, 9, 4] 100 [(191, 4)]).power.clusterDuty = true ∧
    (rigPower [16, 8, 9, 4] 100 []).power.tripped = false ∧ (dutyAt 16 839, dutyAt 16 840, dutyAt 4 817, dutyAt 4 816, dutyAt 8 777, dutyAt 8 776) = (8, 4, 4, 8, 8, 16) := by
  decide

/-- R400, R401, R403. -/
theorem test_power :
    (after (.limiterStep 2800001) (rigPower [8, 8, 9, 4] 100 [])).power.duty = [8, 8, 8, 4] ∧ (after (.limiterStep 2800000) (rigPower [8, 8, 9, 4] 100 [])).power.duty = [8, 8, 9, 4] ∧
    (after (.limiterStep 2800001) (rigPower [8, 8, 8, 4] 100 [])).power.duty = [8, 8, 8, 4] ∧
    (after (.limiterStep 2750000) (rigPower [15, 15, 16, 16] 100 [])).power.duty = [15, 16, 16, 16] ∧
    (after (.limiterStep 2750001) (rigPower [15, 15, 16, 16] 100 [])).power.duty = [15, 15, 16, 16] ∧
    (after (.limiterStep 0) (rigPower [15, 15, 16, 16] 101 [])).power.duty = [15, 15, 16, 16] ∧
    (after (.pwrlimitWrite 49) State.reset).power.limit = 48 ∧ (after (.pwrlimitWrite 0) State.reset).power.limit = 0 ∧
    (after (.clusterThermalLimit 191 840) (rigPower [] 0 [])).power.clusterDuty = [(191, 4)] ∧
    (after (.clusterThermalLimit 191 816) (rigPower [] 0 [(191, 4)])).power.clusterDuty = [(191, 8)] ∧
    (after (.packageTrip 191 879) (rig [] [])).power.tripped = false := by decide

theorem test_trip : (after (.packageTrip 191 880) (rig [] [])).power.tripped = true := rfl

/-- Dirty lines of partition 7 and of partition 0: one whose newest copy is at core 0, one that core 767 holds. -/
def rigLost : State := { rig [] [] with mem := { State.reset.mem with
  l1Dirty := [(0, 7 * 2 ^ 29 + 1), (767, 5)]
  sliceDirty := [7 * 2 ^ 29, 7 * 2 ^ 29 + 1] } }

theorem test_meets_ErrorsAndResets :
    8 * 2 ^ 36 - 1 < 2 ^ 40 ∧ (8 * 2 ^ 36 - 1) / 2 ^ 36 = 7 ∧ (2 ^ 40 + 2 ^ 35 - 1 - 2 ^ 40) / 2 ^ 32 = 7 ∧ (∀ e ∈ rigLost.crews, e.1 / 16 / 96 ≠ 7) ∧
    rigLost.cores = [] ∧ rising rigLost.seqs = true ∧ rigLost.belfry = [] ∧ 767 / 96 = 7 ∧ 7 * 2 ^ 29 * 128 / 2 ^ 36 = 7 ∧ 5 * 128 / 2 ^ 36 ≠ 7 ∧ (0, 7 * 2 ^ 29 + 1) ∈ rigLost.mem.l1Dirty ∧
    allMonitors rigLost = [] ∧ allMonitors (rig [0] []) = [] ∧ rigCrew.seqCtx = none ∧
    (rig [0] []).crews = [(0, rigCrew)] ∧ rigCrew.ending = false ∧ rigCrew.binding = none ∧ rigCrew.gang = none ∧ (rig [0] []).cores = [] ∧
    districtAt (rig [0] []) (rigCrew.district % 2 ^ 32) = some rigDistrict := by decide

/-- R389, R390. -/
theorem test_errors :
    (coreOf (after (.uncorrectableError 7 (.subArray 767 15)) (rig [] [])) 767).failing = 0x8000 ∧
    (partOf (after (.uncorrectableError 7 (.subArray 767 15)) (rig [] [])) 7).uncorrected = 0 ∧
    (partOf (after (.correctableError 7) (rig [] [])) 7).corrected = 1 ∧ linePoisoned (after (.uncorrectableError 0 (.line 0x10000000200)) (rig [] [])) (0x10000000200 / 128) = true ∧
    (partOf (after (.uncorrectableError 0 .control) (rig [] [])) 0).uncorrected = 1 ∧ (after (.uncorrectableError 0 .control) (rig [] [])).manage.resets = 1 := by decide

theorem test_resets :
    (after (.partitionReset 7) rigLost).secure.readiness = 0x3FFFFF7FFF ∧ (partOf (after (.partitionReset 7) rigLost) 7).restarting = true ∧
    linePoisoned (after (.partitionReset 7) rigLost) (7 * 2 ^ 29) = true ∧ linePoisoned (after (.partitionReset 7) rigLost) (7 * 2 ^ 29 + 1) = false ∧
    linePoisoned (after (.partitionReset 7) rigLost) 5 = true ∧ (after (.partitionReset 0) (rig [0] [])).crews = [] ∧
    (districtAt (after (.partitionReset 0) (rig [0] [])) 0).map (fun d => d.evWaiting.map fun r => (r.kind, r.bytes.getD 0 0)) = some [(2, 0)] := by decide

def trippedState : State := { rigMem [] [] [(5, 7), (hostPlace 0x4000, 9)] with
  clock := 100
  power := { State.reset.power with tripped := true }
  manage := { State.reset.manage with stored := [(1, copies 256 0)] } }

/-- R393, R403: the stored image of zeros is refused. -/
theorem test_package_reset :
    (after (.packageReset []) trippedState).power.tripped = false ∧ byteOf (after (.packageReset []) trippedState) 5 = 0 ∧
    byteOf (after (.packageReset []) trippedState) (hostPlace 0x4000) = 9 ∧ (after (.packageReset []) trippedState).secure.readiness.getLsbD 63 = true ∧
    (after (.packageReset []) (rig [0] [])).secure.readiness.getLsbD 63 = false := by decide

/-! ## Witnesses: management and attestation -/

def rigManage (trip : Bool) (node : Bool) : State := { rig [] [] with
  clock := 1250000
  power := { State.reset.power with
    tripped := trip
    duty := [16, 15, 8, 4] }
  fabric := { State.reset.fabric with
    nodeSet := node
    routes := [(8191, 0x20000)]
    ports := [(17, ⟨true, 0, 0, 0, 5, 0⟩)] }
  secure := { State.reset.secure with running := [(5, 9)] }
  manage := { State.reset.manage with
    telemetry := copies 1152 0
    staged := [(4, copies 256 0)] } }

theorem test_meets_ManagementPort_snapshot : (rigManage false false).manage.telemetry.length = 1152 := List.length_replicate ..

theorem test_meets_ManagementPort :
    State.reset.clock < State.reset.manage.nextTelemetry ∧ (rigManage false false).manage.nextTelemetry ≤ (rigManage false false).clock ∧
    (rigManage false false).power.duty.length = 4 ∧ (rigManage false false).power.limit < 2 ^ 32 ∧ (∀ d ∈ (rigManage false false).power.duty, d ≤ 16) ∧
    (rigManage false false).secure.readiness.getLsbD 62 = false ∧ mget (rigManage false false).manage.staged 4 = some (copies 256 0) ∧
    mget (rigManage false false).manage.staged 1 = none ∧ (0x7F : Byte) ∈ [0x00, 0x01, 0x05, (0x7F : Byte)] ∧ (0x02 : Byte) ∉ [0x00, 0x01, 0x05, (0x7F : Byte)] := by decide

/-- The commands of the vendor's message type, which the same statement covers. -/
theorem test_meets_ManagementPort_vendor :
    1 ≤ (64 : Byte).toNat ∧ (64 : Byte).toNat ≤ 64 ∧ (0x440 : W16).toNat + (64 : Byte).toNat ≤ 0x480 ∧ (48 : W32).toNat ≤ 48 ∧ (80 : Byte).toNat = 80 ∧
    (6143 : W16).toNat ≤ 6143 ∧ State.reset.fabric.nodeSet = false ∧ (rigManage true true).fabric.nodeSet = true ∧ (8191 : W16).toNat < 8192 ∧
    (0x3FFFF : W32).toNat < 2 ^ 18 ∧ (∀ i, i < 18 → (portAt State.reset i).up = false) ∧ rising (rigManage true true).fabric.routes = true ∧
    (∀ e ∈ (rigManage true true).fabric.routes, e.1 ≠ 8191 → e.2.getLsbD 17 = false) ∧ (rigManage true true).power.tripped = true ∧
    (rigManage false true).power.tripped = false ∧ mget (rigManage true true).secure.running (5 : Byte).toNat = some 9 ∧
    mget (rigManage true true).secure.running (1 : Byte).toNat = none := by decide

/-- R425 to R427, R430. -/
theorem test_management :
    (after (.setEndpointId 9) State.reset).manage.eid = 9 ∧ (after .getMessageTypeSupport State.reset).reply.last = [0, 1, 5, 0x7F] ∧
    (after (.mctpUnsupportedMessage 2) State.reset).manage.dropped = 1 ∧ (after (.mctpUnsupportedMessage 5) State.reset).manage.dropped = 0 ∧
    (after (.pldmSensorRead (.clusterTemp 192)) State.reset).reply.code = 1 ∧ (after (.pldmSensorRead (.duty 4)) (rigManage false false)).reply = ⟨[0], 0⟩ ∧
    (after (.pldmFirmwareUpdateTransfer 4 2 [7, 8]) State.reset).manage.staged = [(4, [0, 0, 7, 8])] ∧
    (after (.pldmFirmwareUpdateTransfer 5 2 [7, 8]) State.reset).reply.code = 1 ∧ (after (.pldmTransferComplete 4) (rigManage false false)).secure.readiness.getLsbD 63 = true := by decide

/-- R428, R432, R433. -/
theorem test_vendor :
    (after .readReadiness (rigManage false false)).reply.last = [0, 0, 0, 0, 0, 0, 0, 0x40] ∧ (after (.writePowerLimit 49) State.reset).reply.code = 1 ∧
    (after (.setMigrationThreshold 100) State.reset).power.migrateAt = 100 ∧ (after (.setMigrationThreshold 101) State.reset).power.migrateAt = 95 ∧
    (after (.setNodeNumber 6143) State.reset).fabric.node = 6143 ∧ (after (.setNodeNumber 6144) State.reset).reply.code = 1 ∧
    (after (.setNodeNumber 1) (rigManage true true)).reply.code = 2 ∧ (portAt (after (.writeRoute 8191 0) (rigManage true true)) 17).up = false ∧
    (after (.writeRoute 8192 1) State.reset).reply.code = 1 ∧ (after (.resetPartition 7) (rigManage true true)).reply.code = 2 ∧
    (after (.resetPartition 7) (rigManage false true)).reply.code = 0 ∧ (after (.resetPartition 7) (rigManage false true)).manage.resets = 1 ∧
    (after (.pldmActivateFirmware 7) (rigManage false true)).reply.code = 0 ∧ (partOf (after (.pldmActivateFirmware 7) (rigManage false true)) 7).restarting = true ∧
    (after .clearTrip (rigManage true true)).power.tripped = false ∧ (after .clearTrip State.reset).reply.code = 2 ∧
    (after (.commitImage 5) (rigManage true true)).secure.minVersion = [(5, 9)] ∧ (after (.commitImage 1) (rigManage true true)).reply.code = 2 := by decide

def rigSpdm (attested : Bool) (until_ : Nat) : State := { rig [] [] with
  secure := { State.reset.secure with
    readiness := if attested then 0x40000 else 0
    signing := some (.doe, until_) } }

theorem test_meets_Attestation :
    (rigSpdm true 101).secure.signing = some (.doe, 101) ∧ SpdmPath.doe ≠ SpdmPath.mctp ∧ (rigSpdm true 101).clock < 101 ∧
    (rigSpdm true 100).secure.readiness.getLsbD 18 = true ∧ (rigSpdm false 100).secure.readiness.getLsbD 18 = false := by decide
theorem test_responds : Responds (rigSpdm true 100) .mctp ∧ Responds (rigSpdm true 101) .doe := by
  refine ⟨?_, ?_⟩ <;> rintro p u h <;> obtain ⟨rfl, rfl⟩ := Prod.mk.inj (Option.some.inj h)
  · exact .inr (Nat.le_refl 100)
  · exact .inl rfl

/-- R396, R397. -/
theorem test_attestation :
    (after (.getVersion .mctp) (rigSpdm true 101)).reply = ⟨[3], 0x7F⟩ ∧ (after (.getVersion .mctp) (rigSpdm true 100)).reply = ⟨[0x14], 0⟩ ∧
    (after (.challenge .doe []) (rigSpdm false 100)).reply = ⟨[0x42], 0x7F⟩ ∧ (after (.challenge .mctp []) (rigSpdm true 100)).secure.signing = some (.mctp, 103) ∧
    (after (.getMeasurements .doe 6 []) (rigSpdm true 100)).reply = ⟨[1], 0x7F⟩ ∧ (after (.getMeasurements .doe 0 []) (rigSpdm true 100)).reply = ⟨[70], 0⟩ ∧
    (after (.getCertificate .doe 1) (rigSpdm true 100)).reply = ⟨[1], 0x7F⟩ ∧ (after (.spdmUnsupportedRequest .doe 0) (rigSpdm true 100)).reply = ⟨[7], 0x7F⟩ := by decide

/-- Two leaves of one context for the frame at place 0, the second writable or not (R386). -/
def rigFrames (w : Bool) : State :=
  { State.reset with mem := { State.reset.mem with frames := [⟨0, 65536, 1, 0, false⟩, ⟨0, 65536, 1, 65536, w⟩] } }

/-- R386: bytes of a frame that two leaves of one context map are unspecified when one of them may write it. -/
theorem test_frame_mapped_twice :
    sharedPlace (rigFrames true) 100 = true ∧ sharedPlace (rigFrames false) 100 = false ∧
    sharedPlace (rigFrames true) 65536 = false := by decide

end Sys2Proof.Tests
end

section
/-! SUPPORT. Leaving a mask (R21): the mask of an ascending list of lanes, writing back the wave that is there, and what a
mask write that clears bits does once it has landed. -/

namespace Sys2Proof.Machine
open Sys2Proof.Claims

/-! ## Masks of lanes -/

theorem two_pow_dvd_maskOf {l : Nat} {ls : List Nat} (h : ∀ m ∈ ls, l ≤ m) : 2 ^ l ∣ maskOf ls := by
  induction ls with
  | nil => exact Nat.dvd_zero _
  | cons m ls ih =>
    obtain ⟨hm, hls⟩ := List.forall_mem_cons.1 h
    rw [maskOf]
    split
    · exact ih hls
    · exact Nat.dvd_add (ih hls) (Nat.pow_dvd_pow 2 hm)

theorem bit_eq_false_of_two_pow_dvd {x l : Nat} (h : 2 ^ (l + 1) ∣ x) : bit x l = false := by
  obtain ⟨y, rfl⟩ := h
  rw [bit, Nat.pow_succ, Nat.mul_assoc, Nat.mul_div_cancel_left _ (Nat.two_pow_pos l)]
  simp

/-- The lowest lane of an ascending list adds its bit. -/
theorem maskOf_cons_of_lt {l : Nat} {ls : List Nat} (h : ∀ m ∈ ls, l < m) : maskOf (l :: ls) = maskOf ls + 2 ^ l := by
  rw [maskOf, bit_eq_false_of_two_pow_dvd (two_pow_dvd_maskOf h)]
  rfl

theorem foldl_two_pow_eq_maskOf {ls : List Nat} (h : ls.Pairwise (· < ·)) (x : Nat) :
    ls.foldl (fun x m => x + 2 ^ m) x = x + maskOf ls := by
  induction ls generalizing x with
  | nil => rfl
  | cons l ls ih =>
    obtain ⟨hl, hls⟩ := List.pairwise_cons.1 h
    rw [List.foldl_cons, ih hls, maskOf_cons_of_lt hl]
    omega

theorem filter_contains_filter_range (n : Nat) (p : Nat → Bool) :
    (List.range n).filter ((List.range n).filter p).contains = (List.range n).filter p := by
  refine List.filter_congr fun l hl => ?_
  simp [List.mem_range.1 hl]

/-- The mask of lanes that `p` selects, as the claims write it. -/
theorem laneMask_filter_range (p : Nat → Bool) :
    laneMask ((List.range 32).filter p) = BitVec.ofNat 32 (maskOf ((List.range 32).filter p)) := by
  have hsorted : ((List.range 32).filter p).Pairwise (· < ·) := List.pairwise_lt_range.filter p
  rw [laneMask, filter_contains_filter_range, foldl_two_pow_eq_maskOf hsorted, Nat.zero_add]

theorem laneMask_nil : laneMask [] = 0#32 := by decide

/-- The active lanes of an issuing instruction are listed in ascending order, so their mask is that of the claims. -/
theorem laneMask_act {s : State} (h : Ctl) (hf : s.cur.again = none) :
    laneMask (viewOf h s).act = BitVec.ofNat 32 (maskOf (viewOf h s).act) := by
  simp only [viewOf_first h hf, freshView, lanesOf, List.filter_filter]
  exact laneMask_filter_range _

/-! ## Writing back the wave that is there -/

theorem mset_of_mget {α : Type} {m : List (Nat × α)} {i : Nat} {x : α} (h : mget m i = some x) : mset m i x = m := by
  induction m with
  | nil => cases h
  | cons e m ih =>
    obtain ⟨k, v⟩ := e
    rw [mget] at h
    rw [mset]
    split at h
    · next hk => rw [if_pos hk, ← hk, Option.some.inj h]
    · next hk =>
      split at h
      · cases h
      · next hi => rw [if_neg hk, if_neg hi, ih h]

theorem setWave_of_waveAt {s : State} {c t : Nat} {w : Wave} (h : waveAt s c t = some w) : setWave s c t w = s := by
  rw [setWave, mset_of_mget h]

/-! ## A mask write that clears bits (R20, R21) -/

theorem pendClear_sameButMoves (w : Wave) (clock k : Nat) (bits : W32) : SameButMoves w (pendClear w clock k bits) :=
  ⟨rfl, rfl, rfl, rfl, rfl, rfl, rfl, rfl⟩

@[simp] theorem pendClear_fibres (w : Wave) (clock k : Nat) (bits : W32) : (pendClear w clock k bits).fibres = w.fibres := rfl
@[simp] theorem pendClear_lanes (w : Wave) (clock k : Nat) (bits : W32) : (pendClear w clock k bits).lanes = w.lanes := rfl

theorem SameFile.symm {w w' : Wave} (h : SameFile w w') : SameFile w' w := by
  obtain ⟨hv, hs, hk, hf⟩ := h
  exact ⟨hv.symm, hs.symm, hk.symm, hf.symm⟩

theorem SameFile.trans {w w' w'' : Wave} (h : SameFile w w') (h' : SameFile w' w'') : SameFile w w'' := by
  obtain ⟨hv, hs, hk, hf⟩ := h
  obtain ⟨hv', hs', hk', hf'⟩ := h'
  exact ⟨hv.trans hv', hs.trans hs', hk.trans hk', hf.trans hf'⟩

theorem pendClear_sameFile (w : Wave) (clock k : Nat) (bits : W32) : SameFile (pendClear w clock k bits) w :=
  ⟨rfl, rfl, rfl, rfl⟩

theorem landOne_clear (w : Wave) (k land : Nat) (bits : W32) :
    landOne w ⟨.k k, ~~~ bits, 0, land⟩ = landWrite w (.k k) (readTarget w (.k k) &&& ~~~ bits) := by
  simp [landOne]

/-- The clearing write lands last, on what had landed before. -/
theorem settled_pendClear (w : Wave) (clock k : Nat) (bits : W32) :
    SameFile (settled (pendClear w clock k bits))
      (landWrite (settled w) (.k k) (readTarget (settled w) (.k k) &&& ~~~ bits)) := by
  have hlast : SameFile (settled (pendClear w clock k bits))
      (landOne (w.sched.pend.foldl landOne (pendClear w clock k bits)) ⟨.k k, ~~~ bits, 0, clock + 2⟩) := by
    have h := settled_eq (pendClear w clock k bits)
    rwa [pendClear, modSched_sched, List.foldl_append] at h
  have hbefore : SameFile (w.sched.pend.foldl landOne (pendClear w clock k bits)) (settled w) :=
    ((pendClear_sameFile w clock k bits).foldl _).trans (settled_eq w).symm
  rw [← landOne_clear]
  exact hlast.trans (hbefore.one _)

theorem settled_pendClear_self (w : Wave) (clock k : Nat) (bits : W32) :
    readTarget (settled (pendClear w clock k bits)) (.k k) = readTarget (settled w) (.k k) &&& ~~~ bits := by
  rw [(settled_pendClear ..).read, readTarget_landWrite_self _ _ _ (by simp)]

theorem settled_pendClear_ne (w : Wave) (clock k : Nat) (bits : W32) {x : Target} (hx : x.plain) (h : x ≠ .k k) :
    readTarget (settled (pendClear w clock k bits)) x = readTarget (settled w) x := by
  rw [(settled_pendClear ..).read, readTarget_landWrite_ne (t := .k k) _ _ trivial hx h.symm]

/-! ## The instruction -/

theorem exec_leave (h : Ctl) (f : GF) (s : State) : exec (.leave h f) s = execLeave h f s := rfl

theorem viewOf_place (h : Ctl) {s : State} (hf : s.cur.again = none) :
    (viewOf h s).core = s.cur.core ∧ (viewOf h s).slot = s.cur.slot := by
  rw [viewOf_first h hf]
  exact ⟨rfl, rfl⟩

theorem execLeave_idle {h : Ctl} {s : State} (f : GF) (ha : (viewOf h s).act = []) : execLeave h f s = .next s := by
  rw [execLeave, if_pos ha]

theorem execLeave_active {h : Ctl} {s : State} {w : Wave} (f : GF) (hf : s.cur.again = none)
    (hw : waveAt s s.cur.core s.cur.slot = some w) (ha : (viewOf h s).act ≠ []) :
    execLeave h f s = .next (setWave s s.cur.core s.cur.slot
      (pendClear w s.clock (f.a.toNat - 0xE0) (laneMask (viewOf h s).act))) := by
  obtain ⟨hcore, hslot⟩ := viewOf_place h hf
  rw [execLeave, if_neg ha, hcore, hslot, modWave_of s _ hw, laneMask_act h hf]

end Sys2Proof.Machine

namespace Sys2Proof.Claims
open Sys2Proof.Machine

theorem SameButMoves.refl (w : Wave) : SameButMoves w w := ⟨rfl, rfl, rfl, rfl, rfl, rfl, rfl, rfl⟩

/-- Settles O24. With no active lane the state stands, and the empty mask clears no bit; otherwise the one clearing write put
under way lands on the mask after all others. -/
theorem leaves : Obligations.Leaves := by
  unfold Obligations.Leaves
  intro h f s w hi
  dsimp only
  by_cases ha : (viewOf h s).act = []
  · refine ⟨w, ?_, .refl w, rfl, rfl, ?_, fun _ _ _ => rfl⟩
    · rw [exec_leave, execLeave_idle f ha, setWave_of_waveAt hi.wave]
    · rw [ha, laneMask_nil, BitVec.not_zero, BitVec.and_allOnes]
  · exact ⟨_, (exec_leave h f s).trans (execLeave_active f hi.first hi.wave ha), pendClear_sameButMoves .., pendClear_fibres ..,
      pendClear_lanes .., settled_pendClear_self .., fun _ hx hne => settled_pendClear_ne _ _ _ _ hx hne⟩

end Sys2Proof.Claims
end

section
/-! SUPPORT. Bit fields (R180): the bits of a number made bit by bit, and the words that `bfe` and `bfi` make. -/

namespace Sys2Proof.Machine

theorem ofBits_lt (f : Nat → Bool) (n : Nat) : ofBits f n < 2 ^ n := by
  induction n with
  | zero => simp [ofBits]
  | succ n ih =>
    rw [ofBits, Nat.pow_succ]
    split <;> omega

theorem testBit_ofBits (f : Nat → Bool) (n i : Nat) : (ofBits f n).testBit i = (decide (i < n) && f i) := by
  induction n with
  | zero => simp [ofBits]
  | succ n ih =>
    have hlt := ofBits_lt f n
    rw [ofBits, Nat.add_comm]
    rcases Nat.lt_trichotomy i n with hi | rfl | hi
    · have hrest : (ofBits f n).testBit i = f i := by simp [ih, hi]
      have hin : i < n + 1 := by omega
      split
      · rw [Nat.testBit_two_pow_add_gt hi, hrest]; simp [hin]
      · rw [Nat.zero_add, hrest]; simp [hin]
    · have hrest : (ofBits f i).testBit i = false := by simp [ih]
      split
      · next hf => rw [Nat.testBit_two_pow_add_eq, hrest]; simp [hf]
      · next hf => rw [Nat.zero_add, hrest]; simp [hf]
    · have hbound : (if f n then 2 ^ n else 0) + ofBits f n < 2 ^ i := by
        have hpow : 2 ^ (n + 1) ≤ 2 ^ i := Nat.pow_le_pow_right (by decide) hi
        rw [Nat.pow_succ] at hpow
        split <;> omega
      rw [Nat.testBit_lt_two_pow hbound]
      simp [show ¬ i < n + 1 by omega]

/-- A number made bit by bit is the word with those bits. -/
theorem ofBits_eq_toNat {w : Nat} {f : Nat → Bool} {x : BitVec w} (h : ∀ i < w, f i = x.getLsbD i) :
    ofBits f w = x.toNat := by
  refine Nat.eq_of_testBit_eq fun i => ?_
  rw [testBit_ofBits]
  by_cases hi : i < w
  · simp [hi, h i hi, BitVec.testBit_toNat]
  · simp [hi, BitVec.testBit_toNat, BitVec.getLsbD_of_ge x i (by omega)]

theorem bit_toNat {w : Nat} (x : BitVec w) (i : Nat) : bit x.toNat i = x.getLsbD i := by
  rw [bit_testBit, BitVec.testBit_toNat]

theorem bit_top {w : Nat} (x : BitVec w) : bit x.toNat (w - 1) = x.msb := by
  rw [bit_toNat, BitVec.msb_eq_getLsbD_last]

/-! ## The position word (R180) -/

theorem field_position (pw : Nat) : field pw 0 8 = pw % 256 := by
  simp [field]

theorem field_length (pw : Nat) : field pw 8 8 = pw / 256 % 256 := rfl

/-! ## Extracting (R180) -/

theorem bfeBits_signed {w : Nat} (x : BitVec w) (pw : Nat) :
    bfeBits true w x.toNat pw =
      (((x.sshiftRight (pw % 256)).setWidth (min (pw / 256 % 256) w)).signExtend w).toNat := by
  rw [bfeBits, field_position, field_length]
  generalize pw % 256 = p
  have hk : min (pw / 256 % 256) w ≤ w := Nat.min_le_right ..
  generalize min (pw / 256 % 256) w = k at hk
  have hf : ∀ i < w, (if p + i < w then bit x.toNat (p + i) else true && bit x.toNat (w - 1)) =
      (x.sshiftRight p).getLsbD i := by
    intro i hi
    rw [BitVec.getLsbD_sshiftRight, bit_toNat, bit_top]
    simp [hi]
  dsimp only
  split
  · next h0 => subst h0; rw [BitVec.of_length_zero (x := BitVec.setWidth 0 _)]; simp [BitVec.signExtend]
  · next h0 =>
    refine ofBits_eq_toNat fun i hi => ?_
    have hlast : k - 1 < k := by omega
    rw [BitVec.getLsbD_signExtend, BitVec.msb_eq_getLsbD_last, BitVec.getLsbD_setWidth, BitVec.getLsbD_setWidth, hf i hi,
      hf (k - 1) (by omega), decide_eq_true hi, decide_eq_true hlast, Bool.true_and, Bool.true_and]
    by_cases hik : i < k
    · rw [if_pos hik, if_pos hik, decide_eq_true hik, Bool.true_and]
    · rw [if_neg hik, if_neg hik]

theorem bfeBits_unsigned {w : Nat} (x : BitVec w) (pw : Nat) :
    bfeBits false w x.toNat pw = (((x >>> (pw % 256)).setWidth (min (pw / 256 % 256) w)).setWidth w).toNat := by
  rw [bfeBits, field_position, field_length]
  generalize pw % 256 = p
  generalize min (pw / 256 % 256) w = k
  dsimp only
  split
  · next h0 => subst h0; simp [BitVec.of_length_zero]
  · refine ofBits_eq_toNat fun i hi => ?_
    rw [BitVec.getLsbD_setWidth, BitVec.getLsbD_setWidth, BitVec.getLsbD_ushiftRight, bit_toNat]
    by_cases hp : p + i < w
    · by_cases hik : i < k <;> simp [hi, hik, hp]
    · simp [hp, BitVec.getLsbD_of_ge x (p + i) (by omega)]

/-! ## Inserting (R180) -/

/-- The mask of a field of `k` bits at position `p`. -/
theorem getLsbD_fieldMask {w : Nat} (k p : Nat) {j : Nat} (hj : j < w) :
    (BitVec.ofNat w (2 ^ k - 1) <<< p).getLsbD j = (decide (p ≤ j) && decide (j < p + k)) := by
  rw [BitVec.getLsbD_shiftLeft, BitVec.getLsbD_ofNat, Nat.testBit_two_pow_sub_one]
  by_cases hp : p ≤ j
  · simp [hj, hp, show j - p < w by omega, show j - p < k ↔ j < p + k by omega]
  · simp [hp, show j < p by omega]

theorem bfiBits_eq {w : Nat} (x y : BitVec w) (pw : Nat) :
    let m := BitVec.ofNat w (2 ^ (pw / 256 % 256) - 1) <<< (pw % 256)
    bfiBits w x.toNat y.toNat pw = ((y &&& ~~~ m) ||| ((x <<< (pw % 256)) &&& m)).toNat := by
  dsimp only
  rw [bfiBits, field_position, field_length]
  generalize pw % 256 = p
  generalize pw / 256 % 256 = k
  refine ofBits_eq_toNat fun j hj => ?_
  rw [BitVec.getLsbD_or, BitVec.getLsbD_and, BitVec.getLsbD_and, BitVec.getLsbD_not, getLsbD_fieldMask k p hj,
    BitVec.getLsbD_shiftLeft, bit_toNat, bit_toNat]
  by_cases hin : p ≤ j ∧ j < p + k
  · simp [hin.1, hin.2, hj, show ¬ j < p by omega, show j - p < w by omega]
  · have hout : (decide (p ≤ j) && decide (j < p + k)) = false := by simpa using hin
    simp [hout, hj]

/-! ## One register result without flags -/

theorem foldl_or_zeros (ls : List Nat) : (ls.map fun _ => 0).foldl (· ||| ·) 0 = 0 := by
  induction ls with
  | nil => rfl
  | cons l ls ih => simpa using ih

/-- A fixed-latency instruction whose lanes each give one register result, a word of its registers' width, gives it. -/
theorem gives_outReg {i : Instr} {sh : Shape} {lat : Nat} {e : BitVec 8} {regs : Nat} {f : View → Nat → Nat}
    {value : Nat → BitVec (32 * regs)} {s : State} (hsh : shape i = some sh) (hlat : sh.lat = some lat)
    (hex : exec i s = .next (perLane i (fun v l => outReg e regs (f v l)) s))
    (hopd : ∃ o ∈ sh.opds, o.enc = e ∧ ∃ c, o.use = .dst regs c ∨ o.use = .upd regs c)
    (hok : sh.ok6 = true → sh.opds.all opdOk6 = true) (hf : ∀ l, f (viewOf sh.ctl s) l = (value l).toNat) :
    Gives i e regs (fun l => (value l).toNat) 0 s := by
  have h := gives_of (value := fun l => (value l).toNat) (fl := fun _ => 0) hsh hlat hex hopd hok
    (fun l _ => congrArg (outReg e regs) (hf l)) (fun l _ => (value l).isLt)
  rwa [foldl_or_zeros] at h

end Sys2Proof.Machine

namespace Sys2Proof.Claims
open Sys2Proof.Machine

/-! ## The instructions -/

theorem tyRegs_pos (t : Ty) : 0 < tyRegs t := by
  cases t <;> decide

/-- The word of an operand is the number that the instruction reads. -/
theorem toNat_opdW (h : Ctl) (s : State) (l : Nat) (e : BitVec 8) {n : Nat} (hn : 0 < n) :
    (opdW h s l e n).toNat = (viewOf h s).opd l e n := by
  rw [opdW, BitVec.toNat_ofNat, Nat.mod_eq_of_lt (opd_lt _ l e n hn)]

/-- A result of as many registers as its type takes. -/
theorem dW_tyRegs (t : Ty) : ∃ c, dW (tyRegs t) = .dst (tyRegs t) c := by
  cases t <;> exact ⟨_, rfl⟩

theorem exec_bfe (h : Ctl) (f : GF) (s : State) : exec (.bfe h f) s = execBfe h f s := rfl
theorem exec_bfi (h : Ctl) (f : GF) (s : State) : exec (.bfi h f) s = execBfi h f s := rfl

/-- Settles O13. In each lane the numbers that the model makes bit by bit are the words of R180, and a fixed-latency
instruction gives the results of its lanes. -/
theorem bitFields : Obligations.BitFields := by
  unfold Obligations.BitFields
  intro h f s
  have hn : 0 < gN f := tyRegs_pos _
  obtain ⟨c, hc⟩ := dW_tyRegs (tyOf f.dtype)
  constructor
  · refine gives_outReg rfl rfl (exec_bfe h f s) ⟨⟨f.dst, _⟩, .head _, rfl, c, .inl hc⟩
      (fun hk => gShape_ok (hk := hk) ..) fun l => ?_
    show bfeBits (gSigned f) (32 * gN f) ((viewOf h s).opd l f.a (gN f)) ((viewOf h s).opd l f.b 1) = _
    rw [← toNat_opdW h s l f.a hn, ← toNat_opdW h s l f.b Nat.one_pos]
    cases gSigned f
    · exact bfeBits_unsigned ..
    · exact bfeBits_signed ..
  · refine gives_outReg rfl rfl (exec_bfi h f s) ⟨⟨f.dst, _⟩, .head _, rfl, c, .inl hc⟩
      (fun hk => gShape_ok (hk := hk) ..) fun l => ?_
    show bfiBits (32 * gN f) ((viewOf h s).opd l f.a (gN f)) ((viewOf h s).opd l f.b (gN f)) ((viewOf h s).opd l f.c 1) = _
    rw [← toNat_opdW h s l f.a hn, ← toNat_opdW h s l f.b hn, ← toNat_opdW h s l f.c Nat.one_pos]
    exact bfiBits_eq ..

end Sys2Proof.Claims
end

section
/-! SUPPORT. The counted loop (R194): what lanes that also move their fibres change, what a wave reads once its fibres have
moved, and the registers that one result in each lane writes. -/

namespace Sys2Proof.Machine
open Sys2Proof.Claims

/-! ## Fibres that move, beside the registers of a wave -/

/-- Two waves with the same registers and masks, and the same predicates in every lane. -/
def SameValues (w w' : Wave) : Prop :=
  w.regs.v = w'.regs.v ∧ w.regs.s = w'.regs.s ∧ w.regs.k = w'.regs.k ∧
    ∀ l, (mget w.fibres l).map (·.preds) = (mget w'.fibres l).map (·.preds)

theorem readTarget_pred (w : Wave) (l i : Nat) :
    readTarget w (.p l i) = if predBit (((mget w.fibres l).map (·.preds)).getD 0) i then 1 else 0 := by
  rw [readTarget]
  cases mget w.fibres l with
  | none => by_cases h : i = 7 <;> simp [predBit, bit, h]
  | some f => rfl

theorem SameValues.read {w w' : Wave} (h : SameValues w w') (t : Target) : readTarget w t = readTarget w' t := by
  obtain ⟨hv, hs, hk, hp⟩ := h
  cases t with
  | v l g => rw [readTarget, readTarget, hv]
  | s i => rw [readTarget, readTarget, hs]
  | k i => rw [readTarget, readTarget, hk]
  | p l i => rw [readTarget_pred, readTarget_pred, hp]

theorem preds_landWrite_pred (w : Wave) (l i : Nat) (x : W32) (m : Nat) :
    (mget (landWrite w (.p l i) x).fibres m).map (·.preds) =
      if l = m then ((mget w.fibres m).map (·.preds)).map (predSet · i (x != 0)) else (mget w.fibres m).map (·.preds) := by
  rw [landWrite, fibre_modFibre]
  split
  · next h => subst h; rw [Option.map_map, Option.map_map]; rfl
  · rfl

theorem SameValues.land {w w' : Wave} (h : SameValues w w') (t : Target) (x : W32) :
    SameValues (landWrite w t x) (landWrite w' t x) := by
  obtain ⟨hv, hs, hk, hp⟩ := h
  cases t with
  | v l g => exact ⟨by simp only [landWrite, hv], hs, hk, hp⟩
  | s i => exact ⟨hv, by simp only [landWrite, hs], hk, hp⟩
  | k i => exact ⟨hv, hs, by simp only [landWrite, hk], hp⟩
  | p l i => exact ⟨hv, hs, hk, fun m => by rw [preds_landWrite_pred, preds_landWrite_pred, hp]⟩

theorem SameValues.foldl {w w' : Wave} (h : SameValues w w') (ps : List Pend) :
    SameValues (ps.foldl landOne w) (ps.foldl landOne w') := by
  induction ps generalizing w w' with
  | nil => exact h
  | cons p ps ih =>
    refine ih ?_
    rw [landOne, landOne, h.read]
    exact h.land ..

/-- Waves with the same values hold the same once the same results have landed. -/
theorem SameValues.settled {w w' : Wave} (h : SameValues w w') (hp : w.sched.pend = w'.sched.pend) (t : Target) :
    readTarget (settled w) t = readTarget (settled w') t := by
  rw [(settled_eq w).read, (settled_eq w').read, hp]
  exact (h.foldl _).read t

/-! ## Lanes that move their fibres (R192) -/

/-- A fibre that goes to `pc`, where there is one, and otherwise goes on. -/
def Fibre.goingTo (pc : Option W64) (f : Fibre) : Fibre :=
  match pc with
  | some pc => { f with pc := pc, fell := false }
  | none => f

theorem Fibre.goingTo_none : Fibre.goingTo none = id := rfl

theorem Fibre.goingTo_preds (pc : Option W64) (f : Fibre) : (f.goingTo pc).preds = f.preds := by
  cases pc <;> rfl

/-- One register result, and a target where the lane's fibre moves. -/
def goOut (e : BitVec 8) (regs x : Nat) (goto : Option W64) : LaneOut := { wr := [⟨e, regs, x⟩], goto := goto }

theorem laneApply_goOut (clock : Nat) (w : Wave) (l : Nat) (e : BitVec 8) (regs x : Nat) (goto : Option W64) :
    laneApply clock w l (goOut e regs x goto) =
      { w with fibres := (laneApply clock w l (goOut e regs x goto)).fibres } := by
  cases goto <;> rfl

theorem fibre_laneApply_goOut (clock : Nat) (w : Wave) (l : Nat) (e : BitVec 8) (regs x : Nat) (goto : Option W64) (m : Nat) :
    mget (laneApply clock w l (goOut e regs x goto)).fibres m =
      if l = m then (mget w.fibres m).map (Fibre.goingTo goto) else mget w.fibres m := by
  cases goto with
  | none => rw [Fibre.goingTo_none, Option.map_id, id, ite_self]; rfl
  | some pc =>
    refine (fibre_modFibre ..).trans ?_
    split
    · next h => subst h; rfl
    · rfl

/-- What the lanes `ls` do, each with its own result and target. -/
def goOuts (e : BitVec 8) (regs : Nat) (value : Nat → Nat) (goto : Nat → Option W64) (ls : List Nat) :
    List (Nat × LaneOut) :=
  ls.map fun l => (l, goOut e regs (value l) (goto l))

section
variable (clock : Nat) (w : Wave) (e : BitVec 8) (regs : Nat) (value : Nat → Nat) (goto : Nat → Option W64) {ls : List Nat}

theorem applyAll_goOuts : applyAll clock w (goOuts e regs value goto ls) =
    { w with fibres := (applyAll clock w (goOuts e regs value goto ls)).fibres } := by
  induction ls generalizing w with
  | nil => rfl
  | cons l ls ih =>
    rw [goOuts, List.map_cons, applyAll, laneApply_goOut]
    exact ih _

theorem fibre_applyAll_of_notMem {m : Nat} (hm : m ∉ ls) :
    mget (applyAll clock w (goOuts e regs value goto ls)).fibres m = mget w.fibres m := by
  induction ls generalizing w with
  | nil => rfl
  | cons l ls ih =>
    rw [List.mem_cons, not_or] at hm
    refine (ih _ hm.2).trans ?_
    rw [fibre_laneApply_goOut, if_neg (Ne.symm hm.1)]

theorem fibre_applyAll_of_mem (hn : ls.Nodup) {m : Nat} (hm : m ∈ ls) :
    mget (applyAll clock w (goOuts e regs value goto ls)).fibres m = (mget w.fibres m).map (Fibre.goingTo (goto m)) := by
  induction ls generalizing w with
  | nil => cases hm
  | cons l ls ih =>
    obtain ⟨hl, hls⟩ := List.nodup_cons.1 hn
    rcases List.mem_cons.1 hm with rfl | hm
    · refine (fibre_applyAll_of_notMem clock _ e regs value goto hl).trans ?_
      rw [fibre_laneApply_goOut, if_pos rfl]
    · refine (ih _ hls hm).trans ?_
      rw [fibre_laneApply_goOut, if_neg (ne_of_mem_of_not_mem hm hl).symm]

/-- Fibres that move keep their predicates. -/
theorem applyAll_sameValues (hn : ls.Nodup) : SameValues (applyAll clock w (goOuts e regs value goto ls)) w := by
  rw [applyAll_goOuts]
  refine ⟨rfl, rfl, rfl, fun m => ?_⟩
  by_cases hm : m ∈ ls
  · rw [fibre_applyAll_of_mem clock w e regs value goto hn hm, Option.map_map]
    exact congrArg (Option.map · _) (funext (Fibre.goingTo_preds _))
  · rw [fibre_applyAll_of_notMem clock w e regs value goto hm]

theorem allFlags_goOuts : allFlags (goOuts e regs value goto ls) = 0#32 := by
  have hzeros := foldl_or_zeros ls
  rw [List.foldl_map] at hzeros
  rw [allFlags, goOuts, List.foldl_map]
  exact congrArg (BitVec.ofNat 32) hzeros

end

/-- The wave with the results of the active lanes under way and their fibres moved. -/
def movedWave (lat : Nat) (v : View) (w : Wave) (e : BitVec 8) (regs : Nat) (value : Nat → Nat)
    (goto : Nat → Option W64) : Wave :=
  applyAll v.clock (pendAll w v.clock lat v.index (allWrites v true (goOuts e regs value goto v.act)))
    (goOuts e regs value goto v.act)

/-- The writes of one result in each active lane. -/
def oneWrites (v : View) (e : BitVec 8) (regs : Nat) (value : Nat → Nat) : List (Target × W32) :=
  allWrites v true (v.act.map fun l => (l, oneOut e regs (value l) 0))

section
variable (lat : Nat) (v : View) (w : Wave) (e : BitVec 8) (regs : Nat) (value : Nat → Nat) (goto : Nat → Option W64)

/-- Where a lane goes does not change what it writes. -/
theorem allWrites_goOuts (first : Bool) (ls : List Nat) : allWrites v first (goOuts e regs value goto ls) =
    allWrites v first (ls.map fun l => (l, oneOut e regs (value l) 0)) := by
  induction ls generalizing first with
  | nil => rfl
  | cons l ls ih => exact congrArg (laneWrites v first l (goOut e regs (value l) (goto l)) ++ ·) (ih false)

/-- A fixed-latency instruction that completes in every active lane, its fibres moving. -/
theorem commitFixed_goOuts {s : State} (hw : waveAt s v.core v.slot = some w) :
    commitFixed lat v (v.act.map fun l => (l, .done (goOut e regs (value l) (goto l)))) s =
      setWave s v.core v.slot (movedWave lat v w e regs value goto) := by
  simp only [commitFixed, trapsOf_done, doneOf_done, takeFaults, modWave_of _ _ hw]
  rw [← goOuts, allFlags_goOuts, BitVec.or_zero]
  rfl

theorem movedWave_same : SameButMoves w (movedWave lat v w e regs value goto) ∧
    (movedWave lat v w e regs value goto).lanes = w.lanes := by
  obtain ⟨pend, run, hp, -⟩ := pendAll_spec w v.clock lat v.index (allWrites v true (goOuts e regs value goto v.act))
  rw [movedWave, applyAll_goOuts, hp]
  exact ⟨⟨rfl, rfl, rfl, rfl, rfl, rfl, rfl, rfl⟩, rfl⟩

theorem movedWave_fibres (hn : v.act.Nodup) :
    fibresMoved w (movedWave lat v w e regs value goto) v.act fun l => Fibre.goingTo (goto l) := by
  have hp := (pendAll_same w v.clock lat v.index (allWrites v true (goOuts e regs value goto v.act))).1.fibres
  constructor
  · intro l hl; rw [movedWave, fibre_applyAll_of_mem _ _ _ _ _ _ hn hl, hp]
  · intro l hl; rw [movedWave, fibre_applyAll_of_notMem _ _ _ _ _ _ hl, hp]

/-- Moved or not, a wave reads the same once everything under way has landed. -/
theorem settled_movedWave (hn : v.act.Nodup) (x : Target) : readTarget (settled (movedWave lat v w e regs value goto)) x =
    readTarget (landAll (settled w) (oneWrites v e regs value)) x := by
  rw [oneWrites, ← allWrites_goOuts v e regs value goto, ← settled_pendAll w v.clock lat v.index]
  refine (applyAll_sameValues _ _ _ _ _ _ hn).settled ?_ x
  rw [applyAll_goOuts]

end

/-! ## The registers that one result in each lane writes -/

theorem fieldValue_congr {w w' : Wave} (h : ∀ t, readTarget w t = readTarget w' t) (win l : Nat) (e : BitVec 8) (regs : Nat) :
    fieldValue w win l e regs = fieldValue w' win l e regs := by
  rw [fieldValue, fieldValue, funext h]

section
variable {v : View} {e : BitVec 8} {regs : Nat} {value : Nat → Nat}

/-- The writes are those of the lanes whose result reaches the field. -/
theorem mem_oneWrites {y : Target × W32} : y ∈ oneWrites v e regs value ↔
    ∃ l, reaches v e l ∧ y ∈ (targetsOf l (v.win l) e regs).zip (wordsOf regs (value l)) := by
  rw [oneWrites, mem_allWrites_one v e regs value fun _ => 0]
  constructor
  · rintro ⟨l, hl, hc | ⟨-, hhead⟩, hy⟩
    · exact ⟨l, ⟨hl, .inl hc⟩, hy⟩
    · have ht := (List.of_mem_zip hy).1
      refine ⟨l, ⟨hl, ?_⟩, hy⟩
      unfold targetsOf at ht
      split at ht
      · next hc => exact .inl hc
      · next hc => exact .inr ⟨.inl hc, hhead⟩
      · next hc => exact .inr ⟨.inr hc, hhead⟩
      · cases ht
  · rintro ⟨l, ⟨hl, hc⟩, hy⟩
    exact ⟨l, hl, hc.imp_right fun h => ⟨rfl, h.2⟩, hy⟩

/-- A register belongs to one lane of those whose result reaches it. -/
theorem reaches_unique {l m : Nat} {x : Target} (hl : reaches v e l) (hm : reaches v e m)
    (hx : x ∈ targetsOf l (v.win l) e regs) (hx' : x ∈ targetsOf m (v.win m) e regs) : l = m := by
  rcases hl.2 with hc | ⟨hc, hhead⟩
  · exact targetsOf_vec_lane hc hx hx'
  · rcases hm.2 with hv | ⟨-, hhead'⟩
    · rcases hc with hc | hc <;> rw [hc] at hv <;> cases hv
    · exact Option.some.inj (hhead.symm.trans hhead')

variable (hvec : ∀ l ∈ v.act, vecOk 512 (v.win l) e regs = true)
include hvec

theorem oneWrites_target {y : Target × W32} (hy : y ∈ oneWrites v e regs value) :
    y.1.plain ∧ (∀ m p, y.1 ≠ .p m p) ∧ named v e regs y.1 := by
  obtain ⟨l, hl, hz⟩ := mem_oneWrites.1 hy
  have ht := (List.of_mem_zip hz).1
  obtain ⟨hp, hn⟩ := targetsOf_plain (hvec l hl.1) y.1 ht
  exact ⟨hp, hn, l, hl.1, ht⟩

/-- Once the writes have landed, the field holds the result of each lane that reaches it. -/
theorem fieldValue_oneWrites (w : Wave) (hmask : regClass e = .mask → regs = 1) {l : Nat} (hl : reaches v e l)
    (hv : value l < 2 ^ (32 * regs)) :
    fieldValue (landAll w (oneWrites v e regs value)) (v.win l) l e regs = value l := by
  have hc : regClass e = .vec ∨ regClass e = .scalar ∨ regClass e = .mask := hl.2.imp_right And.left
  have hlen : (targetsOf l (v.win l) e regs).length = (wordsOf regs (value l)).length := by
    rw [targetsOf_length _ _ _ _ hmask hc, wordsOf_length]
  rw [fieldValue, map_read_zip _ _ _ hlen, ofWords_wordsOf, Nat.mod_eq_of_lt hv]
  intro y hy
  have hin : y ∈ oneWrites v e regs value := mem_oneWrites.2 ⟨l, hl, hy⟩
  obtain ⟨hp, hn, -⟩ := oneWrites_target hvec hin
  refine readTarget_landAll_in _ _ hp hn (fun z hz => (oneWrites_target hvec hz).1) hin fun z hz hzy => ?_
  obtain ⟨m, hm, hz⟩ := mem_oneWrites.1 hz
  obtain rfl := reaches_unique hm hl (List.of_mem_zip hz).1 (hzy ▸ (List.of_mem_zip hy).1)
  exact zip_unique (targetsOf_nodup ..) hz hy hzy

/-- Every register that the field does not name is left. -/
theorem readTarget_oneWrites_of_not_named (w : Wave) {x : Target} (hx : x.plain) (hn : ¬ named v e regs x) :
    readTarget (landAll w (oneWrites v e regs value)) x = readTarget w x :=
  readTarget_landAll_out _ _ hx (fun _ hy => (oneWrites_target hvec hy).1)
    fun _ hy h => hn (h ▸ (oneWrites_target hvec hy).2.2)

end

/-! ## What an issuing instruction may take for granted -/

theorem act_nodup {s : State} (h : Ctl) (hf : s.cur.again = none) : (viewOf h s).act.Nodup := by
  rw [viewOf_first h hf]
  exact ((List.nodup_range.filter _).filter _).filter _

theorem viewOf_wave (h : Ctl) {s : State} {w : Wave} (hf : s.cur.again = none)
    (hw : waveAt s s.cur.core s.cur.slot = some w) : (viewOf h s).wave = w := by
  rw [viewOf_first h hf]
  exact congrArg (·.getD waveInit) hw

/-- A register field lies in the allotment of R13 in every active lane. -/
theorem Issues.vecOk_512 {i : Instr} {s : State} {w : Wave} (hi : Issues i s w) {sh : Shape} (hsh : shape i = some sh)
    {o : Opd} (ho : o ∈ sh.opds) {regs : Nat} {c : Classes} (hu : o.use = .dst regs c ∨ o.use = .upd regs c) :
    ∀ l ∈ (viewOf sh.ctl s).act, vecOk 512 ((viewOf sh.ctl s).win l) o.enc regs = true := by
  intro l hl
  have hall := List.all_eq_true.1 (hi.window sh hsh l hl) o ho
  have hok : vecOk w.id.allot ((viewOf sh.ctl s).win l) o.enc regs = true := by
    rcases hu with hu | hu <;> simpa only [hu] using hall
  rw [vecOk, Bool.or_eq_true, decide_eq_true_eq] at hok ⊢
  exact hok.imp_right fun h => Nat.le_trans h hi.allot

/-- An instruction that issues, of fixed latency, whose lanes each give one result and perhaps move. -/
theorem perLane_goOuts {i : Instr} {s : State} {w : Wave} (hi : Issues i s w) {sh : Shape} {lat : Nat}
    (hsh : shape i = some sh) (hlat : sh.lat = some lat) {g : View → Nat → LaneRes} {e : BitVec 8} {regs : Nat}
    {value : Nat → Nat} {goto : Nat → Option W64}
    (hg : ∀ l, g (viewOf sh.ctl s) l = .done (goOut e regs (value l) (goto l))) :
    perLane i g s = setWave s s.cur.core s.cur.slot (movedWave lat (viewOf sh.ctl s) w e regs value goto) := by
  obtain ⟨hcore, hslot⟩ := viewOf_place sh.ctl hi.first
  have hw : waveAt s (viewOf sh.ctl s).core (viewOf sh.ctl s).slot = some w := by rw [hcore, hslot, hi.wave]
  have hwin := hi.window sh hsh
  rw [← viewOf_wave sh.ctl hi.first hi.wave] at hwin
  rw [perLane, hsh]
  simp only [hlat]
  rw [resultsOf_done sh _ g _ hwin fun l _ => hg l, commitFixed_goOuts lat _ w e regs value goto hw, hcore, hslot]

/-! ## The target of a branch (R162, R192) -/

theorem sval_toNat {w : Nat} (x : BitVec w) (h : 0 < w) : sval w x.toNat = x.toInt := by
  have hp : 2 ^ w = 2 * 2 ^ (w - 1) := by rw [← Nat.pow_succ', Nat.succ_eq_add_one, Nat.sub_add_cancel h]
  rw [sval, Nat.mod_eq_of_lt x.isLt, BitVec.toInt]
  split <;> split <;> omega

theorem ofNat_wrap (w : Nat) (x : Int) : BitVec.ofNat w (wrap w x) = BitVec.ofInt w x := by
  refine BitVec.eq_of_toNat_eq ?_
  have hpos : (0 : Int) < ((2 ^ w : Nat) : Int) := by exact_mod_cast Nat.two_pow_pos w
  have hlt := Int.emod_lt_of_pos x hpos
  rw [BitVec.toNat_ofNat, BitVec.toNat_ofInt, wrap, Nat.mod_eq_of_lt (by omega)]

theorem targetB_eq (clause : W64) (disp : BitVec 24) : targetB clause disp = clause + disp.signExtend 64 * 16#64 := by
  rw [targetB, ofNat_wrap, sval_toNat disp (by decide), BitVec.ofInt_add, BitVec.ofInt_mul, BitVec.mul_comm, BitVec.signExtend]
  simp

end Sys2Proof.Machine

namespace Sys2Proof.Claims
open Sys2Proof.Machine

/-! ## The instruction -/

theorem exec_loop (h : Ctl) (f : BF) (s : State) : exec (.loop h f) s = execLoop h f s := rfl

/-- The count that a lane leaves (R194). -/
def loopCount (h : Ctl) (f : BF) (s : State) (l : Nat) : Nat := (opdW h s l f.dst 1 - 1).toNat

/-- Where a lane goes after its count (R194). -/
def loopGoto (h : Ctl) (f : BF) (s : State) (l : Nat) : Option W64 :=
  if opdW h s l f.dst 1 - 1 = 0 then none else some (targetOf f s)

/-- The wave after `loop`: each lane with its count under way, and its fibre where it goes. -/
def loopWave (h : Ctl) (f : BF) (s : State) (w : Wave) : Wave :=
  movedWave 2 (viewOf h s) w f.dst 1 (loopCount h f s) (loopGoto h f s)

/-- The model's decrement is that of the word. -/
theorem opd_decrement (h : Ctl) (f : BF) (s : State) (l : Nat) :
    ((viewOf h s).opd l f.dst 1 + (2 ^ 32 - 1)) % 2 ^ 32 = loopCount h f s l := by
  rw [loopCount, ← toNat_opdW h s l f.dst Nat.one_pos]
  bv_omega

theorem loopGoto_eq {h : Ctl} (f : BF) {s : State} (hf : s.cur.again = none) (l : Nat) :
    loopGoto h f s l = if loopCount h f s l = 0 then none else some (targetB (viewOf h s).clause f.disp) := by
  have hclause : (viewOf h s).clause = s.cur.clause := by rw [viewOf_first h hf]; rfl
  rw [loopGoto, targetB_eq, hclause, targetOf, loopCount]
  simp only [← BitVec.toNat_inj]
  rfl

/-- Where the instruction issues, no lane faults, and each leaves its count and goes where that says. -/
theorem exec_loop_issues {h : Ctl} {f : BF} {s : State} {w : Wave} (hi : Issues (.loop h f) s w) :
    exec (.loop h f) s = .next (setWave s s.cur.core s.cur.slot (loopWave h f s w)) := by
  refine (exec_loop h f s).trans (congrArg Host.Outcome.next (perLane_goOuts hi rfl rfl fun l => ?_))
  rw [loopGoto_eq f hi.first, ← opd_decrement]
  rfl

theorem goingTo_loopGoto (h : Ctl) (f : BF) (s : State) (l : Nat) (fb : Fibre) :
    fb.goingTo (loopGoto h f s l) =
      if opdW h s l f.dst 1 - 1 = 0 then fb else { fb with pc := targetOf f s, fell := false } := by
  rw [loopGoto]
  split <;> rfl

/-- Settles O22. The lanes leave their counts as one result each, and their fibres move where the counts say; what a wave reads
once its results have landed does not depend on where its fibres are. -/
theorem loops : Obligations.Loops := by
  unfold Obligations.Loops
  intro h f s w hi
  dsimp only
  have hn := act_nodup h hi.first
  have hvec : ∀ l ∈ (viewOf h s).act, vecOk 512 ((viewOf h s).win l) f.dst 1 = true :=
    hi.vecOk_512 rfl (.head _) (.inr rfl)
  have hread : ∀ t, readTarget (settled (loopWave h f s w)) t = _ := settled_movedWave _ _ _ _ _ _ _ hn
  obtain ⟨hsame, hlanes⟩ : SameButMoves w (loopWave h f s w) ∧ _ := movedWave_same ..
  refine ⟨loopWave h f s w, exec_loop_issues hi, hsame, hlanes, ?_, ?_, ?_⟩
  · simp only [← goingTo_loopGoto]
    exact movedWave_fibres _ _ _ _ _ _ _ hn
  · intro l hl
    rw [fieldValue_congr hread]
    exact fieldValue_oneWrites hvec _ (fun _ => rfl) hl (BitVec.isLt _)
  · intro y hy hnot
    rw [hread, readTarget_oneWrites_of_not_named hvec _ hy hnot]

end Sys2Proof.Claims
end

section
/-! SUPPORT. The host queues (R346, R347): what a queue and a function read after one of them changes, and the three ways that a
doorbell write ends. -/

namespace Sys2Proof.Machine

/-! ## Queues and functions -/

@[simp] theorem hostQueue_setQueue_self (s : State) (k : Nat) (x : HostQueue) : hostQueue (setQueue s k x) k = x := by
  rw [hostQueue, setQueue, mget_mset_self, Option.getD_some]

@[simp] theorem hostQueue_setQueue_ne (s : State) {k j : Nat} (x : HostQueue) (h : j ≠ k) :
    hostQueue (setQueue s k x) j = hostQueue s j := by
  rw [hostQueue, setQueue, mget_mset_ne _ _ h.symm, hostQueue]

@[simp] theorem functionAt_setQueue (s : State) (k : Nat) (x : HostQueue) (f : Nat) :
    functionAt (setQueue s k x) f = functionAt s f := rfl

@[simp] theorem functionAt_modFunction_self (s : State) (f : Nat) (g : Function → Function) :
    functionAt (modFunction s f g) f = g (functionAt s f) := by
  rw [functionAt, modFunction, mget_mset_self, Option.getD_some]

@[simp] theorem hostQueue_message (s : State) (fn vector k : Nat) : hostQueue (message s fn vector) k = hostQueue s k := rfl

/-! ## Keys and rings -/

theorem noQueue_eq_false {fn q : Nat} (hf : fn ≤ 64) (hq : q ≤ 63) : noQueue fn q = false := by
  simp [noQueue, hf, hq]

/-- The log2 size stands in bits 4:0 (R346). -/
theorem cfgEntries_eq (cfg : W32) : cfgEntries cfg = 2 ^ min 16 (max 1 (cfg.toNat % 32)) := by
  simp [cfgEntries, field]

/-! ## The doorbell (R347) -/

/-- The state after a doorbell write that is discarded as an overrun. -/
def overrunState (s : State) (k : Nat) : State :=
  message (setQueue s k { hostQueue s k with overrun := true }) (k / 64) 0

variable {s : State} {k offset size : Nat} {v : W64}

theorem writeTail_of_misplaced (h : size ≠ 8 ∨ offset ≠ 0) : writeTail s k offset size v = overrunState s k := by
  have hb : (decide (size ≠ 8) || decide (offset ≠ 0)) = true := by simpa using h
  rw [writeTail, if_pos hb]; rfl

theorem writeTail_of_le (h : v.toNat ≤ (hostQueue s k).tail.toNat) : writeTail s k 0 8 v = s := by
  rw [writeTail, if_neg (by decide), if_pos h]

theorem writeTail_of_lt (h : (hostQueue s k).tail.toNat < v.toNat) :
    writeTail s k 0 8 v =
      if v.toNat ≤ (hostQueue s k).head.toNat + cfgEntries (hostQueue s k).ringCfg
        then setQueue s k { hostQueue s k with tail := v } else overrunState s k := by
  rw [writeTail, if_neg (by decide), if_neg (Nat.not_le.2 h)]
  rfl

end Sys2Proof.Machine

namespace Sys2Proof.Claims
open Sys2Proof.Machine

theorem QueueIs.key_eq {s : State} {fn q k : Nat} {x : HostQueue} (h : QueueIs s fn q k x) : k = qkey fn q := by
  obtain ⟨-, -, hk⟩ := h.named
  rw [hk, qkey, Nat.mul_comm]

/-- The function of a queue is in its key. -/
theorem QueueIs.key_div {s : State} {fn q k : Nat} {x : HostQueue} (h : QueueIs s fn q k x) : k / 64 = fn := by
  obtain ⟨-, hlast, hk⟩ := h.named
  omega

/-- A doorbell of a queue that there is writes the queue's tail. -/
theorem exec_qtaildbWrite {s : State} {fn q k : Nat} {x : HostQueue} (hq : QueueIs s fn q k x) (offset size : Nat) (v : W64) :
    exec (.qtaildbWrite fn q offset size v) s = .next (writeTail s k offset size v) := by
  obtain ⟨hfn, hlast, -⟩ := hq.named
  show execQtaildbWrite fn q offset size v s = _
  rw [execQtaildbWrite, noQueue_eq_false hfn hlast, if_neg Bool.false_ne_true, hq.key_eq]

theorem queueGets_setQueue {i : Instr} {s : State} {k : Nat} {x : HostQueue} (h : exec i s = .next (setQueue s k x)) :
    QueueGets i s k x :=
  ⟨_, h, rfl, hostQueue_setQueue_self .., fun _ hj => hostQueue_setQueue_ne _ _ hj⟩

theorem queueGetsAndTells_message {i : Instr} {s : State} {fn k vector : Nat} {x : HostQueue}
    (h : exec i s = .next (message (setQueue s k x) fn vector)) : QueueGetsAndTells i s fn k vector x := by
  refine ⟨_, h, rfl, ?_, fun j hj => ?_, ?_⟩
  · rw [hostQueue_message, hostQueue_setQueue_self]
  · rw [hostQueue_message, hostQueue_setQueue_ne _ _ hj]
  · rw [message, functionAt_modFunction_self, functionAt_setQueue, told]

/-- Settles O50. A write is compared with the tail and then with the head and the ring's size; one that falls out of the ring, or
has another size or place, leaves the overrun state. -/
theorem doorbells : Obligations.Doorbells := by
  unfold Obligations.Doorbells
  intro s fn q k x v offset size hq
  dsimp only
  have hrun := exec_qtaildbWrite hq offset size v
  obtain rfl : hostQueue s k = x := hq.is
  rw [← cfgEntries_eq]
  refine ⟨?ignored, ?raised, fun h => ?overrun⟩
  case ignored =>
    rintro rfl rfl hle
    rw [hrun, writeTail_of_le hle]
  case raised =>
    rintro rfl rfl hlt hle
    rw [writeTail_of_lt hlt, if_pos hle] at hrun
    exact queueGets_setQueue hrun
  case overrun =>
    have hout : writeTail s k offset size v = overrunState s k := by
      by_cases hplace : size ≠ 8 ∨ offset ≠ 0
      · exact writeTail_of_misplaced hplace
      · obtain ⟨rfl, rfl⟩ : size = 8 ∧ offset = 0 := by simpa using hplace
        obtain ⟨hlt, hfull⟩ : (hostQueue s k).tail.toNat < v.toNat ∧ _ := (or_assoc.2 h).resolve_left hplace
        rw [writeTail_of_lt hlt, if_neg (Nat.not_le.2 hfull)]
    rw [hout, overrunState, hq.key_div] at hrun
    exact queueGetsAndTells_message hrun

end Sys2Proof.Claims
end
